-- ==== Sys2Proof/Word.lean ====
section
/-! DEFINITION. The word types of the F900: 64-bit scalar registers, 32-bit FP values and bytes (R3, R8). -/
namespace Sys2Proof

/-- A scalar register, an address or a word of storage: 64 bits (R8). -/
abbrev Word := BitVec 64

/-- One byte of addressed storage. -/
abbrev Byte := BitVec 8

/-- All bits of one vector register of a hart: 32 lanes of 256 bits, lane l at bits [256 l + 255 : 256 l] (R96).
A hart with fewer lanes uses the low lanes. -/
abbrev VBits := BitVec 8192

/-- One bit per element position of a hart, bit i for element i (R96). -/
abbrev MBits := BitVec 8192

end Sys2Proof
end

