-- ==== Sys2Proof/Syntax.lean ====
section
/-! DEFINITION. The instructions of the F900, whole: one constructor per row of spec/opcode_table.json, the 379
instruction words of R39 and the 73 events of 95_what_each_step_holds.md. Operands stand in assembly order:
destination, sources, mask, token (R69, R117). -/
namespace Sys2Proof

/-- A scalar register s0 to s31 (R3). -/
abbrev SReg := Fin 32
/-- A vector register v0 to v31 (R3). -/
abbrev VReg := Fin 32
/-- A mask register m0 to m7 as an operand (R36). -/
abbrev MReg := Fin 8
/-- A mask selector: 0 unmasked, 1 to 7 selects m1 to m7 (R35). -/
abbrev MSel := Fin 8
/-- A completion token tk0 to tk15 (R22). -/
abbrev Tok := Fin 16
/-- A run port p0 to p7. -/
abbrev Port := Fin 8
/-- An accumulator tile a0 to a7. -/
abbrev Tile := Fin 8
/-- A copy channel ch0 to ch3. -/
abbrev Chan := Fin 4
/-- An ordering class of a beacon access (R190). -/
abbrev OClass := Fin 16
/-- The operand quartet of a copy command: q names s[4 (q + 1)] and the three registers after it (R231). -/
abbrev Quartet := Fin 7

/-- An operand size (R34, R70): 8, 16, 32 or 64 bits. -/
inductive Size where
  | b | h | w | d
deriving DecidableEq, Repr

/-- The B operand of a vector instruction in R format, chosen by FORM (R34, R118). -/
inductive VSrc where
  | vec (v : VReg)
  | scal (s : SReg)
  | imm (i : BitVec 5)
deriving DecidableEq, Repr

/-- The control registers SCR names (R90). -/
inductive CReg where
  | fcr | xst | hst
  | xi (k : Fin 5)       -- XI.NV, XI.DZ, XI.OF, XI.UF, XI.NX in this order
  | vl | vcfg | vcap
  | trpc | trcause | trfrom
  | trlg (k : Fin 8)
deriving DecidableEq, Repr

/-- The level of a barrier (R2, R268). -/
inductive BarLevel where
  | core | quad | die | pkg | pod
deriving DecidableEq, Repr

/-- The two shared units of a core (R116). -/
inductive SharedUnit where
  | pipe | net
deriving DecidableEq, Repr

/-- The causes of a trap (R44). -/
inductive Cause where
  | illegal | combo | undeclared | priv | fetch | beacon | runfault | runend | poison | race | tileoff
  | stageheld | chart | fragovf | lanelost | mirror | spill | brk | scall | watch
deriving DecidableEq, Repr

/-- What a ring neighbour answers to a hello (R334). -/
inductive HelloAnswer where
  | agrees | mismatch (gen : Nat) (members : BitVec 1024)
deriving DecidableEq, Repr

/-- The instructions and events of the F900. -/
inductive Instr where
  /-- R71: Adds two scalar registers at the operand size and writes the result to s[D], sign-extended to 64 bits. -/
  | add (sz : Size) (d : SReg) (a : SReg) (b : SReg)
  /-- R71: Subtracts s[B] from s[A] at the operand size, sign-extended to 64 bits. -/
  | sub (sz : Size) (d : SReg) (a : SReg) (b : SReg)
  /-- R71: Bitwise AND of two scalar registers at the operand size. -/
  | and (sz : Size) (d : SReg) (a : SReg) (b : SReg)
  /-- R71: Bitwise OR of two scalar registers at the operand size. -/
  | or (sz : Size) (d : SReg) (a : SReg) (b : SReg)
  /-- R71: Bitwise XOR of two scalar registers at the operand size. -/
  | xor (sz : Size) (d : SReg) (a : SReg) (b : SReg)
  /-- R71: Computes s[A] AND NOT s[B] at the operand size. -/
  | andn (sz : Size) (d : SReg) (a : SReg) (b : SReg)
  /-- R72: Shifts s[A] left by an immediate amount below the operand width. -/
  | slli (sz : Size) (d : SReg) (a : SReg) (amt : Fin 64)
  /-- R72: Shifts s[A] right logically by an immediate amount. -/
  | srli (sz : Size) (d : SReg) (a : SReg) (amt : Fin 64)
  /-- R72: Shifts s[A] right arithmetically by an immediate amount. -/
  | srai (sz : Size) (d : SReg) (a : SReg) (amt : Fin 64)
  /-- R72: Rotates s[A] right by an immediate amount within the operand width. -/
  | rori (sz : Size) (d : SReg) (a : SReg) (amt : Fin 64)
  /-- R71: Shifts s[A] left by s[B] mod w. -/
  | sll (sz : Size) (d : SReg) (a : SReg) (b : SReg)
  /-- R71: Shifts s[A] right logically by s[B] mod w. -/
  | srl (sz : Size) (d : SReg) (a : SReg) (b : SReg)
  /-- R71: Shifts s[A] right arithmetically by s[B] mod w. -/
  | sra (sz : Size) (d : SReg) (a : SReg) (b : SReg)
  /-- R71: Rotates s[A] right by s[B] mod w. -/
  | ror (sz : Size) (d : SReg) (a : SReg) (b : SReg)
  /-- R71: Writes 1 if s[A] is below s[B] as signed integers, else 0. -/
  | slt (sz : Size) (d : SReg) (a : SReg) (b : SReg)
  /-- R71: Writes 1 if s[A] is below s[B] as unsigned integers, else 0. -/
  | sltu (sz : Size) (d : SReg) (a : SReg) (b : SReg)
  /-- R71: Writes 1 if s[A] equals s[B], else 0. -/
  | seq (sz : Size) (d : SReg) (a : SReg) (b : SReg)
  /-- R71: Writes the signed minimum of s[A] and s[B]. -/
  | min (sz : Size) (d : SReg) (a : SReg) (b : SReg)
  /-- R71: Writes the signed maximum of s[A] and s[B]. -/
  | max (sz : Size) (d : SReg) (a : SReg) (b : SReg)
  /-- R71: Writes the unsigned minimum of s[A] and s[B]. -/
  | minu (sz : Size) (d : SReg) (a : SReg) (b : SReg)
  /-- R71: Writes the unsigned maximum of s[A] and s[B]. -/
  | maxu (sz : Size) (d : SReg) (a : SReg) (b : SReg)
  /-- R71: Selects s[A] if the old s[D] is nonzero, else s[B]. -/
  | sel (sz : Size) (d : SReg) (a : SReg) (b : SReg)
  /-- R73: Delivers the low half of the product of s[A] and s[B], with latency 3. -/
  | mul (sz : Size) (d : SReg) (a : SReg) (b : SReg)
  /-- R73: Delivers the high half of the signed product. -/
  | mulh (sz : Size) (d : SReg) (a : SReg) (b : SReg)
  /-- R73: Delivers the high half of the unsigned product. -/
  | mulhu (sz : Size) (d : SReg) (a : SReg) (b : SReg)
  /-- R73: Delivers the high half of the signed-by-unsigned product. -/
  | mulhsu (sz : Size) (d : SReg) (a : SReg) (b : SReg)
  /-- R74: Adds a sign-extended 14-bit immediate to s[A]. -/
  | addi (d : SReg) (a : SReg) (imm : BitVec 14)
  /-- R74: ANDs s[A] with a sign-extended 14-bit immediate. -/
  | andi (d : SReg) (a : SReg) (imm : BitVec 14)
  /-- R74: ORs s[A] with a sign-extended 14-bit immediate. -/
  | ori (d : SReg) (a : SReg) (imm : BitVec 14)
  /-- R74: XORs s[A] with a sign-extended 14-bit immediate. -/
  | xori (d : SReg) (a : SReg) (imm : BitVec 14)
  /-- R75: Loads the sign-extended 19-bit immediate shifted left by 14 into s[D]. -/
  | lhi (d : SReg) (imm : BitVec 19)
  /-- R75: Writes PC plus the sign-extended 19-bit immediate shifted left by 14 into s[D]. -/
  | adpc (d : SReg) (imm : BitVec 19)
  /-- R76: Branches when s[A] equals s[B]. -/
  | beq (a : SReg) (b : SReg) (off : BitVec 13)
  /-- R76: Branches when s[A] differs from s[B]. -/
  | bne (a : SReg) (b : SReg) (off : BitVec 13)
  /-- R76: Branches when s[A] is below s[B] as INT64. -/
  | blt (a : SReg) (b : SReg) (off : BitVec 13)
  /-- R76: Branches when s[A] is at least s[B] as INT64. -/
  | bge (a : SReg) (b : SReg) (off : BitVec 13)
  /-- R76: Branches when s[A] is below s[B] as UINT64. -/
  | bltu (a : SReg) (b : SReg) (off : BitVec 13)
  /-- R76: Branches when s[A] is at least s[B] as UINT64. -/
  | bgeu (a : SReg) (b : SReg) (off : BitVec 13)
  /-- R77: Jumps PC-relative by a 25-bit word offset without a link. -/
  | j (off : BitVec 25)
  /-- R77: Writes PC + 4 into s31 and jumps PC-relative by a 25-bit word offset. -/
  | call (off : BitVec 25)
  /-- R78: Jumps to the address in s[A] and writes the link into s[D], trapping FETCH on a misaligned target. -/
  | jr (d : SReg) (a : SReg)
  /-- R81: Loads 1, 2, 4 or 8 zero-extended Chart bytes into s[D], trapping CHART on misalignment or out-of-range access. -/
  | ldc (sz : Size) (d : SReg) (a : SReg) (off : BitVec 12)
  /-- R81: Loads 1, 2 or 4 sign-extended Chart bytes into s[D]. -/
  | ldcs (sz : Size) (d : SReg) (a : SReg) (off : BitVec 12)
  /-- R81: Stores the low SIZE bytes of s[D] into the Chart. -/
  | stc (sz : Size) (d : SReg) (a : SReg) (off : BitVec 12)
  /-- R82: Starts a signed 64-bit division on the shared divider, posting to a token. -/
  | div (d : SReg) (a : SReg) (b : SReg) (tk : Tok)
  /-- R82: Starts an unsigned 64-bit division on the divider. -/
  | divu (d : SReg) (a : SReg) (b : SReg) (tk : Tok)
  /-- R82: Starts a signed 64-bit remainder on the divider. -/
  | rem (d : SReg) (a : SReg) (b : SReg) (tk : Tok)
  /-- R82: Starts an unsigned 64-bit remainder on the divider. -/
  | remu (d : SReg) (a : SReg) (b : SReg) (tk : Tok)
  /-- R82: Starts a signed 32-bit division on the divider. -/
  | divw (d : SReg) (a : SReg) (b : SReg) (tk : Tok)
  /-- R82: Starts an unsigned 32-bit division on the divider. -/
  | divuw (d : SReg) (a : SReg) (b : SReg) (tk : Tok)
  /-- R82: Starts a signed 32-bit remainder on the divider. -/
  | remw (d : SReg) (a : SReg) (b : SReg) (tk : Tok)
  /-- R82: Starts an unsigned 32-bit remainder on the divider. -/
  | remuw (d : SReg) (a : SReg) (b : SReg) (tk : Tok)
  /-- R82: Starts an integer square root of s[A] as UINT64 on the divider. -/
  | isqrt (d : SReg) (a : SReg) (tk : Tok)
  /-- R82: Starts an FP32 square root on the divider, rounded in FCR.RM. -/
  | fsqrt (d : SReg) (a : SReg) (tk : Tok)
  /-- R85: FP32 add rounded once in FCR.RM, latency 4. -/
  | fadd (d : SReg) (a : SReg) (b : SReg)
  /-- R85: FP32 subtract rounded once in FCR.RM. -/
  | fsub (d : SReg) (a : SReg) (b : SReg)
  /-- R85: FP32 multiply rounded once in FCR.RM. -/
  | fmul (d : SReg) (a : SReg) (b : SReg)
  /-- R85: FP32 fused a × b + d. -/
  | fmadd (d : SReg) (a : SReg) (b : SReg)
  /-- R85: FP32 fused a × b − d. -/
  | fmsub (d : SReg) (a : SReg) (b : SReg)
  /-- R85: FP32 fused −a × b + d. -/
  | fnmsub (d : SReg) (a : SReg) (b : SReg)
  /-- R86: Writes 1 when two FP32 values are equal. -/
  | feq (d : SReg) (a : SReg) (b : SReg)
  /-- R86: Writes 1 when a < b in FP32. -/
  | flt (d : SReg) (a : SReg) (b : SReg)
  /-- R86: Writes 1 when a ≤ b in FP32. -/
  | fle (d : SReg) (a : SReg) (b : SReg)
  /-- R86: Writes min_f32 of two FP32 values. -/
  | fmin (d : SReg) (a : SReg) (b : SReg)
  /-- R86: Writes max_f32 of two FP32 values. -/
  | fmax (d : SReg) (a : SReg) (b : SReg)
  /-- R86: Writes a with the sign of b. -/
  | fsgnj (d : SReg) (a : SReg) (b : SReg)
  /-- R86: Writes a with the inverted sign of b. -/
  | fsgnjn (d : SReg) (a : SReg) (b : SReg)
  /-- R86: Writes a with its sign XOR the sign of b. -/
  | fsgnjx (d : SReg) (a : SReg) (b : SReg)
  /-- R87: Writes the one-hot class mask of an FP32 value. -/
  | fclass (d : SReg) (a : SReg)
  /-- R88: Converts FP32 to INT64 in FCR.RM. -/
  | cvtfs (d : SReg) (a : SReg)
  /-- R88: Converts FP32 to UINT64 in FCR.RM. -/
  | cvtfu (d : SReg) (a : SReg)
  /-- R88: Converts FP32 to INT64 with RTZ. -/
  | cvtfsz (d : SReg) (a : SReg)
  /-- R88: Converts FP32 to UINT64 with RTZ. -/
  | cvtfuz (d : SReg) (a : SReg)
  /-- R88: Converts INT64 to FP32. -/
  | cvtsf (d : SReg) (a : SReg)
  /-- R88: Converts UINT64 to FP32. -/
  | cvtuf (d : SReg) (a : SReg)
  /-- R88: Converts FP32 to BF16. -/
  | cvtfh (d : SReg) (a : SReg)
  /-- R88: Converts BF16 to FP32 exactly. -/
  | cvthf (d : SReg) (a : SReg)
  /-- R91: Reads a control register into s[D]. -/
  | crr (d : SReg) (c : CReg)
  /-- R91: Writes s[A] into a control register, returning the old value; effect two slots later. -/
  | crw (d : SReg) (c : CReg) (a : SReg)
  /-- R91: Sets the bits of s[A] in a control register, returning the old value. -/
  | crset (d : SReg) (c : CReg) (a : SReg)
  /-- R91: Clears the bits of s[A] in a control register, returning the old value. -/
  | crclr (d : SReg) (c : CReg) (a : SReg)
  /-- R93: Occupies one issue slot. -/
  | nop
  /-- R93: Occupies n issue slots, from 1 to 64. -/
  | dly (cnt : Fin 64)
  /-- R24: Holds issue until token tkN reaches the threshold in s[A] under the signed 32-bit test. -/
  | tkwThreshold (tk : Tok) (a : SReg)
  /-- R24: Holds issue until no operation posting to tkN is outstanding. -/
  | tkwDrain (tk : Tok)
  /-- R26: Reads a token counter into s[D], zero-extended. -/
  | tkr (d : SReg) (tk : Tok)
  /-- R26: Sets a token counter to s[A][31:0]. -/
  | tkc (tk : Tok) (a : SReg)
  /-- R123: Vector integer add modulo 2^SEW. -/
  | vadd (d : VReg) (a : VReg) (b : VSrc) (m : MSel)
  /-- R123: Vector integer subtract. -/
  | vsub (d : VReg) (a : VReg) (b : VSrc) (m : MSel)
  /-- R123: Vector reverse subtract b − a. -/
  | vrsub (d : VReg) (a : VReg) (b : VSrc) (m : MSel)
  /-- R123: Vector bitwise AND. -/
  | vand (d : VReg) (a : VReg) (b : VSrc) (m : MSel)
  /-- R123: Vector bitwise OR. -/
  | vor (d : VReg) (a : VReg) (b : VSrc) (m : MSel)
  /-- R123: Vector bitwise XOR. -/
  | vxor (d : VReg) (a : VReg) (b : VSrc) (m : MSel)
  /-- R123: Vector shift left. -/
  | vsll (d : VReg) (a : VReg) (b : VSrc) (m : MSel)
  /-- R123: Vector logical shift right. -/
  | vsrl (d : VReg) (a : VReg) (b : VSrc) (m : MSel)
  /-- R123: Vector arithmetic shift right. -/
  | vsra (d : VReg) (a : VReg) (b : VSrc) (m : MSel)
  /-- R123: Vector move of b into the destination. -/
  | vmv (d : VReg) (b : VSrc) (m : MSel)
  /-- R123: Vector multiply, low SEW bits. -/
  | vmul (d : VReg) (a : VReg) (b : VSrc) (m : MSel)
  /-- R123: Vector multiply high, signed. -/
  | vmulh (d : VReg) (a : VReg) (b : VSrc) (m : MSel)
  /-- R123: Vector multiply high, unsigned. -/
  | vmulhu (d : VReg) (a : VReg) (b : VSrc) (m : MSel)
  /-- R123: Vector multiply high, signed by unsigned. -/
  | vmulhsu (d : VReg) (a : VReg) (b : VSrc) (m : MSel)
  /-- R123: Vector multiply-accumulate d + a × b. -/
  | vmacc (d : VReg) (a : VReg) (b : VSrc) (m : MSel)
  /-- R123: Vector signed minimum. -/
  | vmin (d : VReg) (a : VReg) (b : VSrc) (m : MSel)
  /-- R123: Vector signed maximum. -/
  | vmax (d : VReg) (a : VReg) (b : VSrc) (m : MSel)
  /-- R123: Vector unsigned minimum. -/
  | vminu (d : VReg) (a : VReg) (b : VSrc) (m : MSel)
  /-- R123: Vector unsigned maximum. -/
  | vmaxu (d : VReg) (a : VReg) (b : VSrc) (m : MSel)
  /-- R123: Vector signed saturating add. -/
  | vsadd (d : VReg) (a : VReg) (b : VSrc) (m : MSel)
  /-- R123: Vector unsigned saturating add. -/
  | vsaddu (d : VReg) (a : VReg) (b : VSrc) (m : MSel)
  /-- R123: Vector signed saturating subtract. -/
  | vssub (d : VReg) (a : VReg) (b : VSrc) (m : MSel)
  /-- R123: Vector unsigned saturating subtract. -/
  | vssubu (d : VReg) (a : VReg) (b : VSrc) (m : MSel)
  /-- R123: Vector widening signed add. -/
  | vwadd (d : VReg) (a : VReg) (b : VSrc) (m : MSel)
  /-- R123: Vector widening unsigned add. -/
  | vwaddu (d : VReg) (a : VReg) (b : VSrc) (m : MSel)
  /-- R123: Vector widening signed subtract. -/
  | vwsub (d : VReg) (a : VReg) (b : VSrc) (m : MSel)
  /-- R123: Vector widening unsigned subtract. -/
  | vwsubu (d : VReg) (a : VReg) (b : VSrc) (m : MSel)
  /-- R123: Vector widening signed multiply. -/
  | vwmul (d : VReg) (a : VReg) (b : VSrc) (m : MSel)
  /-- R123: Vector widening unsigned multiply. -/
  | vwmulu (d : VReg) (a : VReg) (b : VSrc) (m : MSel)
  /-- R123: Vector narrowing arithmetic shift right. -/
  | vnsra (d : VReg) (a : VReg) (b : VSrc) (m : MSel)
  /-- R123: Vector narrowing shift right with signed saturation. -/
  | vnclip (d : VReg) (a : VReg) (b : VSrc) (m : MSel)
  /-- R124: Vector FP32 add. -/
  | vfadd (d : VReg) (a : VReg) (b : VSrc) (m : MSel)
  /-- R124: Vector FP32 subtract. -/
  | vfsub (d : VReg) (a : VReg) (b : VSrc) (m : MSel)
  /-- R124: Vector FP32 reverse subtract. -/
  | vfrsub (d : VReg) (a : VReg) (b : VSrc) (m : MSel)
  /-- R124: Vector FP32 multiply. -/
  | vfmul (d : VReg) (a : VReg) (b : VSrc) (m : MSel)
  /-- R124: Vector FP32 minimum. -/
  | vfmin (d : VReg) (a : VReg) (b : VSrc) (m : MSel)
  /-- R124: Vector FP32 maximum. -/
  | vfmax (d : VReg) (a : VReg) (b : VSrc) (m : MSel)
  /-- R124: Vector FP32 sign injection. -/
  | vfsgnj (d : VReg) (a : VReg) (b : VSrc) (m : MSel)
  /-- R124: Vector FP32 inverted sign injection. -/
  | vfsgnjn (d : VReg) (a : VReg) (b : VSrc) (m : MSel)
  /-- R124: Vector FP32 XOR sign injection. -/
  | vfsgnjx (d : VReg) (a : VReg) (b : VSrc) (m : MSel)
  /-- R124: Vector FP32 classify. -/
  | vfclass (d : VReg) (a : VReg) (m : MSel)
  /-- R124: Vector BF16 add. -/
  | vfaddBf (d : VReg) (a : VReg) (b : VSrc) (m : MSel)
  /-- R124: Vector BF16 subtract. -/
  | vfsubBf (d : VReg) (a : VReg) (b : VSrc) (m : MSel)
  /-- R124: Vector BF16 reverse subtract. -/
  | vfrsubBf (d : VReg) (a : VReg) (b : VSrc) (m : MSel)
  /-- R124: Vector BF16 multiply. -/
  | vfmulBf (d : VReg) (a : VReg) (b : VSrc) (m : MSel)
  /-- R124: Vector BF16 minimum. -/
  | vfminBf (d : VReg) (a : VReg) (b : VSrc) (m : MSel)
  /-- R124: Vector BF16 maximum. -/
  | vfmaxBf (d : VReg) (a : VReg) (b : VSrc) (m : MSel)
  /-- R124: Vector BF16 sign injection. -/
  | vfsgnjBf (d : VReg) (a : VReg) (b : VSrc) (m : MSel)
  /-- R124: Vector BF16 inverted sign injection. -/
  | vfsgnjnBf (d : VReg) (a : VReg) (b : VSrc) (m : MSel)
  /-- R124: Vector BF16 XOR sign injection. -/
  | vfsgnjxBf (d : VReg) (a : VReg) (b : VSrc) (m : MSel)
  /-- R124: Vector BF16 classify. -/
  | vfclassBf (d : VReg) (a : VReg) (m : MSel)
  /-- R125: Widening BF16 add into FP32. -/
  | vfwaddBf (d : VReg) (a : VReg) (b : VSrc) (m : MSel)
  /-- R125: Widening BF16 subtract into FP32. -/
  | vfwsubBf (d : VReg) (a : VReg) (b : VSrc) (m : MSel)
  /-- R125: Widening BF16 multiply into FP32. -/
  | vfwmulBf (d : VReg) (a : VReg) (b : VSrc) (m : MSel)
  /-- R125: Adds a BF16 operand to an FP32 operand into FP32. -/
  | vfwaddWbf (d : VReg) (a : VReg) (b : VSrc) (m : MSel)
  /-- R125: Subtracts a BF16 operand from an FP32 operand into FP32. -/
  | vfwsubWbf (d : VReg) (a : VReg) (b : VSrc) (m : MSel)
  /-- R126: FP32 fused a × b + d. -/
  | vfmacc (d : VReg) (a : VReg) (b : VSrc) (m : MSel)
  /-- R126: FP32 fused −a × b − d. -/
  | vfnmacc (d : VReg) (a : VReg) (b : VSrc) (m : MSel)
  /-- R126: FP32 fused a × b − d. -/
  | vfmsac (d : VReg) (a : VReg) (b : VSrc) (m : MSel)
  /-- R126: FP32 fused −a × b + d. -/
  | vfnmsac (d : VReg) (a : VReg) (b : VSrc) (m : MSel)
  /-- R126: FP32 fused d × a + b. -/
  | vfmadd (d : VReg) (a : VReg) (b : VSrc) (m : MSel)
  /-- R126: BF16 fused a × b + d. -/
  | vfmaccBf (d : VReg) (a : VReg) (b : VSrc) (m : MSel)
  /-- R126: BF16 fused −a × b − d. -/
  | vfnmaccBf (d : VReg) (a : VReg) (b : VSrc) (m : MSel)
  /-- R126: BF16 fused a × b − d. -/
  | vfmsacBf (d : VReg) (a : VReg) (b : VSrc) (m : MSel)
  /-- R126: BF16 fused −a × b + d. -/
  | vfnmsacBf (d : VReg) (a : VReg) (b : VSrc) (m : MSel)
  /-- R126: BF16 fused d × a + b. -/
  | vfmaddBf (d : VReg) (a : VReg) (b : VSrc) (m : MSel)
  /-- R126: Widening BF16 fused a × b + d into FP32. -/
  | vfwmaccBf (d : VReg) (a : VReg) (b : VSrc) (m : MSel)
  /-- R126: Widening BF16 fused −a × b − d into FP32. -/
  | vfwnmaccBf (d : VReg) (a : VReg) (b : VSrc) (m : MSel)
  /-- R126: Widening BF16 fused a × b − d into FP32. -/
  | vfwmsacBf (d : VReg) (a : VReg) (b : VSrc) (m : MSel)
  /-- R126: Widening BF16 fused −a × b + d into FP32. -/
  | vfwnmsacBf (d : VReg) (a : VReg) (b : VSrc) (m : MSel)
  /-- R127: Converts FP32 to INT32 in rm. -/
  | vfcvtXF (d : VReg) (a : VReg) (m : MSel)
  /-- R127: Converts FP32 to UINT32 in rm. -/
  | vfcvtXuF (d : VReg) (a : VReg) (m : MSel)
  /-- R127: Converts FP32 to INT32 with RTZ. -/
  | vfcvtRtzXF (d : VReg) (a : VReg) (m : MSel)
  /-- R127: Converts FP32 to UINT32 with RTZ. -/
  | vfcvtRtzXuF (d : VReg) (a : VReg) (m : MSel)
  /-- R127: Converts INT32 to FP32. -/
  | vfcvtFX (d : VReg) (a : VReg) (m : MSel)
  /-- R127: Converts UINT32 to FP32. -/
  | vfcvtFXu (d : VReg) (a : VReg) (m : MSel)
  /-- R127: Converts BF16 to INT16. -/
  | vfcvtXBf (d : VReg) (a : VReg) (m : MSel)
  /-- R127: Converts INT16 to BF16. -/
  | vfcvtBfX (d : VReg) (a : VReg) (m : MSel)
  /-- R127: Widens BF16 to FP32 exactly. -/
  | vfwcvtFBf (d : VReg) (a : VReg) (m : MSel)
  /-- R127: Converts FP32 to INT64. -/
  | vfwcvtXF (d : VReg) (a : VReg) (m : MSel)
  /-- R127: Converts INT16 to FP32. -/
  | vfwcvtFX (d : VReg) (a : VReg) (m : MSel)
  /-- R127: Narrows FP32 to BF16. -/
  | vfncvtBfF (d : VReg) (a : VReg) (m : MSel)
  /-- R127: Narrows FP32 to INT16. -/
  | vfncvtXF (d : VReg) (a : VReg) (m : MSel)
  /-- R127: Narrows FP32 to UINT16. -/
  | vfncvtXuF (d : VReg) (a : VReg) (m : MSel)
  /-- R127: Narrows INT64 to FP32. -/
  | vfncvtFX (d : VReg) (a : VReg) (m : MSel)
  /-- R127: Sign-extends elements of SEW/2 to SEW. -/
  | vsext2 (d : VReg) (a : VReg) (m : MSel)
  /-- R127: Zero-extends elements of SEW/2 to SEW. -/
  | vzext2 (d : VReg) (a : VReg) (m : MSel)
  /-- R127: Sign-extends elements of SEW/4 to SEW. -/
  | vsext4 (d : VReg) (a : VReg) (m : MSel)
  /-- R127: Zero-extends elements of SEW/4 to SEW. -/
  | vzext4 (d : VReg) (a : VReg) (m : MSel)
  /-- R127: Sign-extends elements of SEW/8 to SEW. -/
  | vsext8 (d : VReg) (a : VReg) (m : MSel)
  /-- R127: Zero-extends elements of SEW/8 to SEW. -/
  | vzext8 (d : VReg) (a : VReg) (m : MSel)
  /-- R128: Writes mask bits where a = b. -/
  | vmseq (d : MReg) (a : VReg) (b : VSrc) (m : MSel)
  /-- R128: Writes mask bits where a ≠ b. -/
  | vmsne (d : MReg) (a : VReg) (b : VSrc) (m : MSel)
  /-- R128: Writes mask bits where a < b signed. -/
  | vmslt (d : MReg) (a : VReg) (b : VSrc) (m : MSel)
  /-- R128: Writes mask bits where a < b unsigned. -/
  | vmsltu (d : MReg) (a : VReg) (b : VSrc) (m : MSel)
  /-- R128: Writes mask bits where a ≤ b signed. -/
  | vmsle (d : MReg) (a : VReg) (b : VSrc) (m : MSel)
  /-- R128: Writes mask bits where a ≤ b unsigned. -/
  | vmsleu (d : MReg) (a : VReg) (b : VSrc) (m : MSel)
  /-- R128: Writes mask bits where a > b signed. -/
  | vmsgt (d : MReg) (a : VReg) (b : VSrc) (m : MSel)
  /-- R128: Writes mask bits where a > b unsigned. -/
  | vmsgtu (d : MReg) (a : VReg) (b : VSrc) (m : MSel)
  /-- R128: Writes mask bits where FP32 a = b. -/
  | vmfeq (d : MReg) (a : VReg) (b : VSrc) (m : MSel)
  /-- R128: Writes mask bits where FP32 a ≠ b. -/
  | vmfne (d : MReg) (a : VReg) (b : VSrc) (m : MSel)
  /-- R128: Writes mask bits where FP32 a < b. -/
  | vmflt (d : MReg) (a : VReg) (b : VSrc) (m : MSel)
  /-- R128: Writes mask bits where FP32 a ≤ b. -/
  | vmfle (d : MReg) (a : VReg) (b : VSrc) (m : MSel)
  /-- R128: Writes mask bits where FP32 a > b. -/
  | vmfgt (d : MReg) (a : VReg) (b : VSrc) (m : MSel)
  /-- R128: Writes mask bits where FP32 a ≥ b. -/
  | vmfge (d : MReg) (a : VReg) (b : VSrc) (m : MSel)
  /-- R128: Writes mask bits where BF16 a = b. -/
  | vmfeqBf (d : MReg) (a : VReg) (b : VSrc) (m : MSel)
  /-- R128: Writes mask bits where BF16 a ≠ b. -/
  | vmfneBf (d : MReg) (a : VReg) (b : VSrc) (m : MSel)
  /-- R128: Writes mask bits where BF16 a < b. -/
  | vmfltBf (d : MReg) (a : VReg) (b : VSrc) (m : MSel)
  /-- R128: Writes mask bits where BF16 a ≤ b. -/
  | vmfleBf (d : MReg) (a : VReg) (b : VSrc) (m : MSel)
  /-- R128: Writes mask bits where BF16 a > b. -/
  | vmfgtBf (d : MReg) (a : VReg) (b : VSrc) (m : MSel)
  /-- R128: Writes mask bits where BF16 a ≥ b. -/
  | vmfgeBf (d : MReg) (a : VReg) (b : VSrc) (m : MSel)
  /-- R134: Mask AND. -/
  | vmand (d : MReg) (a : MReg) (b : MReg) (m : MSel)
  /-- R134: Mask OR. -/
  | vmor (d : MReg) (a : MReg) (b : MReg) (m : MSel)
  /-- R134: Mask XOR. -/
  | vmxor (d : MReg) (a : MReg) (b : MReg) (m : MSel)
  /-- R134: Mask AND NOT. -/
  | vmandn (d : MReg) (a : MReg) (b : MReg) (m : MSel)
  /-- R134: Mask OR NOT. -/
  | vmorn (d : MReg) (a : MReg) (b : MReg) (m : MSel)
  /-- R134: Mask NAND. -/
  | vmnand (d : MReg) (a : MReg) (b : MReg) (m : MSel)
  /-- R134: Mask NOR. -/
  | vmnor (d : MReg) (a : MReg) (b : MReg) (m : MSel)
  /-- R134: Mask XNOR. -/
  | vmxnor (d : MReg) (a : MReg) (b : MReg) (m : MSel)
  /-- R134: Sets mask bits before the first set bit. -/
  | vmsbf (d : MReg) (a : MReg) (m : MSel)
  /-- R134: Sets mask bits up to and including the first set bit. -/
  | vmsif (d : MReg) (a : MReg) (m : MSel)
  /-- R134: Sets only the first set bit. -/
  | vmsof (d : MReg) (a : MReg) (m : MSel)
  /-- R134: Writes the prefix count of set mask bits per element. -/
  | viota (d : VReg) (a : MReg) (m : MSel)
  /-- R134: Writes each element's index. -/
  | vid (d : VReg) (m : MSel)
  /-- R135: Writes the count of set active mask bits into element 0. -/
  | vmpopc (d : VReg) (a : MReg) (m : MSel)
  /-- R135: Writes the first set active index, or −1, into element 0. -/
  | vmfirst (d : VReg) (a : MReg) (m : MSel)
  /-- R137: Gathers elements of vA by vector indices. -/
  | vrgather (d : VReg) (a : VReg) (b : VReg) (m : MSel) (tk : Tok)
  /-- R137: Broadcasts element s[B] of vA. -/
  | vrgatherx (d : VReg) (a : VReg) (b : SReg) (m : MSel) (tk : Tok)
  /-- R137: Slides elements up by s[B]. -/
  | vslideup (d : VReg) (a : VReg) (b : SReg) (m : MSel) (tk : Tok)
  /-- R137: Slides elements down by s[B]. -/
  | vslidedown (d : VReg) (a : VReg) (b : SReg) (m : MSel) (tk : Tok)
  /-- R137: Slides up by one, inserting a scalar at element 0. -/
  | vslide1up (d : VReg) (a : VReg) (b : SReg) (m : MSel) (tk : Tok)
  /-- R137: Slides down by one, inserting a scalar at the top. -/
  | vslide1down (d : VReg) (a : VReg) (b : SReg) (m : MSel) (tk : Tok)
  /-- R138: Packs elements selected by a mask to the low fragment positions. -/
  | vcompress (d : VReg) (a : VReg) (b : MReg) (tk : Tok)
  /-- R138: Moves element s[B] of vA to a scalar register, posting. -/
  | vmvxs (d : SReg) (a : VReg) (b : SReg) (tk : Tok)
  /-- R138: Moves a scalar into element 0. -/
  | vmvsx (d : VReg) (a : SReg) (m : MSel) (tk : Tok)
  /-- R137: Reverses the elements below VL. -/
  | vrev (d : VReg) (a : VReg) (m : MSel) (tk : Tok)
  /-- R129: Ordered FP32 sum reduction into a scalar. -/
  | vredoFsum (d : SReg) (a : VReg) (b : SReg) (m : MSel) (tk : Tok)
  /-- R129: Ordered FP32 maximum reduction. -/
  | vredoFmax (d : SReg) (a : VReg) (b : SReg) (m : MSel) (tk : Tok)
  /-- R129: Ordered FP32 minimum reduction. -/
  | vredoFmin (d : SReg) (a : VReg) (b : SReg) (m : MSel) (tk : Tok)
  /-- R129: Ordered sum of BF16 elements in FP32. -/
  | vredoBfsum (d : SReg) (a : VReg) (b : SReg) (m : MSel) (tk : Tok)
  /-- R129: Integer sum reduction. -/
  | vredoSum (d : SReg) (a : VReg) (b : SReg) (m : MSel) (tk : Tok)
  /-- R129: Signed integer maximum reduction. -/
  | vredoMax (d : SReg) (a : VReg) (b : SReg) (m : MSel) (tk : Tok)
  /-- R129: Signed integer minimum reduction. -/
  | vredoMin (d : SReg) (a : VReg) (b : SReg) (m : MSel) (tk : Tok)
  /-- R129: Unsigned integer minimum reduction. -/
  | vredoMinu (d : SReg) (a : VReg) (b : SReg) (m : MSel) (tk : Tok)
  /-- R129: Tree FP32 sum reduction. -/
  | vredtFsum (d : SReg) (a : VReg) (b : SReg) (m : MSel) (tk : Tok)
  /-- R129: Tree FP32 maximum reduction. -/
  | vredtFmax (d : SReg) (a : VReg) (b : SReg) (m : MSel) (tk : Tok)
  /-- R129: Tree FP32 minimum reduction. -/
  | vredtFmin (d : SReg) (a : VReg) (b : SReg) (m : MSel) (tk : Tok)
  /-- R129: Tree sum of BF16 elements in FP32. -/
  | vredtBfsum (d : SReg) (a : VReg) (b : SReg) (m : MSel) (tk : Tok)
  /-- R129: Tree integer sum reduction. -/
  | vredtSum (d : SReg) (a : VReg) (b : SReg) (m : MSel) (tk : Tok)
  /-- R129: Tree signed maximum reduction. -/
  | vredtMax (d : SReg) (a : VReg) (b : SReg) (m : MSel) (tk : Tok)
  /-- R129: Tree signed minimum reduction. -/
  | vredtMin (d : SReg) (a : VReg) (b : SReg) (m : MSel) (tk : Tok)
  /-- R129: Tree unsigned maximum reduction. -/
  | vredtMaxu (d : SReg) (a : VReg) (b : SReg) (m : MSel) (tk : Tok)
  /-- R141: Stable in-register sort of unsigned keys. -/
  | vsortu (d : VReg) (a : VReg) (tk : Tok)
  /-- R141: Stable in-register sort of signed keys. -/
  | vsorts (d : VReg) (a : VReg) (tk : Tok)
  /-- R141: Stable in-register sort of FP keys under the total order. -/
  | vsortf (d : VReg) (a : VReg) (tk : Tok)
  /-- R141: Key-value sort with unsigned keys. -/
  | vsortkvu (d : VReg) (a : VReg) (tk : Tok)
  /-- R141: Key-value sort with signed keys. -/
  | vsortkvs (d : VReg) (a : VReg) (tk : Tok)
  /-- R141: Key-value sort with FP keys. -/
  | vsortkvf (d : VReg) (a : VReg) (tk : Tok)
  /-- R141: Merges two sorted unsigned key lists split at s[B]. -/
  | vmergeu (d : VReg) (a : VReg) (b : SReg) (tk : Tok)
  /-- R141: Merges two sorted signed key lists. -/
  | vmerges (d : VReg) (a : VReg) (b : SReg) (tk : Tok)
  /-- R141: Merges two sorted FP key lists. -/
  | vmergef (d : VReg) (a : VReg) (b : SReg) (tk : Tok)
  /-- R141: Packs each key with a sequence index at SEW 64. -/
  | vtag (d : VReg) (a : VReg) (b : SReg) (m : MSel) (tk : Tok)
  /-- R141: Marks the head of each run of equal keys in a mask. -/
  | vsegm (d : MReg) (a : VReg) (tk : Tok)
  /-- R132: Grants VL = min(AVL, VLMAX); strip boundary at which pending reclaims, sparing and mirror changes take effect. -/
  | vsetvl (d : SReg) (a : SReg)
  /-- R132: Writes VCFG and VCAP and clamps VL. -/
  | vcfg (d : SReg) (a : SReg) (b : SReg)
  /-- R113: Divides the fragment by a mask and pushes a pending-fragment entry. -/
  | vbr (k : MReg) (off : BitVec 13)
  /-- R114: Ends the running fragment, resuming a parked one or popping the entry. -/
  | vjoin (off : BitVec 13)
  /-- R115: Decrements per-element trip counts and loops while any remain. -/
  | vloop (a : VReg) (k : MReg) (off : BitVec 13)
  /-- R144: Unit-stride vector Chart load. -/
  | vldc (d : VReg) (a : SReg) (m : MSel) (tk : Tok)
  /-- R144: Strided vector Chart load. -/
  | vldcs (d : VReg) (a : SReg) (b : SReg) (m : MSel) (tk : Tok)
  /-- R144: Indexed vector Chart load. -/
  | vldcx (d : VReg) (a : SReg) (b : VReg) (m : MSel) (tk : Tok)
  /-- R144: Unit-stride vector Chart store. -/
  | vstc (d : VReg) (a : SReg) (m : MSel) (tk : Tok)
  /-- R144: Strided vector Chart store. -/
  | vstcs (d : VReg) (a : SReg) (b : SReg) (m : MSel) (tk : Tok)
  /-- R144: Indexed vector Chart store. -/
  | vstcx (d : VReg) (a : SReg) (b : VReg) (m : MSel) (tk : Tok)
  /-- R147: Writes BF16 elements into the plane store as transposed bit planes. -/
  | vstp (d : VReg) (a : SReg) (m : MSel) (tk : Tok)
  /-- R147: Writes BFPb codes into the plane store as bit planes. -/
  | vstpb (d : VReg) (a : SReg) (b : SReg) (m : MSel) (tk : Tok)
  /-- R148: Reads a tile row into a vector. -/
  | vtrdr (d : VReg) (a : Tile) (b : SReg) (m : MSel)
  /-- R148: Reads a tile column into a vector. -/
  | vtrdc (d : VReg) (a : Tile) (b : SReg) (m : MSel)
  /-- R148: Reads a tile row and zeroes it. -/
  | vtrdrz (d : VReg) (a : Tile) (b : SReg) (m : MSel)
  /-- R148: Reads a tile column and zeroes it. -/
  | vtrdcz (d : VReg) (a : Tile) (b : SReg) (m : MSel)
  /-- R148: Writes a vector into a tile row. -/
  | vtwrr (d : VReg) (a : Tile) (b : SReg) (m : MSel)
  /-- R148: Writes a vector into a tile column. -/
  | vtwrc (d : VReg) (a : Tile) (b : SReg) (m : MSel)
  /-- R176: Creates an ALLOC run on the hart's die and returns its handle or a status. -/
  | rmk (d : SReg) (a : SReg) (b : SReg)
  /-- R177: Seals an ALLOC run by handle. -/
  | rseal (d : SReg) (a : SReg)
  /-- R177: Releases a run with no readers, advancing its generation. -/
  | rrel (d : SReg) (a : SReg)
  /-- R176: Returns the run's MARK word atomically. -/
  | rmark (d : SReg) (a : SReg)
  /-- R176: Returns the run descriptor's header word. -/
  | rhdr (d : SReg) (a : SReg)
  /-- R173: Creates a transposed VIEW descriptor over a SEALED run. -/
  | rview (d : SReg) (a : SReg) (b : SReg)
  /-- R179: Binds a port to a run for read or write. -/
  | pbind (d : SReg) (a : SReg) (b : SReg)
  /-- R179: Unbinds a port, publishing and zero-filling a partial record for a writer. -/
  | punbind (d : SReg) (a : Port)
  /-- R179: Seals the run through its write port and unbinds the port. -/
  | pseal (d : SReg) (a : Port)
  /-- R179: Moves a read port forward to a position. -/
  | pseek (d : SReg) (a : Port) (b : SReg)
  /-- R179: Returns the port position. -/
  | ppos (d : SReg) (a : Port)
  /-- R180: Returns the port status word. -/
  | pstat (d : SReg) (a : Port)
  /-- R179: Returns the bound run handle. -/
  | phnd (d : SReg) (a : Port)
  /-- R182: Reads stream elements from a port into a vector, advancing. -/
  | vprd (d : VReg) (a : Port) (m : MSel) (tk : Tok)
  /-- R184: Fault-only-first port read that trims VL. -/
  | vprdff (d : VReg) (a : Port) (m : MSel) (tk : Tok)
  /-- R185: Writes vector elements to a port, publishing completed records. -/
  | vpwr (d : VReg) (a : Port) (m : MSel) (tk : Tok)
  /-- R182: Reads from a port without advancing. -/
  | vppeek (d : VReg) (a : Port) (m : MSel) (tk : Tok)
  /-- R187: Narrow read decoding BFPb to FP32. -/
  | vprdnF (d : VReg) (a : Port) (b : VReg) (tk : Tok)
  /-- R187: Narrow read decoding BFPb to BF16. -/
  | vprdnBf (d : VReg) (a : Port) (b : VReg) (tk : Tok)
  /-- R187: Fault-only-first narrow read to FP32. -/
  | vprdnffF (d : VReg) (a : Port) (b : VReg) (tk : Tok)
  /-- R187: Fault-only-first narrow read to BF16. -/
  | vprdnffBf (d : VReg) (a : Port) (b : VReg) (tk : Tok)
  /-- R187: Narrow read of raw codes sign-extended to 8 bits. -/
  | vprdnC (d : VReg) (a : Port) (tk : Tok)
  /-- R187: Fault-only-first narrow read of raw codes. -/
  | vprdnffC (d : VReg) (a : Port) (tk : Tok)
  /-- R187: Narrow write encoding FP32 to BFPb. -/
  | vpwrnF (d : VReg) (a : Port) (b : VReg) (tk : Tok)
  /-- R187: Narrow write encoding BF16 to BFPb. -/
  | vpwrnBf (d : VReg) (a : Port) (b : VReg) (tk : Tok)
  /-- R187: Narrow write of raw codes. -/
  | vpwrnC (d : VReg) (a : Port) (tk : Tok)
  /-- R189: Loads a beacon word into s[D], posting. -/
  | bld (d : SReg) (a : SReg) (oc : OClass) (tk : Tok)
  /-- R189: Stores s[D] into a beacon word without posting. -/
  | bst (d : SReg) (a : SReg) (oc : OClass)
  /-- R189: Stores a beacon word and posts once performed. -/
  | bstk (d : SReg) (a : SReg) (oc : OClass) (tk : Tok)
  /-- R189: Vector beacon load by address vector. -/
  | vbld (d : VReg) (a : VReg) (oc : OClass) (tk : Tok)
  /-- R189: Vector beacon store by address vector. -/
  | vbst (d : VReg) (a : VReg) (oc : OClass) (tk : Tok)
  /-- R191: Ticketed vector beacon load in package-wide ticket order. -/
  | bldsc (d : VReg) (a : VReg) (tk : Tok)
  /-- R191: Ticketed vector beacon store. -/
  | bstsc (d : VReg) (a : VReg) (tk : Tok)
  /-- R192: Atomic add on a beacon word, returning the old value. -/
  | aadd (d : SReg) (a : SReg) (b : SReg) (oc : OClass) (tk : Tok)
  /-- R192: Atomic signed maximum on a beacon word. -/
  | amax (d : SReg) (a : SReg) (b : SReg) (oc : OClass) (tk : Tok)
  /-- R192: Atomic signed minimum on a beacon word. -/
  | amin (d : SReg) (a : SReg) (b : SReg) (oc : OClass) (tk : Tok)
  /-- R192: Atomic swap on a beacon word. -/
  | aswp (d : SReg) (a : SReg) (b : SReg) (oc : OClass) (tk : Tok)
  /-- R192: Atomic compare-and-swap on a beacon word. -/
  | acas (d : SReg) (a : SReg) (b : SReg) (oc : OClass) (tk : Tok)
  /-- R192: Atomic E8M0 maximum fold on a beacon byte. -/
  | amaxe (d : SReg) (a : SReg) (b : SReg) (oc : OClass) (tk : Tok)
  /-- R192: Atomic E8M0 minimum fold on a beacon byte. -/
  | amine (d : SReg) (a : SReg) (b : SReg) (oc : OClass) (tk : Tok)
  /-- R192: Vector E8M0 maximum folds on beacon bytes in index order. -/
  | vamaxe (d : VReg) (a : VReg) (b : VReg) (oc : OClass) (tk : Tok)
  /-- R194: Orders selected earlier classes, port writes and Chart stores before later selected beacon accesses. -/
  | fenc (a : SReg)
  /-- R195: Waits until beacon words reach expected values or a time-out, writing the unmet mask. -/
  | vwait (d : MReg) (a : VReg) (b : SReg) (oc : OClass) (tk : Tok)
  /-- R234: Queues a copy of a run's elements appended to another run. -/
  | cprr (d : Chan) (a : VReg) (b : Quartet) (tk : Tok)
  /-- R234: Queues a copy of a run's elements into the core's Chart. -/
  | cprc (d : Chan) (a : VReg) (b : Quartet) (tk : Tok)
  /-- R234: Queues a copy of a run's elements into the plane store as bit planes. -/
  | cprp (d : Chan) (a : VReg) (b : Quartet) (tk : Tok)
  /-- R237: Reads a channel's mark register. -/
  | cpmark (d : SReg) (a : Chan) (tk : Tok)
  /-- R237: Reads a channel's SEQ. -/
  | cpseq (d : SReg) (a : Chan) (tk : Tok)
  /-- R237: Reads the status of a copy command by sequence number. -/
  | cpstat (d : SReg) (a : Chan) (b : SReg) (tk : Tok)
  /-- R237: Resumes a channel stopped on CHUNK. -/
  | cpretry (d : SReg) (a : Chan) (tk : Tok)
  /-- R237: Aborts the running or stopped command and the queued commands of a channel. -/
  | cpabort (d : SReg) (a : Chan) (tk : Tok)
  /-- R221: Queues a Sorter stable sort of a run, with combine. -/
  | ssort (d : SReg) (a : VReg) (b : SReg) (tk : Tok)
  /-- R216: Queues a Sorter stable merge of sorted runs, with combine. -/
  | smerge (d : SReg) (a : VReg) (b : SReg) (tk : Tok)
  /-- R219: Queues a Sorter join of a sorted probe against a table. -/
  | sjoin (d : SReg) (a : VReg) (b : SReg) (tk : Tok)
  /-- R220: Queues a Sorter pass tagging records with their sequence index. -/
  | stag (d : SReg) (a : VReg) (b : SReg) (tk : Tok)
  /-- R224: Reads a progress counter of a Sorter pass. -/
  | sprog (d : SReg) (a : SReg) (b : SReg) (tk : Tok)
  /-- R225: Aborts the hart's own Sorter pass on an output handle. -/
  | sabort (d : SReg) (a : SReg) (tk : Tok)
  /-- R248: Sets the matrix A and B formats, trapping COMBO on an unimplemented pair. -/
  | mcfg (d : SReg) (a : SReg) (b : SReg)
  /-- R248: Grants clamped M, N, K sizes into MDIM and the three registers. -/
  | msetl (d : SReg) (a : SReg) (b : SReg)
  /-- R248: Enables tiles, zeroing newly enabled ones. -/
  | men (d : SReg) (a : SReg)
  /-- R248: Disables tiles after in-flight operations on them complete. -/
  | mdis (d : SReg) (a : SReg)
  /-- R252: Queues a matrix multiply-accumulate into a tile. -/
  | mma (d : Tile) (a : SReg) (b : SReg) (tk : Tok)
  /-- R252: Queues a matrix multiply into a zeroed tile. -/
  | mmaz (d : Tile) (a : SReg) (b : SReg) (tk : Tok)
  /-- R251: Queues the zeroing of a tile's predicated cells. -/
  | mzero (d : Tile) (tk : Tok)
  /-- R270: Copies a loop-nest record into the die's Plotter queue or overflow ring. -/
  | tspawn (d : SReg) (a : SReg)
  /-- R271: Waits for all tokens, unbinds ports, leaves barriers, counts retirement and frees the hart. -/
  | tretire
  /-- R269: Returns the task's scope handle. -/
  | tscope (d : SReg)
  /-- R269: Returns the task's iteration number. -/
  | titer (d : SReg)
  /-- R269: Opens a LIVE child scope. -/
  | sopen (d : SReg) (a : SReg)
  /-- R266: Makes a scope subtree CANCELLING and starts its kills. -/
  | scancel (d : SReg) (a : SReg)
  /-- R269: Waits for a scope's acknowledgement or a time-out. -/
  | swait (d : SReg) (a : SReg) (b : SReg)
  /-- R269: Frees a scope with no open children that is CANCELLED or memberless. -/
  | sclose (d : SReg) (a : SReg)
  /-- R269: Reads a word of a scope entry. -/
  | sread (d : SReg) (a : SReg) (b : SReg)
  /-- R269: Returns the caller's scope handle. -/
  | sself (d : SReg)
  /-- R274: Opens an empty graph in a beacon area. -/
  | grbeg (d : SReg) (a : SReg) (b : SReg)
  /-- R274: Appends a checked record as a graph node. -/
  | gadd (d : SReg) (a : SReg) (b : SReg)
  /-- R274: Adds a dependence between two graph nodes. -/
  | gdep (d : SReg) (a : SReg) (b : SReg)
  /-- R274: Seals a graph with exactly one terminal node. -/
  | grend (d : SReg) (a : SReg)
  /-- R275: Starts a replay of a sealed graph, snapshotting and patching its parameter blocks. -/
  | grplay (d : SReg) (a : SReg) (b : SReg) (tk : Tok)
  /-- R274: Ends ownership of a graph area. -/
  | gfree (d : SReg) (a : SReg)
  /-- R272: Adds the hart to a barrier channel's member set. -/
  | bjoin (l : BarLevel) (d : SReg) (a : SReg)
  /-- R272: Arrives at a barrier channel and waits for the episode or a time-out. -/
  | bwait (l : BarLevel) (d : SReg) (a : SReg) (b : SReg)
  /-- R272: Removes the hart from a barrier channel, opening the episode if all remaining arrived. -/
  | bleave (l : BarLevel) (d : SReg) (a : SReg)
  /-- R306: Traps SCALL. -/
  | scall
  /-- R306: Traps BREAK. -/
  | brk
  /-- R297: Returns to user mode, resuming a frozen queue, or frees the hart. -/
  | sret (a : SReg)
  /-- R306: Sets the trap vector. -/
  | svec (d : SReg) (a : SReg)
  /-- R306: Sets the watch address. -/
  | swatch (d : SReg) (a : SReg)
  /-- R306: Reads a user-bank register or token counter. -/
  | subr (d : SReg) (a : SReg)
  /-- R306: Writes a user-bank register or token counter. -/
  | subw (d : SReg) (a : SReg) (b : SReg)
  /-- R306: Saves the user context to a save area and leaves the hart without one. -/
  | ctxsave (d : SReg) (a : SReg)
  /-- R306: Loads a saved context onto this hart. -/
  | ctxrest (d : SReg) (a : SReg)
  /-- R306: Ends a saved context as a kill does. -/
  | ctxdrop (d : SReg) (a : SReg)
  /-- R306: Sets the die's pre-emption save pool. -/
  | spool (d : SReg) (a : SReg) (b : SReg)
  /-- R306: Sets the die's overflow ring. -/
  | sring (d : SReg) (a : SReg) (b : SReg)
  /-- R307: Writes a range entry from the Chart. -/
  | xrng (d : SReg) (a : SReg) (b : SReg)
  /-- R307: Reads a word of a range entry. -/
  | xrrd (d : SReg) (a : SReg) (b : SReg)
  /-- R307: Sets the user translation context number and page-table root. -/
  | xctx (d : SReg) (a : SReg) (b : SReg)
  /-- R307: Invalidates translations and waits until holders discard them. -/
  | xinv (d : SReg) (a : SReg) (b : SReg)
  /-- R307: Sets or clears a frame's poison bit. -/
  | xpois (d : SReg) (a : SReg) (b : SReg)
  /-- R308: Marks a lane reclaim of a hart as pending. -/
  | lrecl (d : SReg) (a : SReg)
  /-- R308: Marks the return of reclaimed lanes as pending. -/
  | lgive (d : SReg) (a : SReg)
  /-- R308: Maps the spare ALU onto a lane at its next strip boundary. -/
  | lspare (d : SReg) (a : SReg)
  /-- R308: Sets or clears protected mode of a hart at its next vsetvl. -/
  | lmir (d : SReg) (a : SReg)
  /-- R308: Returns a lane's status. -/
  | lstat (d : SReg) (a : SReg)
  /-- R334: Forms a collective ring by sending a hello around the members. -/
  | cform (d : SReg) (a : SReg) (b : SReg)
  /-- R335: Runs a ring collective from a control block and holds issue until it ends. -/
  | callr (d : SReg) (a : SReg)
  /-- R333: Aborts a formed ring with the own package ID. -/
  | cabort (d : SReg) (a : SReg)
  /-- R333: Returns the own package ID. -/
  | cid (d : SReg)
  /-- R327: Returns a link's status word. -/
  | lkstat (d : SReg) (a : SReg)
  /-- Event, R19: A fixed-latency result becomes readable L slots after issue and its flags merge. -/
  | fixedLatencyWriteback
  /-- Event, R17: A code line the front waited for arrives in the line buffer and issue resumes. -/
  | codeLineFill
  /-- Event, R83: The divider finishes an operation, writes s[D], merges flags and increments its token. -/
  | dividerCompletion
  /-- Event, R107: The vector back end starts the next queue entry and runs its beats. -/
  | vectorEntryStart
  /-- Event, R116: The memory pipe or permute and sort network advances one element group of one offered instruction. -/
  | sharedUnitCycle (u : SharedUnit)
  /-- Event, R136: A VPM, VSO, VRD, VCM or VPT instruction completes, writes destinations, merges flags and increments. -/
  | vectorPostingCompletion (u : SharedUnit)
  /-- Event, R163: A read waiting at MARK resumes when MARK passes its record or the run is sealed or broken. -/
  | portReadResume
  /-- Event, R198: A beacon load or posting store performs at the home slice and posts its increment. -/
  | beaconAccessCompletion (k : Nat)
  /-- Event, R192: An atomic performs indivisibly in the word's order and posts its increment. -/
  | atomicCompletion (k : Nat)
  /-- Event, R195: A write to a watched beacon word makes vwait read it again and possibly complete. -/
  | vwaitReread
  /-- Event, R195: The vwait time-out expires and the unmet mask is written. -/
  | vwaitTimeout
  /-- Event, R215: The Sorter starts a queued pass, checking and binding its runs. -/
  | sorterPassStart
  /-- Event, R210: The Sorter serves the earliest pass that can move a record up to its next chunk boundary. -/
  | sorterChunk
  /-- Event, R233: A channel starts its next accepted command, checking and binding runs. -/
  | copyStart (ch : Chan)
  /-- Event, R238: A channel delivers the next chunk of elements in order, raising its mark register. -/
  | copyChunk (ch : Chan) (fails : Bool)
  /-- Event, R253: A matrix operation becomes head and places holds on the stages it reads. -/
  | matrixOpHead
  /-- Event, R253: After pending plane stores and chunks complete, the operation reads its operands. -/
  | matrixOpRead
  /-- Event, R253: A matrix operation writes its cells, merges flags, releases holds and posts. -/
  | matrixOpCompletion
  /-- Event, R288: A trap stops the front and queue, writes the record, switches banks and enters the handler. -/
  | trapEntry (c : Cause) (aux : BitVec 32)
  /-- Event, R296: A pending engine fault traps the context at its next user slot. -/
  | engineFaultDelivery
  /-- Event, R266: A member hart meets its kill point, cancelling posting work, breaking write ports and becoming free. -/
  | killPoint
  /-- Event, R267: Once the subtree has stopped, counts, ACK and CANCELLED are written in order. -/
  | cancelAcknowledgement (h : Word)
  /-- Event, R272: A bwait time-out expires and the arrival is withdrawn. -/
  | bwaitTimeout
  /-- Event, R269: A swait time-out expires with TIMEOUT. -/
  | swaitTimeout
  /-- Event, R261: The Plotter hands the next iteration of the chosen record to an eligible core's shadow slot. -/
  | plotterCycle
  /-- Event, R262: A record that waited 2^20 Plotter cycles moves to the next higher queue. -/
  | recordPromotion (prio k : Nat)
  /-- Event, R270: A spilled record returns from the overflow ring to its queue as room frees. -/
  | spillReturn
  /-- Event, R263: The prefetcher copies a task's parameter block into the Chart once overlapping tasks retired. -/
  | prefetchParameterBlock (k : Nat)
  /-- Event, R263: The prefetcher binds a pre-bound port, retrying while BUSY. -/
  | prebind (k : Nat)
  /-- Event, R263: A runnable task starts on the lowest free HID with the initial state. -/
  | taskStart
  /-- Event, R275: A replay spawns a node whose predecessors have retired, waiting for queue room. -/
  | graphNodeSpawn (g : Word) (node : Nat)
  /-- Event, R301: A context is stopped, drained and written to a pool slot, freeing the hart. -/
  | fullSave
  /-- Event, R301: The Plotter restores a saved context onto a free hart with its Chart window. -/
  | contextRestore (k : Nat)
  /-- Event, R312: A residue mismatch replays one lane's group while the hart freezes 12 cycles. -/
  | elementGroupReplay (lane reg mism : Nat)
  /-- Event, R309: A corrected word is written back in the next idle cycle of its bank. -/
  | eccWriteback (core : Nat)
  /-- Event, R319: A bit leaving CAP stops placements and saves contexts that need it. -/
  | capabilityFence (bits : BitVec 24)
  /-- Event, R320: The sounding interval expires and the Plotter drains the next quad. -/
  | sounding
  /-- Event, R320: A drain not finished in 2^24 cycles returns the quad unsounded and counts SKIP. -/
  | soundingDrainTimeout
  /-- Event, R321: The scan test completes and updates CAP, LASTF, sparing and counts. -/
  | scanTest (fails : List (BitVec 24)) (alus : List (Option Nat))
  /-- Event, R328: An idle Plotter sends a steal request to the busiest die. -/
  | stealRequest (victim : Nat)
  /-- Event, R328: The victim lends the upper half of a record's remaining iterations and marks LENT. -/
  | lend (thief : Nat)
  /-- Event, R328: The thief checks the scope, enters the lent copy and acknowledges, or drops it. -/
  | stealEnter
  /-- Event, R328: The victim removes the lent iterations and clears LENT. -/
  | stealAcknowledgement
  /-- Event, R329: On loss or reset of the thief, the victim reclaims lent iterations. -/
  | lendReclaim
  /-- Event, R309: A flit failing its CRC is retried over the link. -/
  | linkFlitRetry (l : Nat)
  /-- Event, R325: A chunk failing expansion for a port or Sorter is fetched again. -/
  | chunkRefetch (l : Nat)
  /-- Event, R326: After 16 failures a link is declared lost, LOST is set and traffic reroutes or collectives fail. -/
  | linkLost (l : Nat)
  /-- Event, R323: Vexud resets a die, ending its isolation and advancing its scope generations. -/
  | dieReset (d : Nat)
  /-- Event, R330: Vexud declares a package lost and its pod barrier members are removed. -/
  | packageLost (p : Nat)
  /-- Event, R334: A member receives a ring hello, forwards it or answers MISMATCH. -/
  | hello (gen : Nat) (members : BitVec 1024) (answer : HelloAnswer)
  /-- Event, R334: A successor fails to take the hello in time and the member returns TIMEOUT and floods an abort. -/
  | cformTimeout (lost : Bool)
  /-- Event, R336: A member receives a segment, combines it and sends one to its successor. -/
  | ringStep (others : List (List Byte))
  /-- Event, R337: A ring step waits past its time-out and the member ends TIMEOUT and floods an abort. -/
  | collectiveTimeout (who : Nat)
  /-- Event, R337: A member receives an abort of the ring's GEN, forwards it and ends ABORTED. -/
  | abortFlood (gen : Nat) (failId : Option Nat)
  /-- Event, R230: Core reset sets channel SEQ and mark registers to zero. -/
  | coreReset
  /-- Event, R338: The host asks Vexud to load a signed image or listing. -/
  | hostLoadImage (kind : Nat) (dva : Word) (pa : Nat) (bytes : List Byte) (ok : Bool)
  /-- Event, R338: The host asks Vexud to create runs from host data. -/
  | hostCreateRun (base : Word) (wlog : Nat) (records : List (List Byte))
  /-- Event, R338: The host asks Vexud to read a sealed run back. -/
  | hostReadRun (h : Word)
  /-- Event, R279: The host starts a listing or replay; Vexud opens a root scope and spawns the records. -/
  | hostStart (recs : List Word) (replay : Option (Word × Word))
  /-- Event, R279: Vexud reports the end of a start to the host with traps or retired count. -/
  | startReport (k : Nat)
  /-- Event, R339: Vexud returns a signed attestation report to the host. -/
  | attestationReport (nonce : Word)
  /-- Event, R339: Vexud hashes and checks a firmware image's signature before it runs. -/
  | imageVerify (digest : Word) (ok : Bool)
  /-- Event, R340: The module boots, heats, trains LPDDR-6 and raises the clock in order. -/
  | coldStart
  /-- Event, R340: Every die sensor reaches −10 °C and LPDDR-6 training begins. -/
  | heatingComplete
  /-- Event, R340: Training passes on all channels, Bulk becomes usable and the poison bitmap is placed. -/
  | lpddrTraining
  /-- Event, R341: Supply droop or drift stretches a die's cycle, down to 1.2 GHz. -/
  | clockStretch (mhz : Nat)
  /-- Event, R342: A temperature change of 10 °C or the hourly timer retrains one LPDDR-6 channel. -/
  | channelRetrain (ch : Nat)
  /-- Event, R343: Surroundings outside limits make Vexud lower the clock and then stop the dies. -/
  | environmentLimit (stop : Bool)
  /-- Event, R326: Vexud retrains a lost link, clearing LOST so that it carries traffic again. -/
  | linkRetrain (l : Nat)
  /-- Event, R318: Vexud writes a core's CAP or CEIL word in the capability table. -/
  | capabilityTableWrite (entry word : Nat) (v : Word)
  /-- Event, R320: Vexud gives a Plotter its sounding interval, with 0 turning sounding off. -/
  | soundingIntervalSet (v : Nat)
  /-- Event, R172: Vexud loads an AES-256-XTS key pair for Bulk memory encryption. -/
  | keyPairLoad (k : Nat) (key1 key2 : BitVec 256)
  /-- Event, R329: A die is asked to power-gate, and the request is refused while it holds a lent or unacknowledged record. -/
  | diePowerGating (d : Nat)
deriving DecidableEq, Repr

end Sys2Proof
end

