-- ==== Sys2Proof/WellFormed.lean ====
section
/-! DEFINITION. What the encoding asks of an instruction beyond the types of its operands: which FORM values a vector
function accepts (R34), a shift amount below the width (R72), no sign-extending 8-byte load (R80), writable control
registers (R90), three different registers in `msetl` (R248), even nonzero register pairs in `mma` (R251). An event has
no word. -/
namespace Sys2Proof

/-- The width of an operand size in bits (R70). -/
def Size.bits : Size → Nat
  | .b => 8 | .h => 16 | .w => 32 | .d => 64

/-- The width of an operand size in bytes. -/
def Size.bytes : Size → Nat
  | .b => 1 | .h => 2 | .w => 4 | .d => 8

/-- A B operand of FORM 0b00 or 0b01. -/
def VSrc.notImm : VSrc → Bool
  | .imm _ => false
  | _ => true

/-- A control register that an SCR function may write (R90). -/
def CReg.writable : CReg → Bool
  | .vl => false
  | .vcfg => false
  | .vcap => false
  | _ => true

/-- Whether the instruction is an event of the part, which no word encodes. -/
def Instr.isEvent : Instr → Bool
  | .fixedLatencyWriteback => true
  | .codeLineFill => true
  | .dividerCompletion => true
  | .vectorEntryStart => true
  | .sharedUnitCycle _ => true
  | .vectorPostingCompletion _ => true
  | .portReadResume => true
  | .beaconAccessCompletion _ => true
  | .atomicCompletion _ => true
  | .vwaitReread => true
  | .vwaitTimeout => true
  | .sorterPassStart => true
  | .sorterChunk => true
  | .copyStart _ => true
  | .copyChunk _ _ => true
  | .matrixOpHead => true
  | .matrixOpRead => true
  | .matrixOpCompletion => true
  | .trapEntry _ _ => true
  | .engineFaultDelivery => true
  | .killPoint => true
  | .cancelAcknowledgement _ => true
  | .bwaitTimeout => true
  | .swaitTimeout => true
  | .plotterCycle => true
  | .recordPromotion _ _ => true
  | .spillReturn => true
  | .prefetchParameterBlock _ => true
  | .prebind _ => true
  | .taskStart => true
  | .graphNodeSpawn _ _ => true
  | .fullSave => true
  | .contextRestore _ => true
  | .elementGroupReplay _ _ _ => true
  | .eccWriteback _ => true
  | .capabilityFence _ => true
  | .sounding => true
  | .soundingDrainTimeout => true
  | .scanTest _ _ => true
  | .stealRequest _ => true
  | .lend _ => true
  | .stealEnter => true
  | .stealAcknowledgement => true
  | .lendReclaim => true
  | .linkFlitRetry _ => true
  | .chunkRefetch _ => true
  | .linkLost _ => true
  | .dieReset _ => true
  | .packageLost _ => true
  | .hello _ _ _ => true
  | .cformTimeout _ => true
  | .ringStep _ => true
  | .collectiveTimeout _ => true
  | .abortFlood _ _ => true
  | .coreReset => true
  | .hostLoadImage _ _ _ _ _ => true
  | .hostCreateRun _ _ _ => true
  | .hostReadRun _ => true
  | .hostStart _ _ => true
  | .startReport _ => true
  | .attestationReport _ => true
  | .imageVerify _ _ => true
  | .coldStart => true
  | .heatingComplete => true
  | .lpddrTraining => true
  | .clockStretch _ => true
  | .channelRetrain _ => true
  | .environmentLimit _ => true
  | .linkRetrain _ => true
  | .capabilityTableWrite _ _ _ => true
  | .soundingIntervalSet _ => true
  | .keyPairLoad _ _ _ => true
  | .diePowerGating _ => true
  | _ => false

/-- What the encoding asks of an instruction. -/
def Instr.wellFormed : Instr → Bool
  | .slli sz _ _ amt => decide (amt.val < sz.bits)
  | .srli sz _ _ amt => decide (amt.val < sz.bits)
  | .srai sz _ _ amt => decide (amt.val < sz.bits)
  | .rori sz _ _ amt => decide (amt.val < sz.bits)
  | .ldcs sz _ _ _ => decide (sz ≠ .d)
  | .crw _ c _ => c.writable
  | .crset _ c _ => c.writable
  | .crclr _ c _ => c.writable
  | .vmul _ _ b _ => b.notImm
  | .vmulh _ _ b _ => b.notImm
  | .vmulhu _ _ b _ => b.notImm
  | .vmulhsu _ _ b _ => b.notImm
  | .vmacc _ _ b _ => b.notImm
  | .vwadd _ _ b _ => b.notImm
  | .vwaddu _ _ b _ => b.notImm
  | .vwsub _ _ b _ => b.notImm
  | .vwsubu _ _ b _ => b.notImm
  | .vwmul _ _ b _ => b.notImm
  | .vwmulu _ _ b _ => b.notImm
  | .vfadd _ _ b _ => b.notImm
  | .vfsub _ _ b _ => b.notImm
  | .vfrsub _ _ b _ => b.notImm
  | .vfmul _ _ b _ => b.notImm
  | .vfmin _ _ b _ => b.notImm
  | .vfmax _ _ b _ => b.notImm
  | .vfsgnj _ _ b _ => b.notImm
  | .vfsgnjn _ _ b _ => b.notImm
  | .vfsgnjx _ _ b _ => b.notImm
  | .vfaddBf _ _ b _ => b.notImm
  | .vfsubBf _ _ b _ => b.notImm
  | .vfrsubBf _ _ b _ => b.notImm
  | .vfmulBf _ _ b _ => b.notImm
  | .vfminBf _ _ b _ => b.notImm
  | .vfmaxBf _ _ b _ => b.notImm
  | .vfsgnjBf _ _ b _ => b.notImm
  | .vfsgnjnBf _ _ b _ => b.notImm
  | .vfsgnjxBf _ _ b _ => b.notImm
  | .vfwaddBf _ _ b _ => b.notImm
  | .vfwsubBf _ _ b _ => b.notImm
  | .vfwmulBf _ _ b _ => b.notImm
  | .vfwaddWbf _ _ b _ => b.notImm
  | .vfwsubWbf _ _ b _ => b.notImm
  | .vfmacc _ _ b _ => b.notImm
  | .vfnmacc _ _ b _ => b.notImm
  | .vfmsac _ _ b _ => b.notImm
  | .vfnmsac _ _ b _ => b.notImm
  | .vfmadd _ _ b _ => b.notImm
  | .vfmaccBf _ _ b _ => b.notImm
  | .vfnmaccBf _ _ b _ => b.notImm
  | .vfmsacBf _ _ b _ => b.notImm
  | .vfnmsacBf _ _ b _ => b.notImm
  | .vfmaddBf _ _ b _ => b.notImm
  | .vfwmaccBf _ _ b _ => b.notImm
  | .vfwnmaccBf _ _ b _ => b.notImm
  | .vfwmsacBf _ _ b _ => b.notImm
  | .vfwnmsacBf _ _ b _ => b.notImm
  | .vmfeq _ _ b _ => b.notImm
  | .vmfne _ _ b _ => b.notImm
  | .vmflt _ _ b _ => b.notImm
  | .vmfle _ _ b _ => b.notImm
  | .vmfgt _ _ b _ => b.notImm
  | .vmfge _ _ b _ => b.notImm
  | .vmfeqBf _ _ b _ => b.notImm
  | .vmfneBf _ _ b _ => b.notImm
  | .vmfltBf _ _ b _ => b.notImm
  | .vmfleBf _ _ b _ => b.notImm
  | .vmfgtBf _ _ b _ => b.notImm
  | .vmfgeBf _ _ b _ => b.notImm
  | .msetl d a b => decide (d ≠ a ∧ d ≠ b ∧ a ≠ b)
  | .mma _ a b _ => decide (a.val % 2 = 0 ∧ a.val ≠ 0 ∧ b.val % 2 = 0 ∧ b.val ≠ 0)
  | .mmaz _ a b _ => decide (a.val % 2 = 0 ∧ a.val ≠ 0 ∧ b.val % 2 = 0 ∧ b.val ≠ 0)
  | i => !i.isEvent

end Sys2Proof
end

