-- ==== Sys2Proof/Decode.lean ====
section
/-! DEFINITION. Decoding of instruction words (R32 to R42) and their encoder. A word that fails one of the checks 1
to 4 of R42 has no instruction; each of those checks traps ILLEGAL, so `none` stands for that trap. -/
namespace Sys2Proof

/-- The field of n bits at bit lo of a word (R33, R37). -/
def fld (w lo n : Nat) : Nat := w / 2 ^ lo % 2 ^ n

def reg2 (w lo : Nat) : Fin 4 := ⟨fld w lo 2, Nat.mod_lt _ (by decide)⟩
def reg3 (w lo : Nat) : Fin 8 := ⟨fld w lo 3, Nat.mod_lt _ (by decide)⟩
def reg4 (w lo : Nat) : Fin 16 := ⟨fld w lo 4, Nat.mod_lt _ (by decide)⟩
def reg5 (w lo : Nat) : Fin 32 := ⟨fld w lo 5, Nat.mod_lt _ (by decide)⟩
def reg6 (w lo : Nat) : Fin 64 := ⟨fld w lo 6, Nat.mod_lt _ (by decide)⟩

/-- FORM of SOP: 0b00 64 bits, 0b01 32, 0b10 16, 0b11 8 (R34). -/
def sopSizeOf (w : Nat) : Size :=
  match fld w 24 2 with
  | 0 => .d
  | 1 => .w
  | 2 => .h
  | _ => .b

def Size.sopCode : Size → Nat
  | .d => 0 | .w => 1 | .h => 2 | .b => 3

/-- SIZE of SCM: 0b00 1 byte, 0b01 2, 0b10 4, 0b11 8 (R37). -/
def scmSizeOf (w : Nat) : Size :=
  match fld w 24 2 with
  | 0 => .b
  | 1 => .h
  | 2 => .w
  | _ => .d

def Size.scmCode : Size → Nat
  | .b => 0 | .h => 1 | .w => 2 | .d => 3

/-- The B operand of a vector class that accepts FORM 0b00, 0b01 and 0b10 (R34). -/
def vsrc3 (w : Nat) : Option VSrc :=
  match fld w 24 2 with
  | 0 => some (.vec (reg5 w 9))
  | 1 => some (.scal (reg5 w 9))
  | 2 => some (.imm (BitVec.ofNat 5 (fld w 9 5)))
  | _ => none

/-- The B operand of a vector class that accepts FORM 0b00 and 0b01 (R34). -/
def vsrc2 (w : Nat) : Option VSrc :=
  match fld w 24 2 with
  | 0 => some (.vec (reg5 w 9))
  | 1 => some (.scal (reg5 w 9))
  | _ => none

/-- FORM and B together, as they stand in the word. -/
def VSrc.bits : VSrc → Nat
  | .vec v => v.val * 2 ^ 9
  | .scal s => 2 ^ 24 + s.val * 2 ^ 9
  | .imm i => 2 ^ 25 + i.toNat * 2 ^ 9

/-- The amount of an immediate shift: bit [6] is its high bit, B its low five bits; it lies below the width (R72). -/
def amountOf (w : Nat) : Option (Fin 64) :=
  let a : Fin 64 := ⟨(fld w 6 1 * 32 + fld w 9 5) % 64, Nat.mod_lt _ (by decide)⟩
  if a.val < (sopSizeOf w).bits then some a else none

/-- The control-register numbers of R90. -/
def cregOf (w : Nat) : Option CReg :=
  match fld w 9 5 with
  | 0x00 => some .fcr | 0x01 => some .xst | 0x02 => some .hst
  | 0x03 => some (.xi 0) | 0x04 => some (.xi 1) | 0x05 => some (.xi 2) | 0x06 => some (.xi 3) | 0x07 => some (.xi 4)
  | 0x08 => some .vl | 0x09 => some .vcfg | 0x0A => some .vcap
  | 0x10 => some .trpc | 0x11 => some .trcause | 0x12 => some .trfrom
  | 0x18 => some (.trlg 0) | 0x19 => some (.trlg 1) | 0x1A => some (.trlg 2) | 0x1B => some (.trlg 3)
  | 0x1C => some (.trlg 4) | 0x1D => some (.trlg 5) | 0x1E => some (.trlg 6) | 0x1F => some (.trlg 7)
  | _ => none

def CReg.number : CReg → Nat
  | .fcr => 0 | .xst => 1 | .hst => 2
  | .xi k => 3 + k.val
  | .vl => 8 | .vcfg => 9 | .vcap => 0xA
  | .trpc => 0x10 | .trcause => 0x11 | .trfrom => 0x12
  | .trlg k => 0x18 + k.val

/-- The register of an SCR function that writes: VL, VCFG and VCAP are read-only (R90). -/
def writableCregOf (w : Nat) : Option CReg :=
  match cregOf w with
  | some .vl => none
  | some .vcfg => none
  | some .vcap => none
  | r => r

/-- The level of a barrier, LVL 1 to 5 (R268). -/
def levelOf (w : Nat) : Option BarLevel :=
  match fld w 23 3 with
  | 1 => some .core | 2 => some .quad | 3 => some .die | 4 => some .pkg | 5 => some .pod
  | _ => none

def BarLevel.code : BarLevel → Nat
  | .core => 1 | .quad => 2 | .die => 3 | .pkg => 4 | .pod => 5

/-- The operand quartet of a copy command: B a nonzero multiple of 4 (R231). -/
def quartetOf (w : Nat) : Option Quartet :=
  match fld w 7 5 with
  | 4 => some 0 | 8 => some 1 | 12 => some 2 | 16 => some 3 | 20 => some 4 | 24 => some 5 | 28 => some 6
  | _ => none

/-- MAJ 0x1, class SOP (R39). -/
def decodeSop (w : Nat) : Option Instr :=
  match fld w 0 6 with
  | 0x0 => if fld w 6 3 = 0 then some (.add (sopSizeOf w) (reg5 w 19) (reg5 w 14) (reg5 w 9)) else none
  | 0x1 => if fld w 6 3 = 0 then some (.sub (sopSizeOf w) (reg5 w 19) (reg5 w 14) (reg5 w 9)) else none
  | 0x2 => if fld w 6 3 = 0 then some (.and (sopSizeOf w) (reg5 w 19) (reg5 w 14) (reg5 w 9)) else none
  | 0x3 => if fld w 6 3 = 0 then some (.or (sopSizeOf w) (reg5 w 19) (reg5 w 14) (reg5 w 9)) else none
  | 0x4 => if fld w 6 3 = 0 then some (.xor (sopSizeOf w) (reg5 w 19) (reg5 w 14) (reg5 w 9)) else none
  | 0x5 => if fld w 6 3 = 0 then some (.andn (sopSizeOf w) (reg5 w 19) (reg5 w 14) (reg5 w 9)) else none
  | 0x10 => if fld w 7 2 = 0 then (amountOf w).map fun amt => .slli (sopSizeOf w) (reg5 w 19) (reg5 w 14) amt else none
  | 0x11 => if fld w 7 2 = 0 then (amountOf w).map fun amt => .srli (sopSizeOf w) (reg5 w 19) (reg5 w 14) amt else none
  | 0x12 => if fld w 7 2 = 0 then (amountOf w).map fun amt => .srai (sopSizeOf w) (reg5 w 19) (reg5 w 14) amt else none
  | 0x13 => if fld w 7 2 = 0 then (amountOf w).map fun amt => .rori (sopSizeOf w) (reg5 w 19) (reg5 w 14) amt else none
  | 0x14 => if fld w 6 3 = 0 then some (.sll (sopSizeOf w) (reg5 w 19) (reg5 w 14) (reg5 w 9)) else none
  | 0x15 => if fld w 6 3 = 0 then some (.srl (sopSizeOf w) (reg5 w 19) (reg5 w 14) (reg5 w 9)) else none
  | 0x16 => if fld w 6 3 = 0 then some (.sra (sopSizeOf w) (reg5 w 19) (reg5 w 14) (reg5 w 9)) else none
  | 0x17 => if fld w 6 3 = 0 then some (.ror (sopSizeOf w) (reg5 w 19) (reg5 w 14) (reg5 w 9)) else none
  | 0x18 => if fld w 6 3 = 0 then some (.slt (sopSizeOf w) (reg5 w 19) (reg5 w 14) (reg5 w 9)) else none
  | 0x19 => if fld w 6 3 = 0 then some (.sltu (sopSizeOf w) (reg5 w 19) (reg5 w 14) (reg5 w 9)) else none
  | 0x1a => if fld w 6 3 = 0 then some (.seq (sopSizeOf w) (reg5 w 19) (reg5 w 14) (reg5 w 9)) else none
  | 0x1b => if fld w 6 3 = 0 then some (.min (sopSizeOf w) (reg5 w 19) (reg5 w 14) (reg5 w 9)) else none
  | 0x1c => if fld w 6 3 = 0 then some (.max (sopSizeOf w) (reg5 w 19) (reg5 w 14) (reg5 w 9)) else none
  | 0x1d => if fld w 6 3 = 0 then some (.minu (sopSizeOf w) (reg5 w 19) (reg5 w 14) (reg5 w 9)) else none
  | 0x1e => if fld w 6 3 = 0 then some (.maxu (sopSizeOf w) (reg5 w 19) (reg5 w 14) (reg5 w 9)) else none
  | 0x1f => if fld w 6 3 = 0 then some (.sel (sopSizeOf w) (reg5 w 19) (reg5 w 14) (reg5 w 9)) else none
  | 0x20 => if fld w 6 3 = 0 then some (.mul (sopSizeOf w) (reg5 w 19) (reg5 w 14) (reg5 w 9)) else none
  | 0x21 => if fld w 6 3 = 0 then some (.mulh (sopSizeOf w) (reg5 w 19) (reg5 w 14) (reg5 w 9)) else none
  | 0x22 => if fld w 6 3 = 0 then some (.mulhu (sopSizeOf w) (reg5 w 19) (reg5 w 14) (reg5 w 9)) else none
  | 0x23 => if fld w 6 3 = 0 then some (.mulhsu (sopSizeOf w) (reg5 w 19) (reg5 w 14) (reg5 w 9)) else none
  | _ => none

/-- MAJ 0x2, class SIM (R39). -/
def decodeSim (w : Nat) : Option Instr :=
  match fld w 24 2 with
  | 0x0 => some (.addi (reg5 w 19) (reg5 w 14) (BitVec.ofNat 14 (fld w 0 14)))
  | 0x1 => some (.andi (reg5 w 19) (reg5 w 14) (BitVec.ofNat 14 (fld w 0 14)))
  | 0x2 => some (.ori (reg5 w 19) (reg5 w 14) (BitVec.ofNat 14 (fld w 0 14)))
  | 0x3 => some (.xori (reg5 w 19) (reg5 w 14) (BitVec.ofNat 14 (fld w 0 14)))
  | _ => none

/-- MAJ 0x3, class SUI (R39). -/
def decodeSui (w : Nat) : Option Instr :=
  match fld w 24 2 with
  | 0x0 => some (.lhi (reg5 w 19) (BitVec.ofNat 19 (fld w 0 19)))
  | 0x1 => some (.adpc (reg5 w 19) (BitVec.ofNat 19 (fld w 0 19)))
  | _ => none

/-- MAJ 0x4, class SBR (R39). -/
def decodeSbr (w : Nat) : Option Instr :=
  match fld w 23 3 with
  | 0x0 => some (.beq (reg5 w 18) (reg5 w 13) (BitVec.ofNat 13 (fld w 0 13)))
  | 0x1 => some (.bne (reg5 w 18) (reg5 w 13) (BitVec.ofNat 13 (fld w 0 13)))
  | 0x2 => some (.blt (reg5 w 18) (reg5 w 13) (BitVec.ofNat 13 (fld w 0 13)))
  | 0x3 => some (.bge (reg5 w 18) (reg5 w 13) (BitVec.ofNat 13 (fld w 0 13)))
  | 0x4 => some (.bltu (reg5 w 18) (reg5 w 13) (BitVec.ofNat 13 (fld w 0 13)))
  | 0x5 => some (.bgeu (reg5 w 18) (reg5 w 13) (BitVec.ofNat 13 (fld w 0 13)))
  | _ => none

/-- MAJ 0x5, class SJ (R39). -/
def decodeSj (w : Nat) : Option Instr :=
  match fld w 0 1 with
  | 0x0 => some (.j (BitVec.ofNat 25 (fld w 1 25)))
  | 0x1 => some (.call (BitVec.ofNat 25 (fld w 1 25)))
  | _ => none

/-- MAJ 0x6, class SJR (R39). -/
def decodeSjr (w : Nat) : Option Instr :=
  match fld w 0 6 with
  | 0x0 => if fld w 6 8 = 0 ∧ fld w 24 2 = 0 then some (.jr (reg5 w 19) (reg5 w 14)) else none
  | _ => none

/-- MAJ 0x7, class SCM (R39). -/
def decodeScm (w : Nat) : Option Instr :=
  match fld w 12 2 with
  | 0x0 => some (.ldc (scmSizeOf w) (reg5 w 19) (reg5 w 14) (BitVec.ofNat 12 (fld w 0 12)))
  | 0x1 => if fld w 24 2 = 3 then none else some (.ldcs (scmSizeOf w) (reg5 w 19) (reg5 w 14) (BitVec.ofNat 12 (fld w 0 12)))
  | 0x2 => some (.stc (scmSizeOf w) (reg5 w 19) (reg5 w 14) (BitVec.ofNat 12 (fld w 0 12)))
  | _ => none

/-- MAJ 0x8, class SLL (R39). -/
def decodeSll (w : Nat) : Option Instr :=
  match fld w 0 4 with
  | 0x0 => if fld w 4 3 = 0 then some (.div (reg5 w 17) (reg5 w 12) (reg5 w 7) (reg4 w 22)) else none
  | 0x1 => if fld w 4 3 = 0 then some (.divu (reg5 w 17) (reg5 w 12) (reg5 w 7) (reg4 w 22)) else none
  | 0x2 => if fld w 4 3 = 0 then some (.rem (reg5 w 17) (reg5 w 12) (reg5 w 7) (reg4 w 22)) else none
  | 0x3 => if fld w 4 3 = 0 then some (.remu (reg5 w 17) (reg5 w 12) (reg5 w 7) (reg4 w 22)) else none
  | 0x4 => if fld w 4 3 = 0 then some (.divw (reg5 w 17) (reg5 w 12) (reg5 w 7) (reg4 w 22)) else none
  | 0x5 => if fld w 4 3 = 0 then some (.divuw (reg5 w 17) (reg5 w 12) (reg5 w 7) (reg4 w 22)) else none
  | 0x6 => if fld w 4 3 = 0 then some (.remw (reg5 w 17) (reg5 w 12) (reg5 w 7) (reg4 w 22)) else none
  | 0x7 => if fld w 4 3 = 0 then some (.remuw (reg5 w 17) (reg5 w 12) (reg5 w 7) (reg4 w 22)) else none
  | 0x8 => if fld w 4 8 = 0 then some (.isqrt (reg5 w 17) (reg5 w 12) (reg4 w 22)) else none
  | 0x9 => if fld w 4 8 = 0 then some (.fsqrt (reg5 w 17) (reg5 w 12) (reg4 w 22)) else none
  | _ => none

/-- MAJ 0x9, class SFP (R39). -/
def decodeSfp (w : Nat) : Option Instr :=
  match fld w 0 6 with
  | 0x0 => if fld w 6 3 = 0 ∧ fld w 24 2 = 0 then some (.fadd (reg5 w 19) (reg5 w 14) (reg5 w 9)) else none
  | 0x1 => if fld w 6 3 = 0 ∧ fld w 24 2 = 0 then some (.fsub (reg5 w 19) (reg5 w 14) (reg5 w 9)) else none
  | 0x2 => if fld w 6 3 = 0 ∧ fld w 24 2 = 0 then some (.fmul (reg5 w 19) (reg5 w 14) (reg5 w 9)) else none
  | 0x3 => if fld w 6 3 = 0 ∧ fld w 24 2 = 0 then some (.fmadd (reg5 w 19) (reg5 w 14) (reg5 w 9)) else none
  | 0x4 => if fld w 6 3 = 0 ∧ fld w 24 2 = 0 then some (.fmsub (reg5 w 19) (reg5 w 14) (reg5 w 9)) else none
  | 0x5 => if fld w 6 3 = 0 ∧ fld w 24 2 = 0 then some (.fnmsub (reg5 w 19) (reg5 w 14) (reg5 w 9)) else none
  | 0x10 => if fld w 6 3 = 0 ∧ fld w 24 2 = 0 then some (.feq (reg5 w 19) (reg5 w 14) (reg5 w 9)) else none
  | 0x11 => if fld w 6 3 = 0 ∧ fld w 24 2 = 0 then some (.flt (reg5 w 19) (reg5 w 14) (reg5 w 9)) else none
  | 0x12 => if fld w 6 3 = 0 ∧ fld w 24 2 = 0 then some (.fle (reg5 w 19) (reg5 w 14) (reg5 w 9)) else none
  | 0x13 => if fld w 6 3 = 0 ∧ fld w 24 2 = 0 then some (.fmin (reg5 w 19) (reg5 w 14) (reg5 w 9)) else none
  | 0x14 => if fld w 6 3 = 0 ∧ fld w 24 2 = 0 then some (.fmax (reg5 w 19) (reg5 w 14) (reg5 w 9)) else none
  | 0x15 => if fld w 6 3 = 0 ∧ fld w 24 2 = 0 then some (.fsgnj (reg5 w 19) (reg5 w 14) (reg5 w 9)) else none
  | 0x16 => if fld w 6 3 = 0 ∧ fld w 24 2 = 0 then some (.fsgnjn (reg5 w 19) (reg5 w 14) (reg5 w 9)) else none
  | 0x17 => if fld w 6 3 = 0 ∧ fld w 24 2 = 0 then some (.fsgnjx (reg5 w 19) (reg5 w 14) (reg5 w 9)) else none
  | 0x18 => if fld w 6 8 = 0 ∧ fld w 24 2 = 0 then some (.fclass (reg5 w 19) (reg5 w 14)) else none
  | 0x20 => if fld w 6 8 = 0 ∧ fld w 24 2 = 0 then some (.cvtfs (reg5 w 19) (reg5 w 14)) else none
  | 0x21 => if fld w 6 8 = 0 ∧ fld w 24 2 = 0 then some (.cvtfu (reg5 w 19) (reg5 w 14)) else none
  | 0x22 => if fld w 6 8 = 0 ∧ fld w 24 2 = 0 then some (.cvtfsz (reg5 w 19) (reg5 w 14)) else none
  | 0x23 => if fld w 6 8 = 0 ∧ fld w 24 2 = 0 then some (.cvtfuz (reg5 w 19) (reg5 w 14)) else none
  | 0x24 => if fld w 6 8 = 0 ∧ fld w 24 2 = 0 then some (.cvtsf (reg5 w 19) (reg5 w 14)) else none
  | 0x25 => if fld w 6 8 = 0 ∧ fld w 24 2 = 0 then some (.cvtuf (reg5 w 19) (reg5 w 14)) else none
  | 0x26 => if fld w 6 8 = 0 ∧ fld w 24 2 = 0 then some (.cvtfh (reg5 w 19) (reg5 w 14)) else none
  | 0x27 => if fld w 6 8 = 0 ∧ fld w 24 2 = 0 then some (.cvthf (reg5 w 19) (reg5 w 14)) else none
  | _ => none

/-- MAJ 0xa, class SCR (R39). -/
def decodeScr (w : Nat) : Option Instr :=
  match fld w 0 6 with
  | 0x0 => if fld w 6 3 = 0 ∧ fld w 14 5 = 0 ∧ fld w 24 2 = 0 then (cregOf w).map fun c => .crr (reg5 w 19) c else none
  | 0x1 => if fld w 6 3 = 0 ∧ fld w 24 2 = 0 then (writableCregOf w).map fun c => .crw (reg5 w 19) c (reg5 w 14) else none
  | 0x2 => if fld w 6 3 = 0 ∧ fld w 24 2 = 0 then (writableCregOf w).map fun c => .crset (reg5 w 19) c (reg5 w 14) else none
  | 0x3 => if fld w 6 3 = 0 ∧ fld w 24 2 = 0 then (writableCregOf w).map fun c => .crclr (reg5 w 19) c (reg5 w 14) else none
  | _ => none

/-- MAJ 0xb, class TIM (R39). -/
def decodeTim (w : Nat) : Option Instr :=
  match fld w 0 4 with
  | 0x0 => if fld w 4 22 = 0 then some .nop else none
  | 0x1 => if fld w 4 4 = 0 ∧ fld w 14 12 = 0 then some (.dly (reg6 w 8)) else none
  | 0x2 => if fld w 8 6 = 0 ∧ fld w 19 7 = 0 then some (.tkwThreshold (reg4 w 4) (reg5 w 14)) else none
  | 0x3 => if fld w 8 18 = 0 then some (.tkwDrain (reg4 w 4)) else none
  | 0x4 => if fld w 8 11 = 0 ∧ fld w 24 2 = 0 then some (.tkr (reg5 w 19) (reg4 w 4)) else none
  | 0x5 => if fld w 8 6 = 0 ∧ fld w 19 7 = 0 then some (.tkc (reg4 w 4) (reg5 w 14)) else none
  | _ => none

/-- MAJ 0x10, class VIN (R39). -/
def decodeVin (w : Nat) : Option Instr :=
  match fld w 0 6 with
  | 0x0 => (vsrc3 w).map fun b => .vadd (reg5 w 19) (reg5 w 14) b (reg3 w 6)
  | 0x1 => (vsrc3 w).map fun b => .vsub (reg5 w 19) (reg5 w 14) b (reg3 w 6)
  | 0x2 => (vsrc3 w).map fun b => .vrsub (reg5 w 19) (reg5 w 14) b (reg3 w 6)
  | 0x3 => (vsrc3 w).map fun b => .vand (reg5 w 19) (reg5 w 14) b (reg3 w 6)
  | 0x4 => (vsrc3 w).map fun b => .vor (reg5 w 19) (reg5 w 14) b (reg3 w 6)
  | 0x5 => (vsrc3 w).map fun b => .vxor (reg5 w 19) (reg5 w 14) b (reg3 w 6)
  | 0x6 => (vsrc3 w).map fun b => .vsll (reg5 w 19) (reg5 w 14) b (reg3 w 6)
  | 0x7 => (vsrc3 w).map fun b => .vsrl (reg5 w 19) (reg5 w 14) b (reg3 w 6)
  | 0x8 => (vsrc3 w).map fun b => .vsra (reg5 w 19) (reg5 w 14) b (reg3 w 6)
  | 0x9 => if fld w 14 5 = 0 then (vsrc3 w).map fun b => .vmv (reg5 w 19) b (reg3 w 6) else none
  | 0x10 => (vsrc2 w).map fun b => .vmul (reg5 w 19) (reg5 w 14) b (reg3 w 6)
  | 0x11 => (vsrc2 w).map fun b => .vmulh (reg5 w 19) (reg5 w 14) b (reg3 w 6)
  | 0x12 => (vsrc2 w).map fun b => .vmulhu (reg5 w 19) (reg5 w 14) b (reg3 w 6)
  | 0x13 => (vsrc2 w).map fun b => .vmulhsu (reg5 w 19) (reg5 w 14) b (reg3 w 6)
  | 0x14 => (vsrc2 w).map fun b => .vmacc (reg5 w 19) (reg5 w 14) b (reg3 w 6)
  | 0x18 => (vsrc3 w).map fun b => .vmin (reg5 w 19) (reg5 w 14) b (reg3 w 6)
  | 0x19 => (vsrc3 w).map fun b => .vmax (reg5 w 19) (reg5 w 14) b (reg3 w 6)
  | 0x1a => (vsrc3 w).map fun b => .vminu (reg5 w 19) (reg5 w 14) b (reg3 w 6)
  | 0x1b => (vsrc3 w).map fun b => .vmaxu (reg5 w 19) (reg5 w 14) b (reg3 w 6)
  | 0x1c => (vsrc3 w).map fun b => .vsadd (reg5 w 19) (reg5 w 14) b (reg3 w 6)
  | 0x1d => (vsrc3 w).map fun b => .vsaddu (reg5 w 19) (reg5 w 14) b (reg3 w 6)
  | 0x1e => (vsrc3 w).map fun b => .vssub (reg5 w 19) (reg5 w 14) b (reg3 w 6)
  | 0x1f => (vsrc3 w).map fun b => .vssubu (reg5 w 19) (reg5 w 14) b (reg3 w 6)
  | 0x20 => (vsrc2 w).map fun b => .vwadd (reg5 w 19) (reg5 w 14) b (reg3 w 6)
  | 0x21 => (vsrc2 w).map fun b => .vwaddu (reg5 w 19) (reg5 w 14) b (reg3 w 6)
  | 0x22 => (vsrc2 w).map fun b => .vwsub (reg5 w 19) (reg5 w 14) b (reg3 w 6)
  | 0x23 => (vsrc2 w).map fun b => .vwsubu (reg5 w 19) (reg5 w 14) b (reg3 w 6)
  | 0x24 => (vsrc2 w).map fun b => .vwmul (reg5 w 19) (reg5 w 14) b (reg3 w 6)
  | 0x25 => (vsrc2 w).map fun b => .vwmulu (reg5 w 19) (reg5 w 14) b (reg3 w 6)
  | 0x26 => (vsrc3 w).map fun b => .vnsra (reg5 w 19) (reg5 w 14) b (reg3 w 6)
  | 0x27 => (vsrc3 w).map fun b => .vnclip (reg5 w 19) (reg5 w 14) b (reg3 w 6)
  | _ => none

/-- MAJ 0x11, class VFA (R39). -/
def decodeVfa (w : Nat) : Option Instr :=
  match fld w 0 6 with
  | 0x0 => (vsrc2 w).map fun b => .vfadd (reg5 w 19) (reg5 w 14) b (reg3 w 6)
  | 0x1 => (vsrc2 w).map fun b => .vfsub (reg5 w 19) (reg5 w 14) b (reg3 w 6)
  | 0x2 => (vsrc2 w).map fun b => .vfrsub (reg5 w 19) (reg5 w 14) b (reg3 w 6)
  | 0x3 => (vsrc2 w).map fun b => .vfmul (reg5 w 19) (reg5 w 14) b (reg3 w 6)
  | 0x4 => (vsrc2 w).map fun b => .vfmin (reg5 w 19) (reg5 w 14) b (reg3 w 6)
  | 0x5 => (vsrc2 w).map fun b => .vfmax (reg5 w 19) (reg5 w 14) b (reg3 w 6)
  | 0x6 => (vsrc2 w).map fun b => .vfsgnj (reg5 w 19) (reg5 w 14) b (reg3 w 6)
  | 0x7 => (vsrc2 w).map fun b => .vfsgnjn (reg5 w 19) (reg5 w 14) b (reg3 w 6)
  | 0x8 => (vsrc2 w).map fun b => .vfsgnjx (reg5 w 19) (reg5 w 14) b (reg3 w 6)
  | 0x9 => if fld w 9 5 = 0 ∧ fld w 24 2 = 0 then some (.vfclass (reg5 w 19) (reg5 w 14) (reg3 w 6)) else none
  | 0x20 => (vsrc2 w).map fun b => .vfaddBf (reg5 w 19) (reg5 w 14) b (reg3 w 6)
  | 0x21 => (vsrc2 w).map fun b => .vfsubBf (reg5 w 19) (reg5 w 14) b (reg3 w 6)
  | 0x22 => (vsrc2 w).map fun b => .vfrsubBf (reg5 w 19) (reg5 w 14) b (reg3 w 6)
  | 0x23 => (vsrc2 w).map fun b => .vfmulBf (reg5 w 19) (reg5 w 14) b (reg3 w 6)
  | 0x24 => (vsrc2 w).map fun b => .vfminBf (reg5 w 19) (reg5 w 14) b (reg3 w 6)
  | 0x25 => (vsrc2 w).map fun b => .vfmaxBf (reg5 w 19) (reg5 w 14) b (reg3 w 6)
  | 0x26 => (vsrc2 w).map fun b => .vfsgnjBf (reg5 w 19) (reg5 w 14) b (reg3 w 6)
  | 0x27 => (vsrc2 w).map fun b => .vfsgnjnBf (reg5 w 19) (reg5 w 14) b (reg3 w 6)
  | 0x28 => (vsrc2 w).map fun b => .vfsgnjxBf (reg5 w 19) (reg5 w 14) b (reg3 w 6)
  | 0x29 => if fld w 9 5 = 0 ∧ fld w 24 2 = 0 then some (.vfclassBf (reg5 w 19) (reg5 w 14) (reg3 w 6)) else none
  | 0x30 => (vsrc2 w).map fun b => .vfwaddBf (reg5 w 19) (reg5 w 14) b (reg3 w 6)
  | 0x31 => (vsrc2 w).map fun b => .vfwsubBf (reg5 w 19) (reg5 w 14) b (reg3 w 6)
  | 0x32 => (vsrc2 w).map fun b => .vfwmulBf (reg5 w 19) (reg5 w 14) b (reg3 w 6)
  | 0x33 => (vsrc2 w).map fun b => .vfwaddWbf (reg5 w 19) (reg5 w 14) b (reg3 w 6)
  | 0x34 => (vsrc2 w).map fun b => .vfwsubWbf (reg5 w 19) (reg5 w 14) b (reg3 w 6)
  | _ => none

/-- MAJ 0x12, class VFM (R39). -/
def decodeVfm (w : Nat) : Option Instr :=
  match fld w 0 6 with
  | 0x0 => (vsrc2 w).map fun b => .vfmacc (reg5 w 19) (reg5 w 14) b (reg3 w 6)
  | 0x1 => (vsrc2 w).map fun b => .vfnmacc (reg5 w 19) (reg5 w 14) b (reg3 w 6)
  | 0x2 => (vsrc2 w).map fun b => .vfmsac (reg5 w 19) (reg5 w 14) b (reg3 w 6)
  | 0x3 => (vsrc2 w).map fun b => .vfnmsac (reg5 w 19) (reg5 w 14) b (reg3 w 6)
  | 0x4 => (vsrc2 w).map fun b => .vfmadd (reg5 w 19) (reg5 w 14) b (reg3 w 6)
  | 0x10 => (vsrc2 w).map fun b => .vfmaccBf (reg5 w 19) (reg5 w 14) b (reg3 w 6)
  | 0x11 => (vsrc2 w).map fun b => .vfnmaccBf (reg5 w 19) (reg5 w 14) b (reg3 w 6)
  | 0x12 => (vsrc2 w).map fun b => .vfmsacBf (reg5 w 19) (reg5 w 14) b (reg3 w 6)
  | 0x13 => (vsrc2 w).map fun b => .vfnmsacBf (reg5 w 19) (reg5 w 14) b (reg3 w 6)
  | 0x14 => (vsrc2 w).map fun b => .vfmaddBf (reg5 w 19) (reg5 w 14) b (reg3 w 6)
  | 0x18 => (vsrc2 w).map fun b => .vfwmaccBf (reg5 w 19) (reg5 w 14) b (reg3 w 6)
  | 0x19 => (vsrc2 w).map fun b => .vfwnmaccBf (reg5 w 19) (reg5 w 14) b (reg3 w 6)
  | 0x1a => (vsrc2 w).map fun b => .vfwmsacBf (reg5 w 19) (reg5 w 14) b (reg3 w 6)
  | 0x1b => (vsrc2 w).map fun b => .vfwnmsacBf (reg5 w 19) (reg5 w 14) b (reg3 w 6)
  | _ => none

/-- MAJ 0x13, class VCV (R39). -/
def decodeVcv (w : Nat) : Option Instr :=
  match fld w 0 6 with
  | 0x0 => if fld w 9 5 = 0 ∧ fld w 24 2 = 0 then some (.vfcvtXF (reg5 w 19) (reg5 w 14) (reg3 w 6)) else none
  | 0x1 => if fld w 9 5 = 0 ∧ fld w 24 2 = 0 then some (.vfcvtXuF (reg5 w 19) (reg5 w 14) (reg3 w 6)) else none
  | 0x2 => if fld w 9 5 = 0 ∧ fld w 24 2 = 0 then some (.vfcvtRtzXF (reg5 w 19) (reg5 w 14) (reg3 w 6)) else none
  | 0x3 => if fld w 9 5 = 0 ∧ fld w 24 2 = 0 then some (.vfcvtRtzXuF (reg5 w 19) (reg5 w 14) (reg3 w 6)) else none
  | 0x4 => if fld w 9 5 = 0 ∧ fld w 24 2 = 0 then some (.vfcvtFX (reg5 w 19) (reg5 w 14) (reg3 w 6)) else none
  | 0x5 => if fld w 9 5 = 0 ∧ fld w 24 2 = 0 then some (.vfcvtFXu (reg5 w 19) (reg5 w 14) (reg3 w 6)) else none
  | 0x6 => if fld w 9 5 = 0 ∧ fld w 24 2 = 0 then some (.vfcvtXBf (reg5 w 19) (reg5 w 14) (reg3 w 6)) else none
  | 0x7 => if fld w 9 5 = 0 ∧ fld w 24 2 = 0 then some (.vfcvtBfX (reg5 w 19) (reg5 w 14) (reg3 w 6)) else none
  | 0x8 => if fld w 9 5 = 0 ∧ fld w 24 2 = 0 then some (.vfwcvtFBf (reg5 w 19) (reg5 w 14) (reg3 w 6)) else none
  | 0x9 => if fld w 9 5 = 0 ∧ fld w 24 2 = 0 then some (.vfwcvtXF (reg5 w 19) (reg5 w 14) (reg3 w 6)) else none
  | 0xa => if fld w 9 5 = 0 ∧ fld w 24 2 = 0 then some (.vfwcvtFX (reg5 w 19) (reg5 w 14) (reg3 w 6)) else none
  | 0x10 => if fld w 9 5 = 0 ∧ fld w 24 2 = 0 then some (.vfncvtBfF (reg5 w 19) (reg5 w 14) (reg3 w 6)) else none
  | 0x11 => if fld w 9 5 = 0 ∧ fld w 24 2 = 0 then some (.vfncvtXF (reg5 w 19) (reg5 w 14) (reg3 w 6)) else none
  | 0x12 => if fld w 9 5 = 0 ∧ fld w 24 2 = 0 then some (.vfncvtXuF (reg5 w 19) (reg5 w 14) (reg3 w 6)) else none
  | 0x13 => if fld w 9 5 = 0 ∧ fld w 24 2 = 0 then some (.vfncvtFX (reg5 w 19) (reg5 w 14) (reg3 w 6)) else none
  | 0x20 => if fld w 9 5 = 0 ∧ fld w 24 2 = 0 then some (.vsext2 (reg5 w 19) (reg5 w 14) (reg3 w 6)) else none
  | 0x21 => if fld w 9 5 = 0 ∧ fld w 24 2 = 0 then some (.vzext2 (reg5 w 19) (reg5 w 14) (reg3 w 6)) else none
  | 0x22 => if fld w 9 5 = 0 ∧ fld w 24 2 = 0 then some (.vsext4 (reg5 w 19) (reg5 w 14) (reg3 w 6)) else none
  | 0x23 => if fld w 9 5 = 0 ∧ fld w 24 2 = 0 then some (.vzext4 (reg5 w 19) (reg5 w 14) (reg3 w 6)) else none
  | 0x24 => if fld w 9 5 = 0 ∧ fld w 24 2 = 0 then some (.vsext8 (reg5 w 19) (reg5 w 14) (reg3 w 6)) else none
  | 0x25 => if fld w 9 5 = 0 ∧ fld w 24 2 = 0 then some (.vzext8 (reg5 w 19) (reg5 w 14) (reg3 w 6)) else none
  | _ => none

/-- MAJ 0x14, class VCP (R39). -/
def decodeVcp (w : Nat) : Option Instr :=
  match fld w 0 6 with
  | 0x0 => if fld w 22 2 = 0 then (vsrc3 w).map fun b => .vmseq (reg3 w 19) (reg5 w 14) b (reg3 w 6) else none
  | 0x1 => if fld w 22 2 = 0 then (vsrc3 w).map fun b => .vmsne (reg3 w 19) (reg5 w 14) b (reg3 w 6) else none
  | 0x2 => if fld w 22 2 = 0 then (vsrc3 w).map fun b => .vmslt (reg3 w 19) (reg5 w 14) b (reg3 w 6) else none
  | 0x3 => if fld w 22 2 = 0 then (vsrc3 w).map fun b => .vmsltu (reg3 w 19) (reg5 w 14) b (reg3 w 6) else none
  | 0x4 => if fld w 22 2 = 0 then (vsrc3 w).map fun b => .vmsle (reg3 w 19) (reg5 w 14) b (reg3 w 6) else none
  | 0x5 => if fld w 22 2 = 0 then (vsrc3 w).map fun b => .vmsleu (reg3 w 19) (reg5 w 14) b (reg3 w 6) else none
  | 0x6 => if fld w 22 2 = 0 then (vsrc3 w).map fun b => .vmsgt (reg3 w 19) (reg5 w 14) b (reg3 w 6) else none
  | 0x7 => if fld w 22 2 = 0 then (vsrc3 w).map fun b => .vmsgtu (reg3 w 19) (reg5 w 14) b (reg3 w 6) else none
  | 0x10 => if fld w 22 2 = 0 then (vsrc2 w).map fun b => .vmfeq (reg3 w 19) (reg5 w 14) b (reg3 w 6) else none
  | 0x11 => if fld w 22 2 = 0 then (vsrc2 w).map fun b => .vmfne (reg3 w 19) (reg5 w 14) b (reg3 w 6) else none
  | 0x12 => if fld w 22 2 = 0 then (vsrc2 w).map fun b => .vmflt (reg3 w 19) (reg5 w 14) b (reg3 w 6) else none
  | 0x13 => if fld w 22 2 = 0 then (vsrc2 w).map fun b => .vmfle (reg3 w 19) (reg5 w 14) b (reg3 w 6) else none
  | 0x14 => if fld w 22 2 = 0 then (vsrc2 w).map fun b => .vmfgt (reg3 w 19) (reg5 w 14) b (reg3 w 6) else none
  | 0x15 => if fld w 22 2 = 0 then (vsrc2 w).map fun b => .vmfge (reg3 w 19) (reg5 w 14) b (reg3 w 6) else none
  | 0x18 => if fld w 22 2 = 0 then (vsrc2 w).map fun b => .vmfeqBf (reg3 w 19) (reg5 w 14) b (reg3 w 6) else none
  | 0x19 => if fld w 22 2 = 0 then (vsrc2 w).map fun b => .vmfneBf (reg3 w 19) (reg5 w 14) b (reg3 w 6) else none
  | 0x1a => if fld w 22 2 = 0 then (vsrc2 w).map fun b => .vmfltBf (reg3 w 19) (reg5 w 14) b (reg3 w 6) else none
  | 0x1b => if fld w 22 2 = 0 then (vsrc2 w).map fun b => .vmfleBf (reg3 w 19) (reg5 w 14) b (reg3 w 6) else none
  | 0x1c => if fld w 22 2 = 0 then (vsrc2 w).map fun b => .vmfgtBf (reg3 w 19) (reg5 w 14) b (reg3 w 6) else none
  | 0x1d => if fld w 22 2 = 0 then (vsrc2 w).map fun b => .vmfgeBf (reg3 w 19) (reg5 w 14) b (reg3 w 6) else none
  | _ => none

/-- MAJ 0x15, class VMK (R39). -/
def decodeVmk (w : Nat) : Option Instr :=
  match fld w 0 6 with
  | 0x0 => if fld w 12 2 = 0 ∧ fld w 17 2 = 0 ∧ fld w 22 4 = 0 then some (.vmand (reg3 w 19) (reg3 w 14) (reg3 w 9) (reg3 w 6)) else none
  | 0x1 => if fld w 12 2 = 0 ∧ fld w 17 2 = 0 ∧ fld w 22 4 = 0 then some (.vmor (reg3 w 19) (reg3 w 14) (reg3 w 9) (reg3 w 6)) else none
  | 0x2 => if fld w 12 2 = 0 ∧ fld w 17 2 = 0 ∧ fld w 22 4 = 0 then some (.vmxor (reg3 w 19) (reg3 w 14) (reg3 w 9) (reg3 w 6)) else none
  | 0x3 => if fld w 12 2 = 0 ∧ fld w 17 2 = 0 ∧ fld w 22 4 = 0 then some (.vmandn (reg3 w 19) (reg3 w 14) (reg3 w 9) (reg3 w 6)) else none
  | 0x4 => if fld w 12 2 = 0 ∧ fld w 17 2 = 0 ∧ fld w 22 4 = 0 then some (.vmorn (reg3 w 19) (reg3 w 14) (reg3 w 9) (reg3 w 6)) else none
  | 0x5 => if fld w 12 2 = 0 ∧ fld w 17 2 = 0 ∧ fld w 22 4 = 0 then some (.vmnand (reg3 w 19) (reg3 w 14) (reg3 w 9) (reg3 w 6)) else none
  | 0x6 => if fld w 12 2 = 0 ∧ fld w 17 2 = 0 ∧ fld w 22 4 = 0 then some (.vmnor (reg3 w 19) (reg3 w 14) (reg3 w 9) (reg3 w 6)) else none
  | 0x7 => if fld w 12 2 = 0 ∧ fld w 17 2 = 0 ∧ fld w 22 4 = 0 then some (.vmxnor (reg3 w 19) (reg3 w 14) (reg3 w 9) (reg3 w 6)) else none
  | 0x8 => if fld w 9 5 = 0 ∧ fld w 17 2 = 0 ∧ fld w 22 4 = 0 then some (.vmsbf (reg3 w 19) (reg3 w 14) (reg3 w 6)) else none
  | 0x9 => if fld w 9 5 = 0 ∧ fld w 17 2 = 0 ∧ fld w 22 4 = 0 then some (.vmsif (reg3 w 19) (reg3 w 14) (reg3 w 6)) else none
  | 0xa => if fld w 9 5 = 0 ∧ fld w 17 2 = 0 ∧ fld w 22 4 = 0 then some (.vmsof (reg3 w 19) (reg3 w 14) (reg3 w 6)) else none
  | 0xb => if fld w 9 5 = 0 ∧ fld w 17 2 = 0 ∧ fld w 24 2 = 0 then some (.viota (reg5 w 19) (reg3 w 14) (reg3 w 6)) else none
  | 0xc => if fld w 9 10 = 0 ∧ fld w 24 2 = 0 then some (.vid (reg5 w 19) (reg3 w 6)) else none
  | 0x10 => if fld w 9 5 = 0 ∧ fld w 17 2 = 0 ∧ fld w 24 2 = 0 then some (.vmpopc (reg5 w 19) (reg3 w 14) (reg3 w 6)) else none
  | 0x11 => if fld w 9 5 = 0 ∧ fld w 17 2 = 0 ∧ fld w 24 2 = 0 then some (.vmfirst (reg5 w 19) (reg3 w 14) (reg3 w 6)) else none
  | _ => none

/-- MAJ 0x16, class VPM (R39). -/
def decodeVpm (w : Nat) : Option Instr :=
  match fld w 0 4 with
  | 0x0 => some (.vrgather (reg5 w 17) (reg5 w 12) (reg5 w 7) (reg3 w 4) (reg4 w 22))
  | 0x1 => some (.vrgatherx (reg5 w 17) (reg5 w 12) (reg5 w 7) (reg3 w 4) (reg4 w 22))
  | 0x2 => some (.vslideup (reg5 w 17) (reg5 w 12) (reg5 w 7) (reg3 w 4) (reg4 w 22))
  | 0x3 => some (.vslidedown (reg5 w 17) (reg5 w 12) (reg5 w 7) (reg3 w 4) (reg4 w 22))
  | 0x4 => some (.vslide1up (reg5 w 17) (reg5 w 12) (reg5 w 7) (reg3 w 4) (reg4 w 22))
  | 0x5 => some (.vslide1down (reg5 w 17) (reg5 w 12) (reg5 w 7) (reg3 w 4) (reg4 w 22))
  | 0x6 => if fld w 4 3 = 0 ∧ fld w 10 2 = 0 then some (.vcompress (reg5 w 17) (reg5 w 12) (reg3 w 7) (reg4 w 22)) else none
  | 0x7 => if fld w 4 3 = 0 then some (.vmvxs (reg5 w 17) (reg5 w 12) (reg5 w 7) (reg4 w 22)) else none
  | 0x8 => if fld w 7 5 = 0 then some (.vmvsx (reg5 w 17) (reg5 w 12) (reg3 w 4) (reg4 w 22)) else none
  | 0x9 => if fld w 7 5 = 0 then some (.vrev (reg5 w 17) (reg5 w 12) (reg3 w 4) (reg4 w 22)) else none
  | _ => none

/-- MAJ 0x17, class VRD (R39). -/
def decodeVrd (w : Nat) : Option Instr :=
  match fld w 0 4 with
  | 0x0 => some (.vredoFsum (reg5 w 17) (reg5 w 12) (reg5 w 7) (reg3 w 4) (reg4 w 22))
  | 0x1 => some (.vredoFmax (reg5 w 17) (reg5 w 12) (reg5 w 7) (reg3 w 4) (reg4 w 22))
  | 0x2 => some (.vredoFmin (reg5 w 17) (reg5 w 12) (reg5 w 7) (reg3 w 4) (reg4 w 22))
  | 0x3 => some (.vredoBfsum (reg5 w 17) (reg5 w 12) (reg5 w 7) (reg3 w 4) (reg4 w 22))
  | 0x4 => some (.vredoSum (reg5 w 17) (reg5 w 12) (reg5 w 7) (reg3 w 4) (reg4 w 22))
  | 0x5 => some (.vredoMax (reg5 w 17) (reg5 w 12) (reg5 w 7) (reg3 w 4) (reg4 w 22))
  | 0x6 => some (.vredoMin (reg5 w 17) (reg5 w 12) (reg5 w 7) (reg3 w 4) (reg4 w 22))
  | 0x7 => some (.vredoMinu (reg5 w 17) (reg5 w 12) (reg5 w 7) (reg3 w 4) (reg4 w 22))
  | 0x8 => some (.vredtFsum (reg5 w 17) (reg5 w 12) (reg5 w 7) (reg3 w 4) (reg4 w 22))
  | 0x9 => some (.vredtFmax (reg5 w 17) (reg5 w 12) (reg5 w 7) (reg3 w 4) (reg4 w 22))
  | 0xa => some (.vredtFmin (reg5 w 17) (reg5 w 12) (reg5 w 7) (reg3 w 4) (reg4 w 22))
  | 0xb => some (.vredtBfsum (reg5 w 17) (reg5 w 12) (reg5 w 7) (reg3 w 4) (reg4 w 22))
  | 0xc => some (.vredtSum (reg5 w 17) (reg5 w 12) (reg5 w 7) (reg3 w 4) (reg4 w 22))
  | 0xd => some (.vredtMax (reg5 w 17) (reg5 w 12) (reg5 w 7) (reg3 w 4) (reg4 w 22))
  | 0xe => some (.vredtMin (reg5 w 17) (reg5 w 12) (reg5 w 7) (reg3 w 4) (reg4 w 22))
  | 0xf => some (.vredtMaxu (reg5 w 17) (reg5 w 12) (reg5 w 7) (reg3 w 4) (reg4 w 22))
  | _ => none

/-- MAJ 0x18, class VSO (R39). -/
noncomputable def decodeVso (w : Nat) : Option Instr :=
  match fld w 0 4 with
  | 0x0 => if fld w 4 8 = 0 then some (.vsortu (reg5 w 17) (reg5 w 12) (reg4 w 22)) else none
  | 0x1 => if fld w 4 8 = 0 then some (.vsorts (reg5 w 17) (reg5 w 12) (reg4 w 22)) else none
  | 0x2 => if fld w 4 8 = 0 then some (.vsortf (reg5 w 17) (reg5 w 12) (reg4 w 22)) else none
  | 0x3 => if fld w 4 8 = 0 then some (.vsortkvu (reg5 w 17) (reg5 w 12) (reg4 w 22)) else none
  | 0x4 => if fld w 4 8 = 0 then some (.vsortkvs (reg5 w 17) (reg5 w 12) (reg4 w 22)) else none
  | 0x5 => if fld w 4 8 = 0 then some (.vsortkvf (reg5 w 17) (reg5 w 12) (reg4 w 22)) else none
  | 0x6 => if fld w 4 3 = 0 then some (.vmergeu (reg5 w 17) (reg5 w 12) (reg5 w 7) (reg4 w 22)) else none
  | 0x7 => if fld w 4 3 = 0 then some (.vmerges (reg5 w 17) (reg5 w 12) (reg5 w 7) (reg4 w 22)) else none
  | 0x8 => if fld w 4 3 = 0 then some (.vmergef (reg5 w 17) (reg5 w 12) (reg5 w 7) (reg4 w 22)) else none
  | 0x9 => some (.vtag (reg5 w 17) (reg5 w 12) (reg5 w 7) (reg3 w 4) (reg4 w 22))
  | 0xa => if fld w 4 8 = 0 ∧ fld w 20 2 = 0 then some (.vsegm (reg3 w 17) (reg5 w 12) (reg4 w 22)) else none
  | _ => none

/-- MAJ 0x19, class VCF (R39). -/
noncomputable def decodeVcf (w : Nat) : Option Instr :=
  match fld w 0 6 with
  | 0x0 => if fld w 6 8 = 0 ∧ fld w 24 2 = 0 then some (.vsetvl (reg5 w 19) (reg5 w 14)) else none
  | 0x1 => if fld w 6 3 = 0 ∧ fld w 24 2 = 0 then some (.vcfg (reg5 w 19) (reg5 w 14) (reg5 w 9)) else none
  | _ => none

/-- MAJ 0x1a, class VCT (R39). -/
noncomputable def decodeVct (w : Nat) : Option Instr :=
  match fld w 23 3 with
  | 0x0 => if fld w 13 5 = 0 ∧ fld w 21 2 = 0 then some (.vbr (reg3 w 18) (BitVec.ofNat 13 (fld w 0 13))) else none
  | 0x1 => if fld w 13 10 = 0 then some (.vjoin (BitVec.ofNat 13 (fld w 0 13))) else none
  | 0x2 => if fld w 16 2 = 0 then some (.vloop (reg5 w 18) (reg3 w 13) (BitVec.ofNat 13 (fld w 0 13))) else none
  | _ => none

/-- MAJ 0x1b, class VCM (R39). -/
noncomputable def decodeVcm (w : Nat) : Option Instr :=
  match fld w 0 4 with
  | 0x0 => if fld w 7 5 = 0 then some (.vldc (reg5 w 17) (reg5 w 12) (reg3 w 4) (reg4 w 22)) else none
  | 0x1 => some (.vldcs (reg5 w 17) (reg5 w 12) (reg5 w 7) (reg3 w 4) (reg4 w 22))
  | 0x2 => some (.vldcx (reg5 w 17) (reg5 w 12) (reg5 w 7) (reg3 w 4) (reg4 w 22))
  | 0x3 => if fld w 7 5 = 0 then some (.vstc (reg5 w 17) (reg5 w 12) (reg3 w 4) (reg4 w 22)) else none
  | 0x4 => some (.vstcs (reg5 w 17) (reg5 w 12) (reg5 w 7) (reg3 w 4) (reg4 w 22))
  | 0x5 => some (.vstcx (reg5 w 17) (reg5 w 12) (reg5 w 7) (reg3 w 4) (reg4 w 22))
  | 0x8 => if fld w 7 5 = 0 then some (.vstp (reg5 w 17) (reg5 w 12) (reg3 w 4) (reg4 w 22)) else none
  | 0x9 => some (.vstpb (reg5 w 17) (reg5 w 12) (reg5 w 7) (reg3 w 4) (reg4 w 22))
  | _ => none

/-- MAJ 0x1c, class VTS (R39). -/
noncomputable def decodeVts (w : Nat) : Option Instr :=
  match fld w 0 6 with
  | 0x0 => if fld w 17 2 = 0 ∧ fld w 24 2 = 1 then some (.vtrdr (reg5 w 19) (reg3 w 14) (reg5 w 9) (reg3 w 6)) else none
  | 0x1 => if fld w 17 2 = 0 ∧ fld w 24 2 = 1 then some (.vtrdc (reg5 w 19) (reg3 w 14) (reg5 w 9) (reg3 w 6)) else none
  | 0x2 => if fld w 17 2 = 0 ∧ fld w 24 2 = 1 then some (.vtrdrz (reg5 w 19) (reg3 w 14) (reg5 w 9) (reg3 w 6)) else none
  | 0x3 => if fld w 17 2 = 0 ∧ fld w 24 2 = 1 then some (.vtrdcz (reg5 w 19) (reg3 w 14) (reg5 w 9) (reg3 w 6)) else none
  | 0x4 => if fld w 17 2 = 0 ∧ fld w 24 2 = 1 then some (.vtwrr (reg5 w 19) (reg3 w 14) (reg5 w 9) (reg3 w 6)) else none
  | 0x5 => if fld w 17 2 = 0 ∧ fld w 24 2 = 1 then some (.vtwrc (reg5 w 19) (reg3 w 14) (reg5 w 9) (reg3 w 6)) else none
  | _ => none

/-- MAJ 0x20, class RUN (R39). -/
noncomputable def decodeRun (w : Nat) : Option Instr :=
  match fld w 0 6 with
  | 0x0 => if fld w 6 3 = 0 ∧ fld w 24 2 = 0 then some (.rmk (reg5 w 19) (reg5 w 14) (reg5 w 9)) else none
  | 0x1 => if fld w 6 8 = 0 ∧ fld w 24 2 = 0 then some (.rseal (reg5 w 19) (reg5 w 14)) else none
  | 0x2 => if fld w 6 8 = 0 ∧ fld w 24 2 = 0 then some (.rrel (reg5 w 19) (reg5 w 14)) else none
  | 0x3 => if fld w 6 8 = 0 ∧ fld w 24 2 = 0 then some (.rmark (reg5 w 19) (reg5 w 14)) else none
  | 0x4 => if fld w 6 8 = 0 ∧ fld w 24 2 = 0 then some (.rhdr (reg5 w 19) (reg5 w 14)) else none
  | 0x5 => if fld w 6 3 = 0 ∧ fld w 24 2 = 0 then some (.rview (reg5 w 19) (reg5 w 14) (reg5 w 9)) else none
  | _ => none

/-- MAJ 0x21, class PRT (R39). -/
noncomputable def decodePrt (w : Nat) : Option Instr :=
  match fld w 0 6 with
  | 0x0 => if fld w 6 3 = 0 ∧ fld w 24 2 = 0 then some (.pbind (reg5 w 19) (reg5 w 14) (reg5 w 9)) else none
  | 0x1 => if fld w 6 8 = 0 ∧ fld w 17 2 = 0 ∧ fld w 24 2 = 0 then some (.punbind (reg5 w 19) (reg3 w 14)) else none
  | 0x2 => if fld w 6 8 = 0 ∧ fld w 17 2 = 0 ∧ fld w 24 2 = 0 then some (.pseal (reg5 w 19) (reg3 w 14)) else none
  | 0x3 => if fld w 6 3 = 0 ∧ fld w 17 2 = 0 ∧ fld w 24 2 = 0 then some (.pseek (reg5 w 19) (reg3 w 14) (reg5 w 9)) else none
  | 0x4 => if fld w 6 8 = 0 ∧ fld w 17 2 = 0 ∧ fld w 24 2 = 0 then some (.ppos (reg5 w 19) (reg3 w 14)) else none
  | 0x5 => if fld w 6 8 = 0 ∧ fld w 17 2 = 0 ∧ fld w 24 2 = 0 then some (.pstat (reg5 w 19) (reg3 w 14)) else none
  | 0x6 => if fld w 6 8 = 0 ∧ fld w 17 2 = 0 ∧ fld w 24 2 = 0 then some (.phnd (reg5 w 19) (reg3 w 14)) else none
  | _ => none

/-- MAJ 0x22, class VPT (R39). -/
noncomputable def decodeVpt (w : Nat) : Option Instr :=
  match fld w 0 4 with
  | 0x0 => if fld w 7 5 = 0 ∧ fld w 15 2 = 0 then some (.vprd (reg5 w 17) (reg3 w 12) (reg3 w 4) (reg4 w 22)) else none
  | 0x1 => if fld w 7 5 = 0 ∧ fld w 15 2 = 0 then some (.vprdff (reg5 w 17) (reg3 w 12) (reg3 w 4) (reg4 w 22)) else none
  | 0x2 => if fld w 7 5 = 0 ∧ fld w 15 2 = 0 then some (.vpwr (reg5 w 17) (reg3 w 12) (reg3 w 4) (reg4 w 22)) else none
  | 0x3 => if fld w 7 5 = 0 ∧ fld w 15 2 = 0 then some (.vppeek (reg5 w 17) (reg3 w 12) (reg3 w 4) (reg4 w 22)) else none
  | 0x4 => if fld w 4 3 = 0 ∧ fld w 15 2 = 0 then some (.vprdnF (reg5 w 17) (reg3 w 12) (reg5 w 7) (reg4 w 22)) else none
  | 0x5 => if fld w 4 3 = 0 ∧ fld w 15 2 = 0 then some (.vprdnBf (reg5 w 17) (reg3 w 12) (reg5 w 7) (reg4 w 22)) else none
  | 0x6 => if fld w 4 3 = 0 ∧ fld w 15 2 = 0 then some (.vprdnffF (reg5 w 17) (reg3 w 12) (reg5 w 7) (reg4 w 22)) else none
  | 0x7 => if fld w 4 3 = 0 ∧ fld w 15 2 = 0 then some (.vprdnffBf (reg5 w 17) (reg3 w 12) (reg5 w 7) (reg4 w 22)) else none
  | 0x8 => if fld w 4 8 = 0 ∧ fld w 15 2 = 0 then some (.vprdnC (reg5 w 17) (reg3 w 12) (reg4 w 22)) else none
  | 0x9 => if fld w 4 8 = 0 ∧ fld w 15 2 = 0 then some (.vprdnffC (reg5 w 17) (reg3 w 12) (reg4 w 22)) else none
  | 0xa => if fld w 4 3 = 0 ∧ fld w 15 2 = 0 then some (.vpwrnF (reg5 w 17) (reg3 w 12) (reg5 w 7) (reg4 w 22)) else none
  | 0xb => if fld w 4 3 = 0 ∧ fld w 15 2 = 0 then some (.vpwrnBf (reg5 w 17) (reg3 w 12) (reg5 w 7) (reg4 w 22)) else none
  | 0xc => if fld w 4 8 = 0 ∧ fld w 15 2 = 0 then some (.vpwrnC (reg5 w 17) (reg3 w 12) (reg4 w 22)) else none
  | _ => none

/-- MAJ 0x23, class BCN (R39). -/
noncomputable def decodeBcn (w : Nat) : Option Instr :=
  match fld w 0 3 with
  | 0x0 => if fld w 3 5 = 0 then some (.bld (reg5 w 13) (reg5 w 8) (reg4 w 18) (reg4 w 22)) else none
  | 0x1 => if fld w 3 5 = 0 ∧ fld w 22 4 = 0 then some (.bst (reg5 w 13) (reg5 w 8) (reg4 w 18)) else none
  | 0x2 => if fld w 3 5 = 0 then some (.bstk (reg5 w 13) (reg5 w 8) (reg4 w 18) (reg4 w 22)) else none
  | 0x3 => if fld w 3 5 = 0 then some (.vbld (reg5 w 13) (reg5 w 8) (reg4 w 18) (reg4 w 22)) else none
  | 0x4 => if fld w 3 5 = 0 then some (.vbst (reg5 w 13) (reg5 w 8) (reg4 w 18) (reg4 w 22)) else none
  | 0x5 => if fld w 3 5 = 0 ∧ fld w 18 4 = 15 then some (.bldsc (reg5 w 13) (reg5 w 8) (reg4 w 22)) else none
  | 0x6 => if fld w 3 5 = 0 ∧ fld w 18 4 = 15 then some (.bstsc (reg5 w 13) (reg5 w 8) (reg4 w 22)) else none
  | _ => none

/-- MAJ 0x24, class ATM (R39). -/
noncomputable def decodeAtm (w : Nat) : Option Instr :=
  match fld w 0 3 with
  | 0x0 => some (.aadd (reg5 w 13) (reg5 w 8) (reg5 w 3) (reg4 w 18) (reg4 w 22))
  | 0x1 => some (.amax (reg5 w 13) (reg5 w 8) (reg5 w 3) (reg4 w 18) (reg4 w 22))
  | 0x2 => some (.amin (reg5 w 13) (reg5 w 8) (reg5 w 3) (reg4 w 18) (reg4 w 22))
  | 0x3 => some (.aswp (reg5 w 13) (reg5 w 8) (reg5 w 3) (reg4 w 18) (reg4 w 22))
  | 0x4 => some (.acas (reg5 w 13) (reg5 w 8) (reg5 w 3) (reg4 w 18) (reg4 w 22))
  | 0x5 => some (.amaxe (reg5 w 13) (reg5 w 8) (reg5 w 3) (reg4 w 18) (reg4 w 22))
  | 0x6 => some (.amine (reg5 w 13) (reg5 w 8) (reg5 w 3) (reg4 w 18) (reg4 w 22))
  | 0x7 => some (.vamaxe (reg5 w 13) (reg5 w 8) (reg5 w 3) (reg4 w 18) (reg4 w 22))
  | _ => none

/-- MAJ 0x25, class SYN (R39). -/
noncomputable def decodeSyn (w : Nat) : Option Instr :=
  match fld w 0 3 with
  | 0x0 => if fld w 3 5 = 0 ∧ fld w 13 13 = 0 then some (.fenc (reg5 w 8)) else none
  | 0x1 => if fld w 16 2 = 0 then some (.vwait (reg3 w 13) (reg5 w 8) (reg5 w 3) (reg4 w 18) (reg4 w 22)) else none
  | _ => none

/-- MAJ 0x28, class CPY (R39). -/
noncomputable def decodeCpy (w : Nat) : Option Instr :=
  match fld w 0 4 with
  | 0x0 => if fld w 4 3 = 0 ∧ fld w 19 3 = 0 then (quartetOf w).map fun b => .cprr (reg2 w 17) (reg5 w 12) b (reg4 w 22) else none
  | 0x1 => if fld w 4 3 = 0 ∧ fld w 19 3 = 0 then (quartetOf w).map fun b => .cprc (reg2 w 17) (reg5 w 12) b (reg4 w 22) else none
  | 0x2 => if fld w 4 3 = 0 ∧ fld w 19 3 = 0 then (quartetOf w).map fun b => .cprp (reg2 w 17) (reg5 w 12) b (reg4 w 22) else none
  | 0x3 => if fld w 4 8 = 0 ∧ fld w 14 3 = 0 then some (.cpmark (reg5 w 17) (reg2 w 12) (reg4 w 22)) else none
  | 0x4 => if fld w 4 8 = 0 ∧ fld w 14 3 = 0 then some (.cpseq (reg5 w 17) (reg2 w 12) (reg4 w 22)) else none
  | 0x5 => if fld w 4 3 = 0 ∧ fld w 14 3 = 0 then some (.cpstat (reg5 w 17) (reg2 w 12) (reg5 w 7) (reg4 w 22)) else none
  | 0x6 => if fld w 4 8 = 0 ∧ fld w 14 3 = 0 then some (.cpretry (reg5 w 17) (reg2 w 12) (reg4 w 22)) else none
  | 0x7 => if fld w 4 8 = 0 ∧ fld w 14 3 = 0 then some (.cpabort (reg5 w 17) (reg2 w 12) (reg4 w 22)) else none
  | _ => none

/-- MAJ 0x29, class SRT (R39). -/
noncomputable def decodeSrt (w : Nat) : Option Instr :=
  match fld w 0 4 with
  | 0x0 => if fld w 4 3 = 0 then some (.ssort (reg5 w 17) (reg5 w 12) (reg5 w 7) (reg4 w 22)) else none
  | 0x1 => if fld w 4 3 = 0 then some (.smerge (reg5 w 17) (reg5 w 12) (reg5 w 7) (reg4 w 22)) else none
  | 0x2 => if fld w 4 3 = 0 then some (.sjoin (reg5 w 17) (reg5 w 12) (reg5 w 7) (reg4 w 22)) else none
  | 0x3 => if fld w 4 3 = 0 then some (.stag (reg5 w 17) (reg5 w 12) (reg5 w 7) (reg4 w 22)) else none
  | 0x4 => if fld w 4 3 = 0 then some (.sprog (reg5 w 17) (reg5 w 12) (reg5 w 7) (reg4 w 22)) else none
  | 0x5 => if fld w 4 8 = 0 then some (.sabort (reg5 w 17) (reg5 w 12) (reg4 w 22)) else none
  | _ => none

/-- MAJ 0x2c, class MCF (R39). -/
noncomputable def decodeMcf (w : Nat) : Option Instr :=
  match fld w 0 6 with
  | 0x0 => if fld w 6 3 = 0 ∧ fld w 24 2 = 0 then some (.mcfg (reg5 w 19) (reg5 w 14) (reg5 w 9)) else none
  | 0x1 => if fld w 6 3 = 0 ∧ fld w 24 2 = 0 then if fld w 19 5 = fld w 14 5 ∨ fld w 19 5 = fld w 9 5 ∨ fld w 14 5 = fld w 9 5 then none else some (.msetl (reg5 w 19) (reg5 w 14) (reg5 w 9)) else none
  | 0x2 => if fld w 6 8 = 0 ∧ fld w 24 2 = 0 then some (.men (reg5 w 19) (reg5 w 14)) else none
  | 0x3 => if fld w 6 8 = 0 ∧ fld w 24 2 = 0 then some (.mdis (reg5 w 19) (reg5 w 14)) else none
  | _ => none

/-- MAJ 0x2d, class MOP (R39). -/
noncomputable def decodeMop (w : Nat) : Option Instr :=
  match fld w 0 4 with
  | 0x0 => if fld w 4 3 = 0 ∧ fld w 20 2 = 0 then some (.mma (reg3 w 17) (reg5 w 12) (reg5 w 7) (reg4 w 22)) else none
  | 0x1 => if fld w 4 3 = 0 ∧ fld w 20 2 = 0 then some (.mmaz (reg3 w 17) (reg5 w 12) (reg5 w 7) (reg4 w 22)) else none
  | 0x2 => if fld w 4 13 = 0 ∧ fld w 20 2 = 0 then some (.mzero (reg3 w 17) (reg4 w 22)) else none
  | _ => none

/-- MAJ 0x30, class TSK (R39). -/
noncomputable def decodeTsk (w : Nat) : Option Instr :=
  match fld w 0 6 with
  | 0x0 => if fld w 6 7 = 0 ∧ fld w 23 3 = 0 then some (.tspawn (reg5 w 18) (reg5 w 13)) else none
  | 0x1 => if fld w 6 20 = 0 then some .tretire else none
  | 0x2 => if fld w 6 12 = 0 ∧ fld w 23 3 = 0 then some (.tscope (reg5 w 18)) else none
  | 0x3 => if fld w 6 12 = 0 ∧ fld w 23 3 = 0 then some (.titer (reg5 w 18)) else none
  | _ => none

/-- MAJ 0x31, class SCP (R39). -/
noncomputable def decodeScp (w : Nat) : Option Instr :=
  match fld w 0 6 with
  | 0x0 => if fld w 6 7 = 0 ∧ fld w 23 3 = 0 then some (.sopen (reg5 w 18) (reg5 w 13)) else none
  | 0x1 => if fld w 6 7 = 0 ∧ fld w 23 3 = 0 then some (.scancel (reg5 w 18) (reg5 w 13)) else none
  | 0x2 => if fld w 6 2 = 0 ∧ fld w 23 3 = 0 then some (.swait (reg5 w 18) (reg5 w 13) (reg5 w 8)) else none
  | 0x3 => if fld w 6 7 = 0 ∧ fld w 23 3 = 0 then some (.sclose (reg5 w 18) (reg5 w 13)) else none
  | 0x4 => if fld w 6 2 = 0 ∧ fld w 23 3 = 0 then some (.sread (reg5 w 18) (reg5 w 13) (reg5 w 8)) else none
  | 0x5 => if fld w 6 12 = 0 ∧ fld w 23 3 = 0 then some (.sself (reg5 w 18)) else none
  | _ => none

/-- MAJ 0x32, class GRP (R39). -/
noncomputable def decodeGrp (w : Nat) : Option Instr :=
  match fld w 0 4 with
  | 0x0 => if fld w 4 3 = 0 ∧ fld w 22 4 = 0 then some (.grbeg (reg5 w 17) (reg5 w 12) (reg5 w 7)) else none
  | 0x1 => if fld w 4 3 = 0 ∧ fld w 22 4 = 0 then some (.gadd (reg5 w 17) (reg5 w 12) (reg5 w 7)) else none
  | 0x2 => if fld w 4 3 = 0 ∧ fld w 22 4 = 0 then some (.gdep (reg5 w 17) (reg5 w 12) (reg5 w 7)) else none
  | 0x3 => if fld w 4 8 = 0 ∧ fld w 22 4 = 0 then some (.grend (reg5 w 17) (reg5 w 12)) else none
  | 0x4 => if fld w 4 3 = 0 then some (.grplay (reg5 w 17) (reg5 w 12) (reg5 w 7) (reg4 w 22)) else none
  | 0x5 => if fld w 4 8 = 0 ∧ fld w 22 4 = 0 then some (.gfree (reg5 w 17) (reg5 w 12)) else none
  | _ => none

/-- MAJ 0x33, class BAR (R39). -/
noncomputable def decodeBar (w : Nat) : Option Instr :=
  match fld w 0 6 with
  | 0x0 => if fld w 6 7 = 0 then (levelOf w).map fun l => .bjoin l (reg5 w 18) (reg5 w 13) else none
  | 0x1 => if fld w 6 2 = 0 then (levelOf w).map fun l => .bwait l (reg5 w 18) (reg5 w 13) (reg5 w 8) else none
  | 0x2 => if fld w 6 7 = 0 then (levelOf w).map fun l => .bleave l (reg5 w 18) (reg5 w 13) else none
  | _ => none

/-- MAJ 0x38, class SYS (R39). -/
noncomputable def decodeSys (w : Nat) : Option Instr :=
  match fld w 0 6 with
  | 0x0 => if fld w 6 20 = 0 then some .scall else none
  | 0x1 => if fld w 6 20 = 0 then some .brk else none
  | 0x10 => if fld w 6 8 = 0 ∧ fld w 19 7 = 0 then some (.sret (reg5 w 14)) else none
  | 0x11 => if fld w 6 8 = 0 ∧ fld w 24 2 = 0 then some (.svec (reg5 w 19) (reg5 w 14)) else none
  | 0x12 => if fld w 6 8 = 0 ∧ fld w 24 2 = 0 then some (.swatch (reg5 w 19) (reg5 w 14)) else none
  | 0x13 => if fld w 6 8 = 0 ∧ fld w 24 2 = 0 then some (.subr (reg5 w 19) (reg5 w 14)) else none
  | 0x14 => if fld w 6 3 = 0 ∧ fld w 24 2 = 0 then some (.subw (reg5 w 19) (reg5 w 14) (reg5 w 9)) else none
  | 0x15 => if fld w 6 8 = 0 ∧ fld w 24 2 = 0 then some (.ctxsave (reg5 w 19) (reg5 w 14)) else none
  | 0x16 => if fld w 6 8 = 0 ∧ fld w 24 2 = 0 then some (.ctxrest (reg5 w 19) (reg5 w 14)) else none
  | 0x17 => if fld w 6 8 = 0 ∧ fld w 24 2 = 0 then some (.ctxdrop (reg5 w 19) (reg5 w 14)) else none
  | 0x18 => if fld w 6 3 = 0 ∧ fld w 24 2 = 0 then some (.spool (reg5 w 19) (reg5 w 14) (reg5 w 9)) else none
  | 0x19 => if fld w 6 3 = 0 ∧ fld w 24 2 = 0 then some (.sring (reg5 w 19) (reg5 w 14) (reg5 w 9)) else none
  | _ => none

/-- MAJ 0x39, class XLT (R39). -/
noncomputable def decodeXlt (w : Nat) : Option Instr :=
  match fld w 0 6 with
  | 0x0 => if fld w 6 3 = 0 ∧ fld w 24 2 = 0 then some (.xrng (reg5 w 19) (reg5 w 14) (reg5 w 9)) else none
  | 0x1 => if fld w 6 3 = 0 ∧ fld w 24 2 = 0 then some (.xrrd (reg5 w 19) (reg5 w 14) (reg5 w 9)) else none
  | 0x2 => if fld w 6 3 = 0 ∧ fld w 24 2 = 0 then some (.xctx (reg5 w 19) (reg5 w 14) (reg5 w 9)) else none
  | 0x3 => if fld w 6 3 = 0 ∧ fld w 24 2 = 0 then some (.xinv (reg5 w 19) (reg5 w 14) (reg5 w 9)) else none
  | 0x4 => if fld w 6 3 = 0 ∧ fld w 24 2 = 0 then some (.xpois (reg5 w 19) (reg5 w 14) (reg5 w 9)) else none
  | _ => none

/-- MAJ 0x3a, class LNE (R39). -/
noncomputable def decodeLne (w : Nat) : Option Instr :=
  match fld w 0 6 with
  | 0x0 => if fld w 6 8 = 0 ∧ fld w 24 2 = 0 then some (.lrecl (reg5 w 19) (reg5 w 14)) else none
  | 0x1 => if fld w 6 8 = 0 ∧ fld w 24 2 = 0 then some (.lgive (reg5 w 19) (reg5 w 14)) else none
  | 0x2 => if fld w 6 8 = 0 ∧ fld w 24 2 = 0 then some (.lspare (reg5 w 19) (reg5 w 14)) else none
  | 0x3 => if fld w 6 8 = 0 ∧ fld w 24 2 = 0 then some (.lmir (reg5 w 19) (reg5 w 14)) else none
  | 0x4 => if fld w 6 8 = 0 ∧ fld w 24 2 = 0 then some (.lstat (reg5 w 19) (reg5 w 14)) else none
  | _ => none

/-- MAJ 0x3b, class COL (R39). -/
noncomputable def decodeCol (w : Nat) : Option Instr :=
  match fld w 0 6 with
  | 0x0 => if fld w 6 2 = 0 ∧ fld w 23 3 = 5 then some (.cform (reg5 w 18) (reg5 w 13) (reg5 w 8)) else none
  | 0x1 => if fld w 6 7 = 0 ∧ fld w 23 3 = 5 then some (.callr (reg5 w 18) (reg5 w 13)) else none
  | 0x2 => if fld w 6 7 = 0 ∧ fld w 23 3 = 5 then some (.cabort (reg5 w 18) (reg5 w 13)) else none
  | 0x3 => if fld w 6 12 = 0 ∧ fld w 23 3 = 5 then some (.cid (reg5 w 18)) else none
  | 0x4 => if fld w 6 7 = 0 ∧ fld w 23 3 = 5 then some (.lkstat (reg5 w 18) (reg5 w 13)) else none
  | _ => none

/-- The instruction of a word given as a number (R39). Any MAJ not listed is illegal or reserved. -/
noncomputable def decodeNat (w : Nat) : Option Instr :=
  match fld w 26 6 with
  | 0x1 => decodeSop w
  | 0x2 => decodeSim w
  | 0x3 => decodeSui w
  | 0x4 => decodeSbr w
  | 0x5 => decodeSj w
  | 0x6 => decodeSjr w
  | 0x7 => decodeScm w
  | 0x8 => decodeSll w
  | 0x9 => decodeSfp w
  | 0xa => decodeScr w
  | 0xb => decodeTim w
  | 0x10 => decodeVin w
  | 0x11 => decodeVfa w
  | 0x12 => decodeVfm w
  | 0x13 => decodeVcv w
  | 0x14 => decodeVcp w
  | 0x15 => decodeVmk w
  | 0x16 => decodeVpm w
  | 0x17 => decodeVrd w
  | 0x18 => decodeVso w
  | 0x19 => decodeVcf w
  | 0x1a => decodeVct w
  | 0x1b => decodeVcm w
  | 0x1c => decodeVts w
  | 0x20 => decodeRun w
  | 0x21 => decodePrt w
  | 0x22 => decodeVpt w
  | 0x23 => decodeBcn w
  | 0x24 => decodeAtm w
  | 0x25 => decodeSyn w
  | 0x28 => decodeCpy w
  | 0x29 => decodeSrt w
  | 0x2c => decodeMcf w
  | 0x2d => decodeMop w
  | 0x30 => decodeTsk w
  | 0x31 => decodeScp w
  | 0x32 => decodeGrp w
  | 0x33 => decodeBar w
  | 0x38 => decodeSys w
  | 0x39 => decodeXlt w
  | 0x3a => decodeLne w
  | 0x3b => decodeCol w
  | _ => none

/-- The instruction of a word; `none` where one of the checks 1 to 4 of R42 fails. -/
noncomputable def decode (w : BitVec 32) : Option Instr := decodeNat w.toNat

/-- The amount of an immediate shift as it stands in the word (R72). -/
def amountBits (a : Fin 64) : Nat := a.val % 32 * 2 ^ 9 + a.val / 32 * 2 ^ 6

/-- A base pattern with one field put in at bit lo. -/
def put (base v lo : Nat) : Nat := base + v * 2 ^ lo

/-- The word of an instruction as a number, from the encoding tables; an event has none. -/
def encodeNat : Instr → Option Nat
  | .add sz d a b => some (put (put (put (put 0x4000000 sz.sopCode 24) d.val 19) a.val 14) b.val 9)
  | .sub sz d a b => some (put (put (put (put 0x4000001 sz.sopCode 24) d.val 19) a.val 14) b.val 9)
  | .and sz d a b => some (put (put (put (put 0x4000002 sz.sopCode 24) d.val 19) a.val 14) b.val 9)
  | .or sz d a b => some (put (put (put (put 0x4000003 sz.sopCode 24) d.val 19) a.val 14) b.val 9)
  | .xor sz d a b => some (put (put (put (put 0x4000004 sz.sopCode 24) d.val 19) a.val 14) b.val 9)
  | .andn sz d a b => some (put (put (put (put 0x4000005 sz.sopCode 24) d.val 19) a.val 14) b.val 9)
  | .slli sz d a amt => some (put (put (put (put 0x4000010 sz.sopCode 24) d.val 19) a.val 14) (amountBits amt) 0)
  | .srli sz d a amt => some (put (put (put (put 0x4000011 sz.sopCode 24) d.val 19) a.val 14) (amountBits amt) 0)
  | .srai sz d a amt => some (put (put (put (put 0x4000012 sz.sopCode 24) d.val 19) a.val 14) (amountBits amt) 0)
  | .rori sz d a amt => some (put (put (put (put 0x4000013 sz.sopCode 24) d.val 19) a.val 14) (amountBits amt) 0)
  | .sll sz d a b => some (put (put (put (put 0x4000014 sz.sopCode 24) d.val 19) a.val 14) b.val 9)
  | .srl sz d a b => some (put (put (put (put 0x4000015 sz.sopCode 24) d.val 19) a.val 14) b.val 9)
  | .sra sz d a b => some (put (put (put (put 0x4000016 sz.sopCode 24) d.val 19) a.val 14) b.val 9)
  | .ror sz d a b => some (put (put (put (put 0x4000017 sz.sopCode 24) d.val 19) a.val 14) b.val 9)
  | .slt sz d a b => some (put (put (put (put 0x4000018 sz.sopCode 24) d.val 19) a.val 14) b.val 9)
  | .sltu sz d a b => some (put (put (put (put 0x4000019 sz.sopCode 24) d.val 19) a.val 14) b.val 9)
  | .seq sz d a b => some (put (put (put (put 0x400001a sz.sopCode 24) d.val 19) a.val 14) b.val 9)
  | .min sz d a b => some (put (put (put (put 0x400001b sz.sopCode 24) d.val 19) a.val 14) b.val 9)
  | .max sz d a b => some (put (put (put (put 0x400001c sz.sopCode 24) d.val 19) a.val 14) b.val 9)
  | .minu sz d a b => some (put (put (put (put 0x400001d sz.sopCode 24) d.val 19) a.val 14) b.val 9)
  | .maxu sz d a b => some (put (put (put (put 0x400001e sz.sopCode 24) d.val 19) a.val 14) b.val 9)
  | .sel sz d a b => some (put (put (put (put 0x400001f sz.sopCode 24) d.val 19) a.val 14) b.val 9)
  | .mul sz d a b => some (put (put (put (put 0x4000020 sz.sopCode 24) d.val 19) a.val 14) b.val 9)
  | .mulh sz d a b => some (put (put (put (put 0x4000021 sz.sopCode 24) d.val 19) a.val 14) b.val 9)
  | .mulhu sz d a b => some (put (put (put (put 0x4000022 sz.sopCode 24) d.val 19) a.val 14) b.val 9)
  | .mulhsu sz d a b => some (put (put (put (put 0x4000023 sz.sopCode 24) d.val 19) a.val 14) b.val 9)
  | .addi d a imm => some (put (put (put 0x8000000 d.val 19) a.val 14) imm.toNat 0)
  | .andi d a imm => some (put (put (put 0x9000000 d.val 19) a.val 14) imm.toNat 0)
  | .ori d a imm => some (put (put (put 0xa000000 d.val 19) a.val 14) imm.toNat 0)
  | .xori d a imm => some (put (put (put 0xb000000 d.val 19) a.val 14) imm.toNat 0)
  | .lhi d imm => some (put (put 0xc000000 d.val 19) imm.toNat 0)
  | .adpc d imm => some (put (put 0xd000000 d.val 19) imm.toNat 0)
  | .beq a b off => some (put (put (put 0x10000000 a.val 18) b.val 13) off.toNat 0)
  | .bne a b off => some (put (put (put 0x10800000 a.val 18) b.val 13) off.toNat 0)
  | .blt a b off => some (put (put (put 0x11000000 a.val 18) b.val 13) off.toNat 0)
  | .bge a b off => some (put (put (put 0x11800000 a.val 18) b.val 13) off.toNat 0)
  | .bltu a b off => some (put (put (put 0x12000000 a.val 18) b.val 13) off.toNat 0)
  | .bgeu a b off => some (put (put (put 0x12800000 a.val 18) b.val 13) off.toNat 0)
  | .j off => some (put 0x14000000 off.toNat 1)
  | .call off => some (put 0x14000001 off.toNat 1)
  | .jr d a => some (put (put 0x18000000 d.val 19) a.val 14)
  | .ldc sz d a off => some (put (put (put (put 0x1c000000 sz.scmCode 24) d.val 19) a.val 14) off.toNat 0)
  | .ldcs sz d a off => some (put (put (put (put 0x1c001000 sz.scmCode 24) d.val 19) a.val 14) off.toNat 0)
  | .stc sz d a off => some (put (put (put (put 0x1c002000 sz.scmCode 24) d.val 19) a.val 14) off.toNat 0)
  | .div d a b tk => some (put (put (put (put 0x20000000 d.val 17) a.val 12) b.val 7) tk.val 22)
  | .divu d a b tk => some (put (put (put (put 0x20000001 d.val 17) a.val 12) b.val 7) tk.val 22)
  | .rem d a b tk => some (put (put (put (put 0x20000002 d.val 17) a.val 12) b.val 7) tk.val 22)
  | .remu d a b tk => some (put (put (put (put 0x20000003 d.val 17) a.val 12) b.val 7) tk.val 22)
  | .divw d a b tk => some (put (put (put (put 0x20000004 d.val 17) a.val 12) b.val 7) tk.val 22)
  | .divuw d a b tk => some (put (put (put (put 0x20000005 d.val 17) a.val 12) b.val 7) tk.val 22)
  | .remw d a b tk => some (put (put (put (put 0x20000006 d.val 17) a.val 12) b.val 7) tk.val 22)
  | .remuw d a b tk => some (put (put (put (put 0x20000007 d.val 17) a.val 12) b.val 7) tk.val 22)
  | .isqrt d a tk => some (put (put (put 0x20000008 d.val 17) a.val 12) tk.val 22)
  | .fsqrt d a tk => some (put (put (put 0x20000009 d.val 17) a.val 12) tk.val 22)
  | .fadd d a b => some (put (put (put 0x24000000 d.val 19) a.val 14) b.val 9)
  | .fsub d a b => some (put (put (put 0x24000001 d.val 19) a.val 14) b.val 9)
  | .fmul d a b => some (put (put (put 0x24000002 d.val 19) a.val 14) b.val 9)
  | .fmadd d a b => some (put (put (put 0x24000003 d.val 19) a.val 14) b.val 9)
  | .fmsub d a b => some (put (put (put 0x24000004 d.val 19) a.val 14) b.val 9)
  | .fnmsub d a b => some (put (put (put 0x24000005 d.val 19) a.val 14) b.val 9)
  | .feq d a b => some (put (put (put 0x24000010 d.val 19) a.val 14) b.val 9)
  | .flt d a b => some (put (put (put 0x24000011 d.val 19) a.val 14) b.val 9)
  | .fle d a b => some (put (put (put 0x24000012 d.val 19) a.val 14) b.val 9)
  | .fmin d a b => some (put (put (put 0x24000013 d.val 19) a.val 14) b.val 9)
  | .fmax d a b => some (put (put (put 0x24000014 d.val 19) a.val 14) b.val 9)
  | .fsgnj d a b => some (put (put (put 0x24000015 d.val 19) a.val 14) b.val 9)
  | .fsgnjn d a b => some (put (put (put 0x24000016 d.val 19) a.val 14) b.val 9)
  | .fsgnjx d a b => some (put (put (put 0x24000017 d.val 19) a.val 14) b.val 9)
  | .fclass d a => some (put (put 0x24000018 d.val 19) a.val 14)
  | .cvtfs d a => some (put (put 0x24000020 d.val 19) a.val 14)
  | .cvtfu d a => some (put (put 0x24000021 d.val 19) a.val 14)
  | .cvtfsz d a => some (put (put 0x24000022 d.val 19) a.val 14)
  | .cvtfuz d a => some (put (put 0x24000023 d.val 19) a.val 14)
  | .cvtsf d a => some (put (put 0x24000024 d.val 19) a.val 14)
  | .cvtuf d a => some (put (put 0x24000025 d.val 19) a.val 14)
  | .cvtfh d a => some (put (put 0x24000026 d.val 19) a.val 14)
  | .cvthf d a => some (put (put 0x24000027 d.val 19) a.val 14)
  | .crr d c => some (put (put 0x28000000 d.val 19) c.number 9)
  | .crw d c a => some (put (put (put 0x28000001 d.val 19) c.number 9) a.val 14)
  | .crset d c a => some (put (put (put 0x28000002 d.val 19) c.number 9) a.val 14)
  | .crclr d c a => some (put (put (put 0x28000003 d.val 19) c.number 9) a.val 14)
  | .nop => some 0x2c000000
  | .dly cnt => some (put 0x2c000001 cnt.val 8)
  | .tkwThreshold tk a => some (put (put 0x2c000002 tk.val 4) a.val 14)
  | .tkwDrain tk => some (put 0x2c000003 tk.val 4)
  | .tkr d tk => some (put (put 0x2c000004 d.val 19) tk.val 4)
  | .tkc tk a => some (put (put 0x2c000005 tk.val 4) a.val 14)
  | .vadd d a b m => some (put (put (put (put 0x40000000 d.val 19) a.val 14) b.bits 0) m.val 6)
  | .vsub d a b m => some (put (put (put (put 0x40000001 d.val 19) a.val 14) b.bits 0) m.val 6)
  | .vrsub d a b m => some (put (put (put (put 0x40000002 d.val 19) a.val 14) b.bits 0) m.val 6)
  | .vand d a b m => some (put (put (put (put 0x40000003 d.val 19) a.val 14) b.bits 0) m.val 6)
  | .vor d a b m => some (put (put (put (put 0x40000004 d.val 19) a.val 14) b.bits 0) m.val 6)
  | .vxor d a b m => some (put (put (put (put 0x40000005 d.val 19) a.val 14) b.bits 0) m.val 6)
  | .vsll d a b m => some (put (put (put (put 0x40000006 d.val 19) a.val 14) b.bits 0) m.val 6)
  | .vsrl d a b m => some (put (put (put (put 0x40000007 d.val 19) a.val 14) b.bits 0) m.val 6)
  | .vsra d a b m => some (put (put (put (put 0x40000008 d.val 19) a.val 14) b.bits 0) m.val 6)
  | .vmv d b m => some (put (put (put 0x40000009 d.val 19) b.bits 0) m.val 6)
  | .vmul d a b m => some (put (put (put (put 0x40000010 d.val 19) a.val 14) b.bits 0) m.val 6)
  | .vmulh d a b m => some (put (put (put (put 0x40000011 d.val 19) a.val 14) b.bits 0) m.val 6)
  | .vmulhu d a b m => some (put (put (put (put 0x40000012 d.val 19) a.val 14) b.bits 0) m.val 6)
  | .vmulhsu d a b m => some (put (put (put (put 0x40000013 d.val 19) a.val 14) b.bits 0) m.val 6)
  | .vmacc d a b m => some (put (put (put (put 0x40000014 d.val 19) a.val 14) b.bits 0) m.val 6)
  | .vmin d a b m => some (put (put (put (put 0x40000018 d.val 19) a.val 14) b.bits 0) m.val 6)
  | .vmax d a b m => some (put (put (put (put 0x40000019 d.val 19) a.val 14) b.bits 0) m.val 6)
  | .vminu d a b m => some (put (put (put (put 0x4000001a d.val 19) a.val 14) b.bits 0) m.val 6)
  | .vmaxu d a b m => some (put (put (put (put 0x4000001b d.val 19) a.val 14) b.bits 0) m.val 6)
  | .vsadd d a b m => some (put (put (put (put 0x4000001c d.val 19) a.val 14) b.bits 0) m.val 6)
  | .vsaddu d a b m => some (put (put (put (put 0x4000001d d.val 19) a.val 14) b.bits 0) m.val 6)
  | .vssub d a b m => some (put (put (put (put 0x4000001e d.val 19) a.val 14) b.bits 0) m.val 6)
  | .vssubu d a b m => some (put (put (put (put 0x4000001f d.val 19) a.val 14) b.bits 0) m.val 6)
  | .vwadd d a b m => some (put (put (put (put 0x40000020 d.val 19) a.val 14) b.bits 0) m.val 6)
  | .vwaddu d a b m => some (put (put (put (put 0x40000021 d.val 19) a.val 14) b.bits 0) m.val 6)
  | .vwsub d a b m => some (put (put (put (put 0x40000022 d.val 19) a.val 14) b.bits 0) m.val 6)
  | .vwsubu d a b m => some (put (put (put (put 0x40000023 d.val 19) a.val 14) b.bits 0) m.val 6)
  | .vwmul d a b m => some (put (put (put (put 0x40000024 d.val 19) a.val 14) b.bits 0) m.val 6)
  | .vwmulu d a b m => some (put (put (put (put 0x40000025 d.val 19) a.val 14) b.bits 0) m.val 6)
  | .vnsra d a b m => some (put (put (put (put 0x40000026 d.val 19) a.val 14) b.bits 0) m.val 6)
  | .vnclip d a b m => some (put (put (put (put 0x40000027 d.val 19) a.val 14) b.bits 0) m.val 6)
  | .vfadd d a b m => some (put (put (put (put 0x44000000 d.val 19) a.val 14) b.bits 0) m.val 6)
  | .vfsub d a b m => some (put (put (put (put 0x44000001 d.val 19) a.val 14) b.bits 0) m.val 6)
  | .vfrsub d a b m => some (put (put (put (put 0x44000002 d.val 19) a.val 14) b.bits 0) m.val 6)
  | .vfmul d a b m => some (put (put (put (put 0x44000003 d.val 19) a.val 14) b.bits 0) m.val 6)
  | .vfmin d a b m => some (put (put (put (put 0x44000004 d.val 19) a.val 14) b.bits 0) m.val 6)
  | .vfmax d a b m => some (put (put (put (put 0x44000005 d.val 19) a.val 14) b.bits 0) m.val 6)
  | .vfsgnj d a b m => some (put (put (put (put 0x44000006 d.val 19) a.val 14) b.bits 0) m.val 6)
  | .vfsgnjn d a b m => some (put (put (put (put 0x44000007 d.val 19) a.val 14) b.bits 0) m.val 6)
  | .vfsgnjx d a b m => some (put (put (put (put 0x44000008 d.val 19) a.val 14) b.bits 0) m.val 6)
  | .vfclass d a m => some (put (put (put 0x44000009 d.val 19) a.val 14) m.val 6)
  | .vfaddBf d a b m => some (put (put (put (put 0x44000020 d.val 19) a.val 14) b.bits 0) m.val 6)
  | .vfsubBf d a b m => some (put (put (put (put 0x44000021 d.val 19) a.val 14) b.bits 0) m.val 6)
  | .vfrsubBf d a b m => some (put (put (put (put 0x44000022 d.val 19) a.val 14) b.bits 0) m.val 6)
  | .vfmulBf d a b m => some (put (put (put (put 0x44000023 d.val 19) a.val 14) b.bits 0) m.val 6)
  | .vfminBf d a b m => some (put (put (put (put 0x44000024 d.val 19) a.val 14) b.bits 0) m.val 6)
  | .vfmaxBf d a b m => some (put (put (put (put 0x44000025 d.val 19) a.val 14) b.bits 0) m.val 6)
  | .vfsgnjBf d a b m => some (put (put (put (put 0x44000026 d.val 19) a.val 14) b.bits 0) m.val 6)
  | .vfsgnjnBf d a b m => some (put (put (put (put 0x44000027 d.val 19) a.val 14) b.bits 0) m.val 6)
  | .vfsgnjxBf d a b m => some (put (put (put (put 0x44000028 d.val 19) a.val 14) b.bits 0) m.val 6)
  | .vfclassBf d a m => some (put (put (put 0x44000029 d.val 19) a.val 14) m.val 6)
  | .vfwaddBf d a b m => some (put (put (put (put 0x44000030 d.val 19) a.val 14) b.bits 0) m.val 6)
  | .vfwsubBf d a b m => some (put (put (put (put 0x44000031 d.val 19) a.val 14) b.bits 0) m.val 6)
  | .vfwmulBf d a b m => some (put (put (put (put 0x44000032 d.val 19) a.val 14) b.bits 0) m.val 6)
  | .vfwaddWbf d a b m => some (put (put (put (put 0x44000033 d.val 19) a.val 14) b.bits 0) m.val 6)
  | .vfwsubWbf d a b m => some (put (put (put (put 0x44000034 d.val 19) a.val 14) b.bits 0) m.val 6)
  | .vfmacc d a b m => some (put (put (put (put 0x48000000 d.val 19) a.val 14) b.bits 0) m.val 6)
  | .vfnmacc d a b m => some (put (put (put (put 0x48000001 d.val 19) a.val 14) b.bits 0) m.val 6)
  | .vfmsac d a b m => some (put (put (put (put 0x48000002 d.val 19) a.val 14) b.bits 0) m.val 6)
  | .vfnmsac d a b m => some (put (put (put (put 0x48000003 d.val 19) a.val 14) b.bits 0) m.val 6)
  | .vfmadd d a b m => some (put (put (put (put 0x48000004 d.val 19) a.val 14) b.bits 0) m.val 6)
  | .vfmaccBf d a b m => some (put (put (put (put 0x48000010 d.val 19) a.val 14) b.bits 0) m.val 6)
  | .vfnmaccBf d a b m => some (put (put (put (put 0x48000011 d.val 19) a.val 14) b.bits 0) m.val 6)
  | .vfmsacBf d a b m => some (put (put (put (put 0x48000012 d.val 19) a.val 14) b.bits 0) m.val 6)
  | .vfnmsacBf d a b m => some (put (put (put (put 0x48000013 d.val 19) a.val 14) b.bits 0) m.val 6)
  | .vfmaddBf d a b m => some (put (put (put (put 0x48000014 d.val 19) a.val 14) b.bits 0) m.val 6)
  | .vfwmaccBf d a b m => some (put (put (put (put 0x48000018 d.val 19) a.val 14) b.bits 0) m.val 6)
  | .vfwnmaccBf d a b m => some (put (put (put (put 0x48000019 d.val 19) a.val 14) b.bits 0) m.val 6)
  | .vfwmsacBf d a b m => some (put (put (put (put 0x4800001a d.val 19) a.val 14) b.bits 0) m.val 6)
  | .vfwnmsacBf d a b m => some (put (put (put (put 0x4800001b d.val 19) a.val 14) b.bits 0) m.val 6)
  | .vfcvtXF d a m => some (put (put (put 0x4c000000 d.val 19) a.val 14) m.val 6)
  | .vfcvtXuF d a m => some (put (put (put 0x4c000001 d.val 19) a.val 14) m.val 6)
  | .vfcvtRtzXF d a m => some (put (put (put 0x4c000002 d.val 19) a.val 14) m.val 6)
  | .vfcvtRtzXuF d a m => some (put (put (put 0x4c000003 d.val 19) a.val 14) m.val 6)
  | .vfcvtFX d a m => some (put (put (put 0x4c000004 d.val 19) a.val 14) m.val 6)
  | .vfcvtFXu d a m => some (put (put (put 0x4c000005 d.val 19) a.val 14) m.val 6)
  | .vfcvtXBf d a m => some (put (put (put 0x4c000006 d.val 19) a.val 14) m.val 6)
  | .vfcvtBfX d a m => some (put (put (put 0x4c000007 d.val 19) a.val 14) m.val 6)
  | .vfwcvtFBf d a m => some (put (put (put 0x4c000008 d.val 19) a.val 14) m.val 6)
  | .vfwcvtXF d a m => some (put (put (put 0x4c000009 d.val 19) a.val 14) m.val 6)
  | .vfwcvtFX d a m => some (put (put (put 0x4c00000a d.val 19) a.val 14) m.val 6)
  | .vfncvtBfF d a m => some (put (put (put 0x4c000010 d.val 19) a.val 14) m.val 6)
  | .vfncvtXF d a m => some (put (put (put 0x4c000011 d.val 19) a.val 14) m.val 6)
  | .vfncvtXuF d a m => some (put (put (put 0x4c000012 d.val 19) a.val 14) m.val 6)
  | .vfncvtFX d a m => some (put (put (put 0x4c000013 d.val 19) a.val 14) m.val 6)
  | .vsext2 d a m => some (put (put (put 0x4c000020 d.val 19) a.val 14) m.val 6)
  | .vzext2 d a m => some (put (put (put 0x4c000021 d.val 19) a.val 14) m.val 6)
  | .vsext4 d a m => some (put (put (put 0x4c000022 d.val 19) a.val 14) m.val 6)
  | .vzext4 d a m => some (put (put (put 0x4c000023 d.val 19) a.val 14) m.val 6)
  | .vsext8 d a m => some (put (put (put 0x4c000024 d.val 19) a.val 14) m.val 6)
  | .vzext8 d a m => some (put (put (put 0x4c000025 d.val 19) a.val 14) m.val 6)
  | .vmseq d a b m => some (put (put (put (put 0x50000000 d.val 19) a.val 14) b.bits 0) m.val 6)
  | .vmsne d a b m => some (put (put (put (put 0x50000001 d.val 19) a.val 14) b.bits 0) m.val 6)
  | .vmslt d a b m => some (put (put (put (put 0x50000002 d.val 19) a.val 14) b.bits 0) m.val 6)
  | .vmsltu d a b m => some (put (put (put (put 0x50000003 d.val 19) a.val 14) b.bits 0) m.val 6)
  | .vmsle d a b m => some (put (put (put (put 0x50000004 d.val 19) a.val 14) b.bits 0) m.val 6)
  | .vmsleu d a b m => some (put (put (put (put 0x50000005 d.val 19) a.val 14) b.bits 0) m.val 6)
  | .vmsgt d a b m => some (put (put (put (put 0x50000006 d.val 19) a.val 14) b.bits 0) m.val 6)
  | .vmsgtu d a b m => some (put (put (put (put 0x50000007 d.val 19) a.val 14) b.bits 0) m.val 6)
  | .vmfeq d a b m => some (put (put (put (put 0x50000010 d.val 19) a.val 14) b.bits 0) m.val 6)
  | .vmfne d a b m => some (put (put (put (put 0x50000011 d.val 19) a.val 14) b.bits 0) m.val 6)
  | .vmflt d a b m => some (put (put (put (put 0x50000012 d.val 19) a.val 14) b.bits 0) m.val 6)
  | .vmfle d a b m => some (put (put (put (put 0x50000013 d.val 19) a.val 14) b.bits 0) m.val 6)
  | .vmfgt d a b m => some (put (put (put (put 0x50000014 d.val 19) a.val 14) b.bits 0) m.val 6)
  | .vmfge d a b m => some (put (put (put (put 0x50000015 d.val 19) a.val 14) b.bits 0) m.val 6)
  | .vmfeqBf d a b m => some (put (put (put (put 0x50000018 d.val 19) a.val 14) b.bits 0) m.val 6)
  | .vmfneBf d a b m => some (put (put (put (put 0x50000019 d.val 19) a.val 14) b.bits 0) m.val 6)
  | .vmfltBf d a b m => some (put (put (put (put 0x5000001a d.val 19) a.val 14) b.bits 0) m.val 6)
  | .vmfleBf d a b m => some (put (put (put (put 0x5000001b d.val 19) a.val 14) b.bits 0) m.val 6)
  | .vmfgtBf d a b m => some (put (put (put (put 0x5000001c d.val 19) a.val 14) b.bits 0) m.val 6)
  | .vmfgeBf d a b m => some (put (put (put (put 0x5000001d d.val 19) a.val 14) b.bits 0) m.val 6)
  | .vmand d a b m => some (put (put (put (put 0x54000000 d.val 19) a.val 14) b.val 9) m.val 6)
  | .vmor d a b m => some (put (put (put (put 0x54000001 d.val 19) a.val 14) b.val 9) m.val 6)
  | .vmxor d a b m => some (put (put (put (put 0x54000002 d.val 19) a.val 14) b.val 9) m.val 6)
  | .vmandn d a b m => some (put (put (put (put 0x54000003 d.val 19) a.val 14) b.val 9) m.val 6)
  | .vmorn d a b m => some (put (put (put (put 0x54000004 d.val 19) a.val 14) b.val 9) m.val 6)
  | .vmnand d a b m => some (put (put (put (put 0x54000005 d.val 19) a.val 14) b.val 9) m.val 6)
  | .vmnor d a b m => some (put (put (put (put 0x54000006 d.val 19) a.val 14) b.val 9) m.val 6)
  | .vmxnor d a b m => some (put (put (put (put 0x54000007 d.val 19) a.val 14) b.val 9) m.val 6)
  | .vmsbf d a m => some (put (put (put 0x54000008 d.val 19) a.val 14) m.val 6)
  | .vmsif d a m => some (put (put (put 0x54000009 d.val 19) a.val 14) m.val 6)
  | .vmsof d a m => some (put (put (put 0x5400000a d.val 19) a.val 14) m.val 6)
  | .viota d a m => some (put (put (put 0x5400000b d.val 19) a.val 14) m.val 6)
  | .vid d m => some (put (put 0x5400000c d.val 19) m.val 6)
  | .vmpopc d a m => some (put (put (put 0x54000010 d.val 19) a.val 14) m.val 6)
  | .vmfirst d a m => some (put (put (put 0x54000011 d.val 19) a.val 14) m.val 6)
  | .vrgather d a b m tk => some (put (put (put (put (put 0x58000000 d.val 17) a.val 12) b.val 7) m.val 4) tk.val 22)
  | .vrgatherx d a b m tk => some (put (put (put (put (put 0x58000001 d.val 17) a.val 12) b.val 7) m.val 4) tk.val 22)
  | .vslideup d a b m tk => some (put (put (put (put (put 0x58000002 d.val 17) a.val 12) b.val 7) m.val 4) tk.val 22)
  | .vslidedown d a b m tk => some (put (put (put (put (put 0x58000003 d.val 17) a.val 12) b.val 7) m.val 4) tk.val 22)
  | .vslide1up d a b m tk => some (put (put (put (put (put 0x58000004 d.val 17) a.val 12) b.val 7) m.val 4) tk.val 22)
  | .vslide1down d a b m tk => some (put (put (put (put (put 0x58000005 d.val 17) a.val 12) b.val 7) m.val 4) tk.val 22)
  | .vcompress d a b tk => some (put (put (put (put 0x58000006 d.val 17) a.val 12) b.val 7) tk.val 22)
  | .vmvxs d a b tk => some (put (put (put (put 0x58000007 d.val 17) a.val 12) b.val 7) tk.val 22)
  | .vmvsx d a m tk => some (put (put (put (put 0x58000008 d.val 17) a.val 12) m.val 4) tk.val 22)
  | .vrev d a m tk => some (put (put (put (put 0x58000009 d.val 17) a.val 12) m.val 4) tk.val 22)
  | .vredoFsum d a b m tk => some (put (put (put (put (put 0x5c000000 d.val 17) a.val 12) b.val 7) m.val 4) tk.val 22)
  | .vredoFmax d a b m tk => some (put (put (put (put (put 0x5c000001 d.val 17) a.val 12) b.val 7) m.val 4) tk.val 22)
  | .vredoFmin d a b m tk => some (put (put (put (put (put 0x5c000002 d.val 17) a.val 12) b.val 7) m.val 4) tk.val 22)
  | .vredoBfsum d a b m tk => some (put (put (put (put (put 0x5c000003 d.val 17) a.val 12) b.val 7) m.val 4) tk.val 22)
  | .vredoSum d a b m tk => some (put (put (put (put (put 0x5c000004 d.val 17) a.val 12) b.val 7) m.val 4) tk.val 22)
  | .vredoMax d a b m tk => some (put (put (put (put (put 0x5c000005 d.val 17) a.val 12) b.val 7) m.val 4) tk.val 22)
  | .vredoMin d a b m tk => some (put (put (put (put (put 0x5c000006 d.val 17) a.val 12) b.val 7) m.val 4) tk.val 22)
  | .vredoMinu d a b m tk => some (put (put (put (put (put 0x5c000007 d.val 17) a.val 12) b.val 7) m.val 4) tk.val 22)
  | .vredtFsum d a b m tk => some (put (put (put (put (put 0x5c000008 d.val 17) a.val 12) b.val 7) m.val 4) tk.val 22)
  | .vredtFmax d a b m tk => some (put (put (put (put (put 0x5c000009 d.val 17) a.val 12) b.val 7) m.val 4) tk.val 22)
  | .vredtFmin d a b m tk => some (put (put (put (put (put 0x5c00000a d.val 17) a.val 12) b.val 7) m.val 4) tk.val 22)
  | .vredtBfsum d a b m tk => some (put (put (put (put (put 0x5c00000b d.val 17) a.val 12) b.val 7) m.val 4) tk.val 22)
  | .vredtSum d a b m tk => some (put (put (put (put (put 0x5c00000c d.val 17) a.val 12) b.val 7) m.val 4) tk.val 22)
  | .vredtMax d a b m tk => some (put (put (put (put (put 0x5c00000d d.val 17) a.val 12) b.val 7) m.val 4) tk.val 22)
  | .vredtMin d a b m tk => some (put (put (put (put (put 0x5c00000e d.val 17) a.val 12) b.val 7) m.val 4) tk.val 22)
  | .vredtMaxu d a b m tk => some (put (put (put (put (put 0x5c00000f d.val 17) a.val 12) b.val 7) m.val 4) tk.val 22)
  | .vsortu d a tk => some (put (put (put 0x60000000 d.val 17) a.val 12) tk.val 22)
  | .vsorts d a tk => some (put (put (put 0x60000001 d.val 17) a.val 12) tk.val 22)
  | .vsortf d a tk => some (put (put (put 0x60000002 d.val 17) a.val 12) tk.val 22)
  | .vsortkvu d a tk => some (put (put (put 0x60000003 d.val 17) a.val 12) tk.val 22)
  | .vsortkvs d a tk => some (put (put (put 0x60000004 d.val 17) a.val 12) tk.val 22)
  | .vsortkvf d a tk => some (put (put (put 0x60000005 d.val 17) a.val 12) tk.val 22)
  | .vmergeu d a b tk => some (put (put (put (put 0x60000006 d.val 17) a.val 12) b.val 7) tk.val 22)
  | .vmerges d a b tk => some (put (put (put (put 0x60000007 d.val 17) a.val 12) b.val 7) tk.val 22)
  | .vmergef d a b tk => some (put (put (put (put 0x60000008 d.val 17) a.val 12) b.val 7) tk.val 22)
  | .vtag d a b m tk => some (put (put (put (put (put 0x60000009 d.val 17) a.val 12) b.val 7) m.val 4) tk.val 22)
  | .vsegm d a tk => some (put (put (put 0x6000000a d.val 17) a.val 12) tk.val 22)
  | .vsetvl d a => some (put (put 0x64000000 d.val 19) a.val 14)
  | .vcfg d a b => some (put (put (put 0x64000001 d.val 19) a.val 14) b.val 9)
  | .vbr k off => some (put (put 0x68000000 k.val 18) off.toNat 0)
  | .vjoin off => some (put 0x68800000 off.toNat 0)
  | .vloop a k off => some (put (put (put 0x69000000 a.val 18) k.val 13) off.toNat 0)
  | .vldc d a m tk => some (put (put (put (put 0x6c000000 d.val 17) a.val 12) m.val 4) tk.val 22)
  | .vldcs d a b m tk => some (put (put (put (put (put 0x6c000001 d.val 17) a.val 12) b.val 7) m.val 4) tk.val 22)
  | .vldcx d a b m tk => some (put (put (put (put (put 0x6c000002 d.val 17) a.val 12) b.val 7) m.val 4) tk.val 22)
  | .vstc d a m tk => some (put (put (put (put 0x6c000003 d.val 17) a.val 12) m.val 4) tk.val 22)
  | .vstcs d a b m tk => some (put (put (put (put (put 0x6c000004 d.val 17) a.val 12) b.val 7) m.val 4) tk.val 22)
  | .vstcx d a b m tk => some (put (put (put (put (put 0x6c000005 d.val 17) a.val 12) b.val 7) m.val 4) tk.val 22)
  | .vstp d a m tk => some (put (put (put (put 0x6c000008 d.val 17) a.val 12) m.val 4) tk.val 22)
  | .vstpb d a b m tk => some (put (put (put (put (put 0x6c000009 d.val 17) a.val 12) b.val 7) m.val 4) tk.val 22)
  | .vtrdr d a b m => some (put (put (put (put 0x71000000 d.val 19) a.val 14) b.val 9) m.val 6)
  | .vtrdc d a b m => some (put (put (put (put 0x71000001 d.val 19) a.val 14) b.val 9) m.val 6)
  | .vtrdrz d a b m => some (put (put (put (put 0x71000002 d.val 19) a.val 14) b.val 9) m.val 6)
  | .vtrdcz d a b m => some (put (put (put (put 0x71000003 d.val 19) a.val 14) b.val 9) m.val 6)
  | .vtwrr d a b m => some (put (put (put (put 0x71000004 d.val 19) a.val 14) b.val 9) m.val 6)
  | .vtwrc d a b m => some (put (put (put (put 0x71000005 d.val 19) a.val 14) b.val 9) m.val 6)
  | .rmk d a b => some (put (put (put 0x80000000 d.val 19) a.val 14) b.val 9)
  | .rseal d a => some (put (put 0x80000001 d.val 19) a.val 14)
  | .rrel d a => some (put (put 0x80000002 d.val 19) a.val 14)
  | .rmark d a => some (put (put 0x80000003 d.val 19) a.val 14)
  | .rhdr d a => some (put (put 0x80000004 d.val 19) a.val 14)
  | .rview d a b => some (put (put (put 0x80000005 d.val 19) a.val 14) b.val 9)
  | .pbind d a b => some (put (put (put 0x84000000 d.val 19) a.val 14) b.val 9)
  | .punbind d a => some (put (put 0x84000001 d.val 19) a.val 14)
  | .pseal d a => some (put (put 0x84000002 d.val 19) a.val 14)
  | .pseek d a b => some (put (put (put 0x84000003 d.val 19) a.val 14) b.val 9)
  | .ppos d a => some (put (put 0x84000004 d.val 19) a.val 14)
  | .pstat d a => some (put (put 0x84000005 d.val 19) a.val 14)
  | .phnd d a => some (put (put 0x84000006 d.val 19) a.val 14)
  | .vprd d a m tk => some (put (put (put (put 0x88000000 d.val 17) a.val 12) m.val 4) tk.val 22)
  | .vprdff d a m tk => some (put (put (put (put 0x88000001 d.val 17) a.val 12) m.val 4) tk.val 22)
  | .vpwr d a m tk => some (put (put (put (put 0x88000002 d.val 17) a.val 12) m.val 4) tk.val 22)
  | .vppeek d a m tk => some (put (put (put (put 0x88000003 d.val 17) a.val 12) m.val 4) tk.val 22)
  | .vprdnF d a b tk => some (put (put (put (put 0x88000004 d.val 17) a.val 12) b.val 7) tk.val 22)
  | .vprdnBf d a b tk => some (put (put (put (put 0x88000005 d.val 17) a.val 12) b.val 7) tk.val 22)
  | .vprdnffF d a b tk => some (put (put (put (put 0x88000006 d.val 17) a.val 12) b.val 7) tk.val 22)
  | .vprdnffBf d a b tk => some (put (put (put (put 0x88000007 d.val 17) a.val 12) b.val 7) tk.val 22)
  | .vprdnC d a tk => some (put (put (put 0x88000008 d.val 17) a.val 12) tk.val 22)
  | .vprdnffC d a tk => some (put (put (put 0x88000009 d.val 17) a.val 12) tk.val 22)
  | .vpwrnF d a b tk => some (put (put (put (put 0x8800000a d.val 17) a.val 12) b.val 7) tk.val 22)
  | .vpwrnBf d a b tk => some (put (put (put (put 0x8800000b d.val 17) a.val 12) b.val 7) tk.val 22)
  | .vpwrnC d a tk => some (put (put (put 0x8800000c d.val 17) a.val 12) tk.val 22)
  | .bld d a oc tk => some (put (put (put (put 0x8c000000 d.val 13) a.val 8) oc.val 18) tk.val 22)
  | .bst d a oc => some (put (put (put 0x8c000001 d.val 13) a.val 8) oc.val 18)
  | .bstk d a oc tk => some (put (put (put (put 0x8c000002 d.val 13) a.val 8) oc.val 18) tk.val 22)
  | .vbld d a oc tk => some (put (put (put (put 0x8c000003 d.val 13) a.val 8) oc.val 18) tk.val 22)
  | .vbst d a oc tk => some (put (put (put (put 0x8c000004 d.val 13) a.val 8) oc.val 18) tk.val 22)
  | .bldsc d a tk => some (put (put (put 0x8c3c0005 d.val 13) a.val 8) tk.val 22)
  | .bstsc d a tk => some (put (put (put 0x8c3c0006 d.val 13) a.val 8) tk.val 22)
  | .aadd d a b oc tk => some (put (put (put (put (put 0x90000000 d.val 13) a.val 8) b.val 3) oc.val 18) tk.val 22)
  | .amax d a b oc tk => some (put (put (put (put (put 0x90000001 d.val 13) a.val 8) b.val 3) oc.val 18) tk.val 22)
  | .amin d a b oc tk => some (put (put (put (put (put 0x90000002 d.val 13) a.val 8) b.val 3) oc.val 18) tk.val 22)
  | .aswp d a b oc tk => some (put (put (put (put (put 0x90000003 d.val 13) a.val 8) b.val 3) oc.val 18) tk.val 22)
  | .acas d a b oc tk => some (put (put (put (put (put 0x90000004 d.val 13) a.val 8) b.val 3) oc.val 18) tk.val 22)
  | .amaxe d a b oc tk => some (put (put (put (put (put 0x90000005 d.val 13) a.val 8) b.val 3) oc.val 18) tk.val 22)
  | .amine d a b oc tk => some (put (put (put (put (put 0x90000006 d.val 13) a.val 8) b.val 3) oc.val 18) tk.val 22)
  | .vamaxe d a b oc tk => some (put (put (put (put (put 0x90000007 d.val 13) a.val 8) b.val 3) oc.val 18) tk.val 22)
  | .fenc a => some (put 0x94000000 a.val 8)
  | .vwait d a b oc tk => some (put (put (put (put (put 0x94000001 d.val 13) a.val 8) b.val 3) oc.val 18) tk.val 22)
  | .cprr d a b tk => some (put (put (put (put 0xa0000000 d.val 17) a.val 12) (b.val + 1) 9) tk.val 22)
  | .cprc d a b tk => some (put (put (put (put 0xa0000001 d.val 17) a.val 12) (b.val + 1) 9) tk.val 22)
  | .cprp d a b tk => some (put (put (put (put 0xa0000002 d.val 17) a.val 12) (b.val + 1) 9) tk.val 22)
  | .cpmark d a tk => some (put (put (put 0xa0000003 d.val 17) a.val 12) tk.val 22)
  | .cpseq d a tk => some (put (put (put 0xa0000004 d.val 17) a.val 12) tk.val 22)
  | .cpstat d a b tk => some (put (put (put (put 0xa0000005 d.val 17) a.val 12) b.val 7) tk.val 22)
  | .cpretry d a tk => some (put (put (put 0xa0000006 d.val 17) a.val 12) tk.val 22)
  | .cpabort d a tk => some (put (put (put 0xa0000007 d.val 17) a.val 12) tk.val 22)
  | .ssort d a b tk => some (put (put (put (put 0xa4000000 d.val 17) a.val 12) b.val 7) tk.val 22)
  | .smerge d a b tk => some (put (put (put (put 0xa4000001 d.val 17) a.val 12) b.val 7) tk.val 22)
  | .sjoin d a b tk => some (put (put (put (put 0xa4000002 d.val 17) a.val 12) b.val 7) tk.val 22)
  | .stag d a b tk => some (put (put (put (put 0xa4000003 d.val 17) a.val 12) b.val 7) tk.val 22)
  | .sprog d a b tk => some (put (put (put (put 0xa4000004 d.val 17) a.val 12) b.val 7) tk.val 22)
  | .sabort d a tk => some (put (put (put 0xa4000005 d.val 17) a.val 12) tk.val 22)
  | .mcfg d a b => some (put (put (put 0xb0000000 d.val 19) a.val 14) b.val 9)
  | .msetl d a b => some (put (put (put 0xb0000001 d.val 19) a.val 14) b.val 9)
  | .men d a => some (put (put 0xb0000002 d.val 19) a.val 14)
  | .mdis d a => some (put (put 0xb0000003 d.val 19) a.val 14)
  | .mma d a b tk => some (put (put (put (put 0xb4000000 d.val 17) a.val 12) b.val 7) tk.val 22)
  | .mmaz d a b tk => some (put (put (put (put 0xb4000001 d.val 17) a.val 12) b.val 7) tk.val 22)
  | .mzero d tk => some (put (put 0xb4000002 d.val 17) tk.val 22)
  | .tspawn d a => some (put (put 0xc0000000 d.val 18) a.val 13)
  | .tretire => some 0xc0000001
  | .tscope d => some (put 0xc0000002 d.val 18)
  | .titer d => some (put 0xc0000003 d.val 18)
  | .sopen d a => some (put (put 0xc4000000 d.val 18) a.val 13)
  | .scancel d a => some (put (put 0xc4000001 d.val 18) a.val 13)
  | .swait d a b => some (put (put (put 0xc4000002 d.val 18) a.val 13) b.val 8)
  | .sclose d a => some (put (put 0xc4000003 d.val 18) a.val 13)
  | .sread d a b => some (put (put (put 0xc4000004 d.val 18) a.val 13) b.val 8)
  | .sself d => some (put 0xc4000005 d.val 18)
  | .grbeg d a b => some (put (put (put 0xc8000000 d.val 17) a.val 12) b.val 7)
  | .gadd d a b => some (put (put (put 0xc8000001 d.val 17) a.val 12) b.val 7)
  | .gdep d a b => some (put (put (put 0xc8000002 d.val 17) a.val 12) b.val 7)
  | .grend d a => some (put (put 0xc8000003 d.val 17) a.val 12)
  | .grplay d a b tk => some (put (put (put (put 0xc8000004 d.val 17) a.val 12) b.val 7) tk.val 22)
  | .gfree d a => some (put (put 0xc8000005 d.val 17) a.val 12)
  | .bjoin l d a => some (put (put (put 0xcc000000 l.code 23) d.val 18) a.val 13)
  | .bwait l d a b => some (put (put (put (put 0xcc000001 l.code 23) d.val 18) a.val 13) b.val 8)
  | .bleave l d a => some (put (put (put 0xcc000002 l.code 23) d.val 18) a.val 13)
  | .scall => some 0xe0000000
  | .brk => some 0xe0000001
  | .sret a => some (put 0xe0000010 a.val 14)
  | .svec d a => some (put (put 0xe0000011 d.val 19) a.val 14)
  | .swatch d a => some (put (put 0xe0000012 d.val 19) a.val 14)
  | .subr d a => some (put (put 0xe0000013 d.val 19) a.val 14)
  | .subw d a b => some (put (put (put 0xe0000014 d.val 19) a.val 14) b.val 9)
  | .ctxsave d a => some (put (put 0xe0000015 d.val 19) a.val 14)
  | .ctxrest d a => some (put (put 0xe0000016 d.val 19) a.val 14)
  | .ctxdrop d a => some (put (put 0xe0000017 d.val 19) a.val 14)
  | .spool d a b => some (put (put (put 0xe0000018 d.val 19) a.val 14) b.val 9)
  | .sring d a b => some (put (put (put 0xe0000019 d.val 19) a.val 14) b.val 9)
  | .xrng d a b => some (put (put (put 0xe4000000 d.val 19) a.val 14) b.val 9)
  | .xrrd d a b => some (put (put (put 0xe4000001 d.val 19) a.val 14) b.val 9)
  | .xctx d a b => some (put (put (put 0xe4000002 d.val 19) a.val 14) b.val 9)
  | .xinv d a b => some (put (put (put 0xe4000003 d.val 19) a.val 14) b.val 9)
  | .xpois d a b => some (put (put (put 0xe4000004 d.val 19) a.val 14) b.val 9)
  | .lrecl d a => some (put (put 0xe8000000 d.val 19) a.val 14)
  | .lgive d a => some (put (put 0xe8000001 d.val 19) a.val 14)
  | .lspare d a => some (put (put 0xe8000002 d.val 19) a.val 14)
  | .lmir d a => some (put (put 0xe8000003 d.val 19) a.val 14)
  | .lstat d a => some (put (put 0xe8000004 d.val 19) a.val 14)
  | .cform d a b => some (put (put (put 0xee800000 d.val 18) a.val 13) b.val 8)
  | .callr d a => some (put (put 0xee800001 d.val 18) a.val 13)
  | .cabort d a => some (put (put 0xee800002 d.val 18) a.val 13)
  | .cid d => some (put 0xee800003 d.val 18)
  | .lkstat d a => some (put (put 0xee800004 d.val 18) a.val 13)
  | .fixedLatencyWriteback => none
  | .codeLineFill => none
  | .dividerCompletion => none
  | .vectorEntryStart => none
  | .sharedUnitCycle _ => none
  | .vectorPostingCompletion _ => none
  | .portReadResume => none
  | .beaconAccessCompletion _ => none
  | .atomicCompletion _ => none
  | .vwaitReread => none
  | .vwaitTimeout => none
  | .sorterPassStart => none
  | .sorterChunk => none
  | .copyStart _ => none
  | .copyChunk _ _ => none
  | .matrixOpHead => none
  | .matrixOpRead => none
  | .matrixOpCompletion => none
  | .trapEntry _ _ => none
  | .engineFaultDelivery => none
  | .killPoint => none
  | .cancelAcknowledgement _ => none
  | .bwaitTimeout => none
  | .swaitTimeout => none
  | .plotterCycle => none
  | .recordPromotion _ _ => none
  | .spillReturn => none
  | .prefetchParameterBlock _ => none
  | .prebind _ => none
  | .taskStart => none
  | .graphNodeSpawn _ _ => none
  | .fullSave => none
  | .contextRestore _ => none
  | .elementGroupReplay _ _ _ => none
  | .eccWriteback _ => none
  | .capabilityFence _ => none
  | .sounding => none
  | .soundingDrainTimeout => none
  | .scanTest _ _ => none
  | .stealRequest _ => none
  | .lend _ => none
  | .stealEnter => none
  | .stealAcknowledgement => none
  | .lendReclaim => none
  | .linkFlitRetry _ => none
  | .chunkRefetch _ => none
  | .linkLost _ => none
  | .dieReset _ => none
  | .packageLost _ => none
  | .hello _ _ _ => none
  | .cformTimeout _ => none
  | .ringStep _ => none
  | .collectiveTimeout _ => none
  | .abortFlood _ _ => none
  | .coreReset => none
  | .hostLoadImage _ _ _ _ _ => none
  | .hostCreateRun _ _ _ => none
  | .hostReadRun _ => none
  | .hostStart _ _ => none
  | .startReport _ => none
  | .attestationReport _ => none
  | .imageVerify _ _ => none
  | .coldStart => none
  | .heatingComplete => none
  | .lpddrTraining => none
  | .clockStretch _ => none
  | .channelRetrain _ => none
  | .environmentLimit _ => none
  | .linkRetrain _ => none
  | .capabilityTableWrite _ _ _ => none
  | .soundingIntervalSet _ => none
  | .keyPairLoad _ _ _ => none
  | .diePowerGating _ => none

/-- The word of an instruction. -/
def encode (i : Instr) : Option (BitVec 32) := (encodeNat i).map (BitVec.ofNat 32)

/-- The four bytes of a word, lowest address first (R32). -/
def wordBytes (w : Nat) : List Nat := [fld w 0 8, fld w 8 8, fld w 16 8, fld w 24 8]

/-- The word whose four bytes lie in this order (R32). -/
def wordOfBytes : List Nat → Nat
  | [a, b, c, d] => a % 256 + b % 256 * 2 ^ 8 + c % 256 * 2 ^ 16 + d % 256 * 2 ^ 24
  | _ => 0

/-- The instruction the decoder reads from the table's word; every F900 word has 32 bits. -/
noncomputable def decodeTableWord (_nbits w : Nat) : Option Instr := decodeNat (wordOfBytes (wordBytes w))

end Sys2Proof
end

