-- ==== Sys2Proof/Config.lean ====
section
/-! DEFINITION. What one implementation fixes and the spec leaves open: free values, as constants with no body
(DESIGN CHOICE, log entry 1), and the sizes the spec gives. -/
namespace Sys2Proof.Config

/-- A free value: one bit, applied to a counter of State; nothing constrains it (DESIGN CHOICE, log entry 1). -/
opaque freeBit : Nat → Bool

/-- A free value: 64 bits, applied to a counter of State; nothing constrains it (DESIGN CHOICE, log entry 1). -/
opaque freeWord : Nat → Word

/-- A free choice among n things, applied to a counter of State; the user takes it modulo n (DESIGN CHOICE, log entry 1). -/
opaque freeChoice : Nat → Nat

/-- A free value: what the device's own key makes of the words of an attestation report, a signature of 3,309 bytes (R339); nothing
constrains it (DESIGN CHOICE, log entry 93). -/
opaque sign : List Word → BitVec 26472

/-- Bytes in the Chart of an ordinary core (R13). -/
def chartBytes : Nat := 0x60000
/-- Bytes in the Chart of a helm core (R243). -/
def helmChartBytes : Nat := 0x10000
/-- Bytes of the plane store of a quad, and of one of its four stages (R152). -/
def planeBytes : Nat := 0x200000
def stageBytes : Nat := 0x80000
/-- Posting operations a hart may have outstanding (R18). -/
def maxPosts : Nat := 64
/-- Entries of a hart's vector queue (R107). -/
def queueEntries : Nat := 32
/-- Entries of the pending-fragment buffer (R112). -/
def fragEntries : Nat := 4

end Sys2Proof.Config
end

