-- ==== Sys2Proof/Machine/State.lean ====
section
/-! DEFINITION. The state of the F900 as plain data: the harts, cores, quads and dies of one package, its memory and
links, and Vexud. One hart with its core, quad and die is in focus; the others lie in sparse lists. -/
namespace Sys2Proof.Machine

/-- Where a hart lies: die, quad, core (4 is the helm core of the quad, R243) and HID (R95). -/
structure HartId where
  die : Nat
  quad : Nat
  core : Nat
  hid : Nat
deriving DecidableEq, Repr

/-- Rounding modes in the coding of FCR.RM (R10). -/
inductive Rm where
  | rne | rtz | rdn | rup
deriving DecidableEq, Repr

/-- Flags in the bit order of XST: NV 4, DZ 3, OF 2, UF 1, NX 0 (R11). -/
abbrev FFlags := BitVec 5

/-! ### Memory -/

/-- Byte-addressed storage as a list of cells: addresses strictly rising, no cell equal to what an unlisted address
reads as (`Mem.unlisted`, DESIGN CHOICE, log entry 2). -/
structure Mem where
  cells : List Host.Cell
deriving DecidableEq, Repr

/-! ### A hart -/

/-- HST (R9), field by field. -/
structure Hst where
  prio : Fin 8
  helm : Bool
  recl : Bool
  prot : Bool
  rchk : Bool
  mode : Bool
  split : Fin 4
  hid : Fin 8
deriving DecidableEq, Repr

/-- A completion token: its counter and the posting operations outstanding on it (R8, R22). -/
structure Token where
  cnt : BitVec 32
  out : Nat
deriving DecidableEq, Repr

/-- What a fixed-latency result writes (R19): a scalar register of a bank, a control register (R92), MXC or MDIM of the
quad (R248), or nothing but flags (R89). -/
inductive Dest where
  | sreg (sup : Bool) (r : SReg)
  | creg (c : CReg)
  | mxc | mdim
  | none
deriving DecidableEq, Repr

/-- A result in flight: what it writes, the slot from which it is readable, its flags (R19, R89). -/
structure Infl where
  dest : Dest
  val : Word
  ready : Nat
  flags : FFlags
deriving DecidableEq, Repr

/-- A scalar Chart store that has issued and not performed (R198): its number in program order, address, size and value, and the
slot in which it performs. -/
structure ChartStore where
  id : Nat
  addr : Nat
  size : Nat
  val : Nat
  due : Nat
deriving DecidableEq, Repr

/-- A scalar Chart load that has issued and not performed (R198): its number in program order, address, size, whether it extends the
sign, the register of a bank that it loads, and the slot by which it performs and from which that is readable. -/
structure ChartLoad where
  id : Nat
  addr : Nat
  size : Nat
  signed : Bool
  sup : Bool
  d : SReg
  due : Nat
deriving DecidableEq, Repr

/-- Bits of one vector or mask register written and not yet readable (R108): register, bit range [lo, lo + len) of each
lane's slice, the register's old bits, and the beat from which the new ones are readable. -/
structure VPend where
  mask : Bool
  reg : Nat
  lo : Nat
  len : Nat
  old : VBits
  ready : Nat
deriving DecidableEq, Repr

/-- Flags of a fixed-latency vector entry that have still to merge (R111): the entry's number, the slot of the merge, the flags, and
for each the lowest element that raised it plus one, or 0. -/
structure Merge where
  id : Nat
  due : Nat
  flags : FFlags
  lows : List Nat
deriving DecidableEq, Repr

/-- A completion still to be made, once every older vector entry has merged (R111): the operation's number, its bank and its token, and
the value for its scalar destination if it has still to write that (R22, R355). -/
structure Late where
  id : Nat
  sup : Bool
  tok : Tok
  val : Option Word
deriving DecidableEq, Repr

/-- A part of a register that races, bits [lo, lo + len) of each lane's slice, and the width of the elements that are old or new as
a whole (R108). -/
structure RaceSpan where
  reg : Nat
  lo : Nat
  len : Nat
  w : Nat
deriving DecidableEq, Repr

/-- Registers a posting operation holds until it completes (R109, R136), with the width of their elements: its destinations are
pending for readers and writers, its sources for writers only. `raced` says where an unchecked racing write meets a destination, and
`old` keeps what the sources held before an unchecked racing write. -/
structure VHold where
  id : Nat
  mask : Bool
  reg : Nat
  num : Nat
  w : Nat
  dest : Bool
  raced : List RaceSpan
  old : List VBits
deriving DecidableEq, Repr

/-- An entry of the pending-fragment buffer (R112). -/
structure Frag where
  mask : MBits
  resume : Word
  restore : MBits
  waiting : Bool
deriving DecidableEq, Repr

/-- A translation kept by a port, a channel or a Sorter operand (R169): the DVA span it covers, what is added to reach
the physical address, its permissions and key, the physical frame whose poison bit was checked last (R171), and the context number
under which it was made. -/
structure Tr where
  lo : Nat
  hi : Nat
  off : Nat
  r : Bool
  w : Bool
  x : Bool
  u : Bool
  enc : Bool
  key : Nat
  frame : Option Nat
  ctx : Nat
deriving DecidableEq, Repr

/-- A run port (R178 to R180). The direction is bit 3 of the layout word. -/
structure PortSt where
  bound : Bool
  handle : Word
  layout : Word
  pos : Nat
  atEnd : Bool
  broken : Bool
  last : Nat
  tr : Option Tr
deriving DecidableEq, Repr

inductive FFmt where
  | f32 | bf16
deriving DecidableEq, Repr

/-- The functions of VIN (R123). -/
inductive VinFn where
  | add | sub | rsub | and | or | xor | sll | srl | sra | mv
  | mul | mulh | mulhu | mulhsu | macc
  | min | max | minu | maxu | sadd | saddu | ssub | ssubu
  | wadd | waddu | wsub | wsubu | wmul | wmulu | nsra | nclip
deriving DecidableEq, Repr

/-- The two-operand functions of VFA that exist in FP32 and BF16 (R124). -/
inductive VfaFn where
  | add | sub | rsub | mul | min | max | sgnj | sgnjn | sgnjx
deriving DecidableEq, Repr

/-- The widening functions of VFA (R125); the last two take an FP32 A operand. -/
inductive VfwFn where
  | add | sub | mul | addw | subw
deriving DecidableEq, Repr

/-- The functions of VFM (R126). -/
inductive VfmFn where
  | macc | nmacc | msac | nmsac | madd
deriving DecidableEq, Repr

/-- The three columns of R126. -/
inductive VfmKind where
  | f32 | bf16 | wide
deriving DecidableEq, Repr

/-- The functions of VCV (R127). -/
inductive VcvFn where
  | xF | xuF | rtzXF | rtzXuF | fX | fXu | xBf | bfX | wFBf | wXF | wFX | nBfF | nXF | nXuF | nFX
  | sext2 | zext2 | sext4 | zext4 | sext8 | zext8
deriving DecidableEq, Repr

/-- The relations of the integer compares (R128). -/
inductive IRel where
  | eq | ne | lt | ltu | le | leu | gt | gtu
deriving DecidableEq, Repr

/-- The relations of the FP compares (R128). -/
inductive FRel where
  | eq | ne | lt | le | gt | ge
deriving DecidableEq, Repr

/-- The mask functions of two masks (R134). -/
inductive MaskFn where
  | and | or | xor | andn | orn | nand | nor | xnor
deriving DecidableEq, Repr

/-- The mask functions of one mask (R134). -/
inductive MaskFn1 where
  | sbf | sif | sof
deriving DecidableEq, Repr

/-- What a reduction combines (R129). -/
inductive RedFn where
  | fsum | fmax | fmin | bfsum | sum | max | min | minu | maxu
deriving DecidableEq, Repr

/-- Key orders (R140). -/
inductive KOrd where
  | u | s | f
deriving DecidableEq, Repr

/-- The scalar-operand permutes (R137). -/
inductive VslideFn where
  | gatherx | up | down | up1 | down1
deriving DecidableEq, Repr

/-- How a vector Chart access forms its addresses (R144). -/
inductive VcmMode where
  | unit | stride (b : SReg) | index (b : VReg)
deriving DecidableEq, Repr

/-- The tile-slice moves (R148). -/
inductive VtsFn where
  | rdr | rdc | rdrz | rdcz | wrr | wrc
deriving DecidableEq, Repr

/-- The port transfers (R181). -/
inductive VptFn where
  | rd | rdff | wr | peek
  | rdnF | rdnBf | rdnffF | rdnffBf | rdnC | rdnffC
  | wrnF | wrnBf | wrnC
deriving DecidableEq, Repr

/-- The atomics (R192). -/
inductive AtmFn where
  | add | max | min | swp | cas | maxe | mine
deriving DecidableEq, Repr

/-- The list commands of the Sorter (R214). -/
inductive SrtFn where
  | sort | merge | join | tag
deriving DecidableEq, Repr

/-- The copy commands (R231). -/
inductive CpyFn where
  | rr | rc | rp
deriving DecidableEq, Repr

/-- The control functions of a channel (R237). -/
inductive CpcFn where
  | mark | seq | stat | retry | abort
deriving DecidableEq, Repr

/-- What an entry of the vector queue does (R107). Register operands as in the word; scalar operands are captured beside
it at issue (R102). -/
inductive VOp where
  | idle (n : Nat)
  | vin (f : VinFn) (d a : VReg) (b : VSrc) (m : MSel)
  | vfa (f : VfaFn) (fmt : FFmt) (d a : VReg) (b : VSrc) (m : MSel)
  | vfclass (fmt : FFmt) (d a : VReg) (m : MSel)
  | vfw (f : VfwFn) (d a : VReg) (b : VSrc) (m : MSel)
  | vfm (f : VfmFn) (k : VfmKind) (d a : VReg) (b : VSrc) (m : MSel)
  | vcv (f : VcvFn) (d a : VReg) (m : MSel)
  | vcpi (r : IRel) (d : MReg) (a : VReg) (b : VSrc) (m : MSel)
  | vcpf (r : FRel) (fmt : FFmt) (d : MReg) (a : VReg) (b : VSrc) (m : MSel)
  | vmk2 (f : MaskFn) (d a b : MReg) (m : MSel)
  | vmk1 (f : MaskFn1) (d a : MReg) (m : MSel)
  | viota (d : VReg) (a : MReg) (m : MSel)
  | vid (d : VReg) (m : MSel)
  | vmpopc (d : VReg) (a : MReg) (m : MSel)
  | vmfirst (d : VReg) (a : MReg) (m : MSel)
  | vts (f : VtsFn) (d : VReg) (a : Tile) (m : MSel)
  | vbr (k : MReg) (off : BitVec 13)
  | vjoin (off : BitVec 13)
  | vloop (a : VReg) (k : MReg) (off : BitVec 13)
  | vgather (d a b : VReg) (m : MSel)
  | vslide (f : VslideFn) (d a : VReg) (m : MSel)
  | vcompress (d a : VReg) (b : MReg)
  | vmvxs (d : SReg) (a : VReg)
  | vmvsx (d : VReg) (m : MSel)
  | vrev (d a : VReg) (m : MSel)
  | vred (tree : Bool) (f : RedFn) (d : SReg) (a : VReg) (m : MSel)
  | vsort (o : KOrd) (d a : VReg)
  | vsortkv (o : KOrd) (d a : VReg)
  | vmerge (o : KOrd) (d a : VReg)
  | vtag (d a : VReg) (m : MSel)
  | vsegm (d : MReg) (a : VReg)
  | vld (md : VcmMode) (d : VReg) (m : MSel)
  | vst (md : VcmMode) (d : VReg) (m : MSel)
  | vstp (bfp : Bool) (d : VReg) (m : MSel)
  | vpt (f : VptFn) (d : VReg) (p : Port) (b : VReg) (m : MSel)
  | vbld (sc : Bool) (d a : VReg) (oc : OClass)
  | vbst (sc : Bool) (d a : VReg) (oc : OClass)
  | vamaxe (d a b : VReg) (oc : OClass)
  | vwait (d : MReg) (a : VReg) (oc : OClass)
  | copy (f : CpyFn) (ch : Chan) (a : VReg)
  | cpctl (f : CpcFn) (d : SReg) (ch : Chan)
  | srt (f : SrtFn) (d : SReg) (a : VReg)
  | sprog (d : SReg)
  | sabort (d : SReg)
deriving DecidableEq, Repr

/-- An entry of the vector queue with its word and what it captured at issue (R102, R302); `fm` is the fragment mask at its
start (R103, R110). -/
structure VEntry where
  id : Nat
  op : VOp
  word : BitVec 32
  addr : Word
  vl : Nat
  vcfg : BitVec 9
  cap : Nat
  rm : Rm
  sv : List Word
  tok : Option Tok
  sup : Bool
  slot : Nat
  dones : List Nat
  fm : MBits
deriving DecidableEq, Repr

/-- A memory access of a beacon instruction: element index, physical address, operand, comparand (R188, R192). -/
structure BElem where
  idx : Nat
  pa : Nat
  val : Word
  cmp : Word
deriving DecidableEq, Repr

/-- What an issued beacon access does (R189, R192, R194). -/
inductive BKind where
  | load (d : SReg)
  | store
  | atomic (f : AtmFn) (d : SReg)
  | vload (d : VReg)
  | vstore
  | vatomic (d : VReg)
  | vwait
  | fence (sel : BitVec 18)
deriving DecidableEq, Repr

/-- A beacon access issued and not yet performed, in program order (R190); `started` is false for a vector access still
in the queue. -/
structure BOp where
  id : Nat
  kind : BKind
  addr : Word
  tok : Option Tok
  sup : Bool
  oc : OClass
  ticketed : Bool
  started : Bool
  ent : Option VEntry
  elems : List BElem
  got : List (Nat × Word)
deriving DecidableEq, Repr

/-- A pending engine fault of a context: the command's place in issue order, its address and the TRCAUSE its trap carries
(R296, R302). -/
structure EngFault where
  seq : Nat
  addr : Word
  cause : Word
deriving DecidableEq, Repr

/-- The graph node that a task belongs to: the die and address of the graph, the node, and the replay that spawned the task, 0 where
an area alone names it (R275, R302). -/
structure GraphRef where
  die : Nat
  area : Word
  node : Nat
  replay : Nat
deriving DecidableEq, Repr

/-- The identity of a user context (R302): what its record and its supervisor gave it. `id` is the model's own number
for the context, by which engines name it; `block` is where in the Chart its parameter block lies, with its bytes (R263). -/
structure Ctx where
  id : Nat
  use : BitVec 64
  scope : Word
  iter : Nat
  tctx : Nat
  root : Nat
  cwLen : Nat
  cwBase : Nat
  graph : Option GraphRef
  block : Nat × Nat
  age : Nat
  faults : List EngFault
  lostFaults : Nat
  lost : Bool
deriving DecidableEq, Repr

/-- Why the front holds issue over several slots: since and limit are cycles of the hart (R5); a `tkw` keeps the threshold it
read at its issue (R93). -/
inductive Hold where
  | none
  | tkw (t : Tok) (thr : BitVec 32)
  | bwait (lvl : BarLevel) (ch : Nat) (d : SReg) (since limit : Nat)
  | swait (h : Word) (d : SReg) (since limit : Nat)
  | coll (d : SReg) (since limit : Nat)
deriving DecidableEq, Repr

/-- A hart (R8, R3, R96, R107, R112, R284). `slot` counts the issue slots that have passed (R17), `clock` the cycles, freezes
among them (R18); `stores` and `loads` hold its scalar Chart accesses that have not performed, in program order (R15, R198); `asked` says
that the word issued last holds issue until something answers (R355), `leaving` that its lanes go back to another hart at that
hart's next `vsetvl` (R299). -/
structure Hart where
  pc : Word
  s : Vector Word 32
  supS : Vector Word 4
  tk : Vector Token 16
  supTk : Vector Token 16
  fcr : Rm
  xst : FFlags
  xi : Vector Word 5
  hst : Hst
  trpc : Word
  trcause : Word
  trfrom : Word
  trlg : Vector Word 8
  vl : Nat
  vcfg : BitVec 9
  vcap : Nat
  v : Vector VBits 32
  m : Vector MBits 8
  fm : MBits
  frags : List Frag
  ports : Vector PortSt 8
  slot : Nat
  clock : Nat
  infl : List Infl
  stores : List ChartStore
  loads : List ChartLoad
  pendS : List (Bool × SReg × Nat)
  vq : List VEntry
  beat : Nat
  vpend : List VPend
  vholds : List VHold
  bops : List BOp
  merges : List Merge
  late : List Late
  svec : Word
  watch : Word
  lanes : Nat
  lane0 : Nat
  gave : List Nat
  reclPend : Bool
  givePend : Bool
  mirrorPend : Option Bool
  ctx : Option Ctx
  hold : Hold
  held : Bool
  atVector : Bool
  stopped : Bool
  lines : List Nat
  lastTransfer : Option Word
  frozen : Nat
  savePend : Bool
  asked : Bool
  leaving : Bool
deriving DecidableEq, Repr

/-! ### A core -/

/-- A division in the core's divider, its result already formed from the operands (R83). -/
structure DivOp where
  hid : Nat
  sup : Bool
  tok : Tok
  d : SReg
  id : Nat
  val : Word
  flags : FFlags
deriving DecidableEq, Repr

/-- An operation in a shared unit (R116): element groups left, cycles it has been offered without being served, whether
it has passed its last trap point (R291), whether it waits at a run's MARK (R163); for `vwait` the words it watches, those
met, and the slot and the cycle of its start (R195); for a Chart store the elements that have performed (R146). -/
structure UOp where
  hid : Nat
  ent : VEntry
  left : Nat
  waited : Nat
  passed : Bool
  blocked : Bool
  addrs : List BElem
  met : MBits
  start : Nat
  since : Nat
  stored : Nat
deriving DecidableEq, Repr

/-- Who issued an engine command: its place in issue order, the hart, the context it ran, its bank and token, the
command's address and its scope. -/
structure Owner where
  seq : Nat
  hart : HartId
  ctx : Nat
  sup : Bool
  tok : Tok
  addr : Word
  scope : Word
deriving DecidableEq, Repr

/-- The state of a copy command (R235, R237, R240). -/
inductive CpyState where
  | queued | running | suspended | stopped
deriving DecidableEq, Repr

/-- A copy command (R231 to R241); `w` is the record width its chunks are counted in, and `killed` says that a cancel stops it at
its next chunk boundary (R242). -/
structure CopyCmd where
  seq : Nat
  f : CpyFn
  owner : Owner
  dims : List (Nat × Nat)
  n : Nat
  src : Word
  start : Nat
  dst : Word
  stamp : Word
  state : CpyState
  count : Nat
  w : Nat
  killed : Bool
  mark0 : Nat
  posted : Bool
  retry : Option (Owner × SReg)
  tctx : Nat
  root : Nat
  user : Bool
  srcTr : Option Tr
  dstTr : Option Tr
deriving DecidableEq, Repr

/-- A copy channel (R230); `aborts` are the `cpabort`s that wait for its command to reach a chunk boundary (R237). -/
structure Channel where
  seq : BitVec 64
  mark : BitVec 64
  q : List CopyCmd
  ended : List (Nat × Word)
  aborts : List Owner
deriving DecidableEq, Repr

/-- A task in a shadow slot (R263): its record, iteration, and how far it is prepared. -/
structure Shadow where
  words : List Word
  n : Nat
  prio : Nat
  age : Nat
  graph : Option GraphRef
  order : Nat
  copied : Bool
  nextPort : Nat
  ports : Vector PortSt 8
  fault : Option Cause
  tctx : Nat
  root : Nat
  listing : Option Nat
deriving DecidableEq, Repr

/-- A core, or the helm core of a quad. `banks` holds the last scalar Chart access of each hart: its HID, the cycle and the bank
(R13, R16); `unwritten` the words of lost slices not written again, by lane, register (32 and above a mask) and 64-bit word, and
`faulty` the lanes whose slice storage a sounding found at fault (R315). -/
structure Core where
  chart : Mem
  chartPoison : List Nat
  divider : List DivOp
  pipe : List UOp
  net : List UOp
  chans : Vector Channel 4
  spare : Option Nat
  sparePend : Option Nat
  unwritten : List (Nat × Nat × Nat)
  faulty : BitVec 32
  shadow : List Shadow
  banks : List (Nat × Nat × Nat)
deriving DecidableEq, Repr

/-! ### A quad -/

/-- The state of an operation in the matrix array (R253). -/
inductive MopState where
  | queued | head | read
deriving DecidableEq, Repr

/-- The matrix operations (R251). -/
inductive MopFn where
  | mma | mmaz | mzero
deriving DecidableEq, Repr

/-- An operation in the matrix array with what it captured at issue (R248, R253); `counted` says that a cancel has counted the
head in CE (R255). -/
structure Mop where
  f : MopFn
  tile : Tile
  owner : Owner
  afmt : Nat
  bfmt : Nat
  mg : Nat
  ng : Nat
  kg : Nat
  descA : Word
  scaleA : Word
  descB : Word
  scaleB : Word
  state : MopState
  counted : Bool
deriving DecidableEq, Repr

/-- A Sorter pass (R210 to R227): the captured list and control word, whether it runs, positions read (of a join: the probe,
the first table record not below its key, the next one to compare, how many of the table were read, and of the probes), counts,
flags, whether its input goes on, the records `ssort` holds, the group the combine has open, the records it has formed and not
written (to the auxiliary run where marked), the `sabort`s that wait for its chunk boundary, and the kept translations of output,
auxiliary run and inputs. -/
structure Pass where
  f : SrtFn
  owner : Owner
  ctl : Word
  out : Word
  aux : Word
  ins : List Word
  running : Bool
  pos : List Nat
  nRead : Nat
  nOut : Nat
  nAux : Nat
  flags : FFlags
  reading : Bool
  recs : List (List Byte)
  group : List (List Byte)
  formed : List (Bool × List Byte)
  aborts : List Owner
  tctx : Nat
  root : Nat
  user : Bool
  trs : List (Option Tr)
deriving DecidableEq, Repr

/-- An entry of the Sorter's pass table (R224): the pass it shows by its command's place in issue order, and the four
counters under the output handle. -/
structure PassEnt where
  seq : Nat
  handle : Word
  status : Word
  nRead : Nat
  nOut : Nat
  nAux : Nat
  done : Bool
deriving DecidableEq, Repr

/-- A quad: plane store, tiles, matrix state of its helm core, array queue and Sorter (R152, R245, R210). -/
structure Quad where
  plane : Mem
  planePoison : List Nat
  tiles : Mem
  tilePoison : List Nat
  ten : BitVec 8
  mxcV : Bool
  afmt : BitVec 5
  bfmt : BitVec 5
  mg : Nat
  ng : Nat
  kg : Nat
  mops : List Mop
  passes : List Pass
  passTab : List PassEnt
deriving DecidableEq, Repr

/-! ### A die -/

/-- A range entry (R167): its four words. -/
structure Range where
  base : Word
  limit : Word
  off : Word
  attr : Word
deriving DecidableEq, Repr

/-- A record in a Plotter queue (R261, R262, R328): its sixteen words, the iterations handed out and the end of those it
may hand out, its queue, age and time of entry, what is lent of it, and the listing whose start spawned it (R150). -/
structure QRec where
  words : List Word
  next : Nat
  last : Nat
  prio : Nat
  age : Nat
  entered : Nat
  lent : Option (Nat × Nat × Nat)
  borrowed : Bool
  graph : Option GraphRef
  tctx : Nat
  root : Nat
  listing : Option Nat
deriving DecidableEq, Repr

/-- A saved context (R301, R302): where its area lies (the offset in its first 4 KiB page and the physical pages), the
pool slot it takes, whether it waits in a Plotter queue for its restore, its identity, priority, lanes, origin, and the
scalar destinations its posting operations have still to write, and the scalar operands of its queue entries. -/
structure Saved where
  areaOff : Nat
  pages : List Nat
  slot : Option Nat
  queued : Bool
  ctx : Ctx
  prio : Nat
  lanes : Nat
  origin : HartId
  pendS : List (Bool × SReg × Nat)
  sv : List (List Word)
deriving DecidableEq, Repr

/-- A pre-emption pool (R306 `spool`). -/
structure Pool where
  base : Nat
  slots : Nat
  cw : Nat
deriving DecidableEq, Repr

/-- A lent copy on its way to the thief, or waiting for the acknowledgement (R328). -/
structure Lent where
  copy : QRec
  victim : Nat
  thief : Nat
  acked : Bool
deriving DecidableEq, Repr

/-- A die: range entries, Plotter, overflow ring, pools, sounding and clock; `stealing` is the die asked for work, with the mask that
the request carries (R328). -/
structure Die where
  ranges : List (Nat × Range)
  queues : List QRec
  cycles : Nat
  ringBase : Nat
  ringSlots : Nat
  ringHead : Nat
  ring : List QRec
  pool : Option Pool
  helmPool : Option Pool
  poolUser : Nat × Nat
  ringUser : Nat × Nat
  saved : List Saved
  sndInterval : Nat
  sndNext : Nat
  sndAt : Nat
  draining : Option Nat
  drainStart : Nat
  mhz : Nat
  stealing : Option (Nat × BitVec 64)
  gated : Bool
deriving DecidableEq, Repr

/-! ### The package -/

/-- A barrier channel: its level, the unit it belongs to and its number, with its two sets (R272); at pod level also the
packages with members of theirs, and those of them whose members have all arrived (R330). -/
structure Barrier where
  lvl : BarLevel
  unit : List Nat
  ch : Nat
  members : List HartId
  arrived : List HartId
  far : List Nat
  farArrived : List Nat
deriving DecidableEq, Repr

/-- A replay of a graph (R275), running when it is the first of its graph: the model's own number for it, the address of the graph
and the physical address of its header, which names the graph, who started it (Vexud when nobody did), its scope and die, and its
nodes with predecessors left, iterations left, and whether spawned. -/
structure Replay where
  id : Nat
  graph : Word
  area : Nat
  owner : Option Owner
  scope : Word
  die : Nat
  recs : List (List Word)
  preds : List Nat
  iters : List Nat
  spawned : List Bool
  succs : List (List Nat)
  tctx : Nat
  root : Nat
deriving DecidableEq, Repr

/-- The counts the Plotter keeps for an open scope (R265), and whether a cancel named it (R267). -/
structure ScopeCnt where
  handle : Word
  kt : Nat
  kq : Nat
  ke : Nat
  ce : Nat
  ct : Nat
  target : Bool
deriving DecidableEq, Repr

/-- A link's status word, field by field, but for RATIO, which what it carries decides (R327); `flits` and `chunks` count the failed
retries of the flit and the failed fetches of the chunk that failed last (R326). -/
structure Link where
  up : Bool
  lost : Bool
  chunkF : Nat
  retry : Nat
  flits : Nat
  chunks : Nat
deriving DecidableEq, Repr

/-- A formed ring (R334): its record's DVA, generation and members. -/
structure Ring where
  group : Word
  gen : Nat
  members : BitVec 1024
  inUse : Nat
deriving DecidableEq, Repr

/-- A collective or `cform` in progress on a hart (R334, R335). -/
structure Coll where
  hart : HartId
  form : Bool
  d : SReg
  group : Word
  gen : Nat
  members : BitVec 1024
  input : Word
  output : Word
  comb : Nat
  limit : Nat
  since : Nat
  steps : Nat
deriving DecidableEq, Repr

/-- A start (R279, R338): the listing started, if it is one, whether a graph is replayed, and what its report will hold. -/
structure Start where
  id : Nat
  scope : Word
  listing : Option Nat
  replay : Bool
  firstCause : Word
  firstPc : Word
  traps : Nat
  tasks : Nat
  reported : Bool
deriving DecidableEq, Repr

/-- A listing that is loaded (R150, R279): its die, the span of its code, and its Chart image. -/
structure Listing where
  die : Nat
  lo : Nat
  hi : Nat
  chart : List (Nat × Byte)
deriving DecidableEq, Repr

/-- The phases of a start from cold (R340): step 1 lasts while `verifying`, step 2 from then until the dies are warm. -/
inductive Phase where
  | off | verifying | training | nominal
deriving DecidableEq, Repr

/-- What Vexud hands to the host (R338, R339). -/
inductive HostReport where
  | ended (start : Nat) (tasks : Nat)
  | cancelled (start : Nat) (cause pc : Word) (more : Nat) (counts : List Word)
  | runData (h : Word) (records : List (List Byte))
  | imageLoaded (ok : Bool)
  | runCreated (h : Word)
  | runRefused
  | readRefused (h : Word)
  | startRefused
  | routes (ports : List Nat)
  | attestation (part : Nat) (nonce : Word) (pkg : Nat) (measurements : List Word) (caps : List Word) (keys : Nat)
      (signature : BitVec 26472)
  | linkLost (l : Nat)
  | trapRecord (pc cause : Word)
  | bootFailed
deriving DecidableEq, Repr

/-- Vexud, the management kernel (R338 to R343): `failed` says that an image failed its check in boot, `runs` holds the handles of
the runs it made, in order. -/
structure Vexud where
  phase : Phase
  verified : Bool
  failed : Bool
  measurements : List Word
  starts : List Start
  reports : List HostReport
  lostPkgs : List Nat
  retrained : List Nat
  stopped : Bool
  listings : List Listing
  runs : List Word
deriving DecidableEq, Repr

/-- What the dies of a package share; `id` is the package's ID and `routes` the number from which its ways to other packages are drawn
(R340). The poison bitmap lies in `mem` from `poisonAt` on (R171); `bad` holds the units of Hold and
Bulk with an error that their check cannot correct, by first address (R309, R310); `runCtx` the translation context and root
under which each descriptor, by die and index, was made (R174). -/
structure Pkg where
  mem : Mem
  beaconPoison : List Nat
  poisonAt : Nat
  bad : List Nat
  runCtx : List ((Nat × Nat) × (Nat × Nat))
  keys : List (Nat × BitVec 256 × BitVec 256)
  ticket : Nat
  barriers : List Barrier
  replays : List Replay
  scopes : List ScopeCnt
  links : List Link
  boundariesLost : List Nat
  isolated : List Nat
  id : Nat
  routes : Nat
  rings : List Ring
  colls : List Coll
  aborted : List (Nat × Option Nat)
  lends : List Lent
  vexud : Vexud
  nextCtx : Nat
  nextAge : Nat
deriving DecidableEq, Repr

/-- An action of the agenda: the front of a hart issues, the front holds for a slot because an answer has not come (R355), or
an event takes place at it. -/
inductive Action where
  | front (h : HartId)
  | held (h : HartId)
  | event (h : HartId) (e : Instr)
deriving DecidableEq, Repr

/-- The machine. `fresh` is the model's own counter from which free values are drawn (DESIGN CHOICE, log entry 1); `agenda` says who
acts next (DESIGN CHOICE, log entry 4). -/
structure State where
  cur : HartId
  hart : Hart
  core : Core
  quad : Quad
  die : Die
  harts : List (HartId × Hart)
  cores : List ((Nat × Nat × Nat) × Core)
  quads : List ((Nat × Nat) × Quad)
  dies : List (Nat × Die)
  pkg : Pkg
  agenda : List Action
  fresh : Nat
deriving DecidableEq, Repr

/-- Why the machine stops. -/
inductive Fault where
  /-- Raised by the step alone, when Vexud has stopped the compute dies because the surroundings are outside their limits
  (R343). Safe: the hardware issues nothing either. -/
  | diesStopped
deriving DecidableEq, Repr

/-- Why an instruction has no meaning. -/
inductive Refusal where
  /-- Raised by the dispatch for an instruction that has no meaning yet. Safe: nothing is claimed of it. -/
  | notModelled (mnemonic : String)
deriving DecidableEq, Repr

/-! ### Reset -/

/-- A token at reset: zero, nothing outstanding (R12). -/
def Token.zero : Token := ⟨0, 0⟩

/-- An unbound port (R180). -/
def PortSt.unbound : PortSt := ⟨false, 0, 0, 0, false, false, 0, none⟩

/-- An idle channel, SEQ and mark register zero (R230). -/
def Channel.idle : Channel := ⟨0, 0, [], [], []⟩

/-- HST after reset for a hart at its place: RCHK 1 (R12), HELM and HID by the place (R9, R243), the rest zero. -/
def Hst.reset (h : HartId) : Hst :=
  { prio := 0, helm := decide (h.core = 4), recl := false, prot := false, rchk := true, mode := false, split := 0,
    hid := ⟨h.hid % 8, Nat.mod_lt _ (by decide)⟩ }

/-- A hart that holds no context, with the registers of R12 and R106; a register for which the spec gives no reset value is zero
(DESIGN CHOICE, log entry 3). -/
def Hart.reset (h : HartId) : Hart :=
  { pc := 0, s := Vector.replicate 32 0, supS := Vector.replicate 4 0,
    tk := Vector.replicate 16 Token.zero, supTk := Vector.replicate 16 Token.zero,
    fcr := .rne, xst := 0, xi := Vector.replicate 5 (BitVec.allOnes 64), hst := Hst.reset h,
    trpc := 0, trcause := 0, trfrom := 0, trlg := Vector.replicate 8 0,
    vl := 0, vcfg := 0, vcap := 0, v := Vector.replicate 32 0, m := Vector.replicate 8 0,
    fm := BitVec.allOnes 8192, frags := [], ports := Vector.replicate 8 PortSt.unbound,
    slot := 0, clock := 0, infl := [], stores := [], loads := [], pendS := [], vq := [], beat := 0, vpend := [], vholds := [], bops := [], merges := [], late := [],
    svec := 0, watch := 0, lanes := if h.core = 4 ∨ h.hid ≠ 0 then 0 else 32, lane0 := 0, gave := [],
    reclPend := false, givePend := false, mirrorPend := none,
    ctx := none, hold := .none, held := false, atVector := false, stopped := false, lines := [], lastTransfer := none,
    frozen := 0, savePend := false, asked := false, leaving := false }

def Core.reset : Core :=
  { chart := ⟨[]⟩, chartPoison := [], divider := [], pipe := [], net := [], chans := Vector.replicate 4 Channel.idle,
    spare := none, sparePend := none, unwritten := [], faulty := 0, shadow := [], banks := [] }

def Quad.reset : Quad :=
  { plane := ⟨[]⟩, planePoison := [], tiles := ⟨[]⟩, tilePoison := [], ten := 0, mxcV := false, afmt := 0, bfmt := 0,
    mg := 0, ng := 0, kg := 0, mops := [], passes := [], passTab := [] }

def Die.reset : Die :=
  { ranges := [], queues := [], cycles := 0, ringBase := 0, ringSlots := 0, ringHead := 0, ring := [],
    pool := none, helmPool := none, poolUser := (0, 0), ringUser := (0, 0), saved := [], sndInterval := 0, sndNext := 0, sndAt := 0, draining := none,
    drainStart := 0, mhz := 1200, stealing := none, gated := false }

def Vexud.reset : Vexud :=
  { phase := .off, verified := false, failed := false, measurements := [], starts := [], reports := [], lostPkgs := [],
    retrained := [], stopped := false, listings := [], runs := [] }

def Pkg.reset : Pkg :=
  { mem := ⟨[]⟩, beaconPoison := [], poisonAt := 0x7FFEF80000, bad := [], runCtx := [], keys := [], ticket := 0, barriers := [], replays := [],
    scopes := [], links := List.replicate 12 ⟨true, false, 0, 0, 0, 0⟩, boundariesLost := [], isolated := [], id := 0, routes := 0, rings := [],
    colls := [], aborted := [], lends := [], vexud := Vexud.reset, nextCtx := 1, nextAge := 0 }

/-- The machine right after reset: no context on any hart, nothing in memory, nothing pending; the registers without a reset value
in the spec hold zero (DESIGN CHOICE, log entry 3). -/
def State.reset : State :=
  { cur := ⟨0, 0, 0, 0⟩, hart := Hart.reset ⟨0, 0, 0, 0⟩, core := Core.reset, quad := Quad.reset, die := Die.reset,
    harts := [], cores := [], quads := [], dies := [], pkg := Pkg.reset, agenda := [], fresh := 0 }

end Sys2Proof.Machine
end

