-- ==== Sys2Proof/Machine/Ops.lean ====
section
/-! DEFINITION. The named operations over memory, registers, tokens and time that every instruction is built from, and
the taking of a trap (R288) with the return from one (R297). -/
namespace Sys2Proof.Machine

/-! ### Byte memory -/

/-- What an unlisted byte reads as (DESIGN CHOICE, log entry 2). -/
def Mem.unlisted : Byte := 0

def cellsRead : List Host.Cell → Nat → Byte
  | [], _ => Mem.unlisted
  | (b, v) :: rest, a => if a = b then v else cellsRead rest a

/-- Put one byte, keeping the addresses rising and no cell at the unlisted value. -/
def cellsWrite : List Host.Cell → Nat → Byte → List Host.Cell
  | [], a, v => if v = Mem.unlisted then [] else [(a, v)]
  | (b, u) :: rest, a, v =>
    if a < b then (if v = Mem.unlisted then (b, u) :: rest else (a, v) :: (b, u) :: rest)
    else if a = b then (if v = Mem.unlisted then rest else (a, v) :: rest)
    else (b, u) :: cellsWrite rest a v

def Mem.read (m : Mem) (a : Nat) : Byte := cellsRead m.cells a
def Mem.write (m : Mem) (a : Nat) (v : Byte) : Mem := ⟨cellsWrite m.cells a v⟩

/-- Addresses rise above `lo` and no cell holds the unlisted value. -/
def cellsWf : Nat → List Host.Cell → Bool
  | _, [] => true
  | lo, (a, v) :: rest => decide (lo ≤ a) && decide (v ≠ Mem.unlisted) && cellsWf (a + 1) rest

/-- The canonical form of a memory. -/
def Mem.wf (m : Mem) : Bool := cellsWf 0 m.cells

/-- n bytes from address a on, lowest first. -/
def Mem.bytes (m : Mem) (a : Nat) : Nat → List Byte
  | 0 => []
  | n + 1 => m.read a :: m.bytes (a + 1) n

def Mem.putBytes (m : Mem) (a : Nat) : List Byte → Mem
  | [] => m
  | b :: bs => (m.write a b).putBytes (a + 1) bs

/-- n bytes from address a on are back at the unlisted value. -/
def Mem.clear (m : Mem) (a n : Nat) : Mem := ⟨m.cells.filter fun c => !decide (a ≤ c.1 ∧ c.1 < a + n)⟩

/-- The number whose bytes lie lowest first (R4). -/
def leNat : List Byte → Nat
  | [] => 0
  | b :: bs => b.toNat + 256 * leNat bs

/-- The n low bytes of a number, lowest first (R4). -/
def leBytes (v : Nat) : Nat → List Byte
  | 0 => []
  | n + 1 => BitVec.ofNat 8 v :: leBytes (v / 256) n

def Mem.readLE (m : Mem) (a n : Nat) : Nat := leNat (m.bytes a n)
def Mem.writeLE (m : Mem) (a n v : Nat) : Mem := m.putBytes a (leBytes v n)
def Mem.word (m : Mem) (a : Nat) : Word := BitVec.ofNat 64 (m.readLE a 8)
def Mem.setWord (m : Mem) (a : Nat) (v : Word) : Mem := m.writeLE a 8 v.toNat

/-! ### Fields of words -/

/-- Bits [hi : lo] of a word as a number. -/
def bitsOf (v : Word) (hi lo : Nat) : Nat := v.toNat / 2 ^ lo % 2 ^ (hi + 1 - lo)
def bitOf (v : Word) (k : Nat) : Bool := v.getLsbD k
def wordOf (n : Nat) : Word := BitVec.ofNat 64 n
/-- The low w bits of a word, sign-extended to 64 bits. -/
def sextTo64 (w : Nat) (v : Word) : Word := ((v.setWidth w).signExtend 64)
def zextTo64 (w : Nat) (v : Word) : Word := ((v.setWidth w).setWidth 64)
def boolWord (b : Bool) : Word := if b then 1 else 0

/-! ### Focus -/

def coreKey (h : HartId) : Nat × Nat × Nat := (h.die, h.quad, h.core)
def quadKey (h : HartId) : Nat × Nat := (h.die, h.quad)

def assocGet {κ α : Type} [DecidableEq κ] (l : List (κ × α)) (k : κ) : Option α :=
  match l with
  | [] => none
  | (k', v) :: rest => if k' = k then some v else assocGet rest k

def assocSet {κ α : Type} [DecidableEq κ] (l : List (κ × α)) (k : κ) (v : α) : List (κ × α) :=
  match l with
  | [] => [(k, v)]
  | (k', v') :: rest => if k' = k then (k, v) :: rest else (k', v') :: assocSet rest k v

def State.getHart (s : State) (h : HartId) : Hart :=
  if h = s.cur then s.hart else (assocGet s.harts h).getD (Hart.reset h)
def State.getCore (s : State) (h : HartId) : Core :=
  if coreKey h = coreKey s.cur then s.core else (assocGet s.cores (coreKey h)).getD Core.reset
def State.getQuad (s : State) (h : HartId) : Quad :=
  if quadKey h = quadKey s.cur then s.quad else (assocGet s.quads (quadKey h)).getD Quad.reset
def State.getDie (s : State) (d : Nat) : Die :=
  if d = s.cur.die then s.die else (assocGet s.dies d).getD Die.reset

def State.putHart (s : State) (h : HartId) (x : Hart) : State :=
  if h = s.cur then { s with hart := x } else { s with harts := assocSet s.harts h x }
def State.putCore (s : State) (h : HartId) (x : Core) : State :=
  if coreKey h = coreKey s.cur then { s with core := x } else { s with cores := assocSet s.cores (coreKey h) x }
def State.putQuad (s : State) (h : HartId) (x : Quad) : State :=
  if quadKey h = quadKey s.cur then { s with quad := x } else { s with quads := assocSet s.quads (quadKey h) x }
def State.putDie (s : State) (d : Nat) (x : Die) : State :=
  if d = s.cur.die then { s with die := x } else { s with dies := assocSet s.dies d x }

/-- Bring a hart with its core, quad and die into focus. -/
def State.focus (s : State) (h : HartId) : State :=
  if h = s.cur then s
  else
    { s with
      cur := h, hart := s.getHart h, core := s.getCore h, quad := s.getQuad h, die := s.getDie h.die
      harts := assocSet s.harts s.cur s.hart, cores := assocSet s.cores (coreKey s.cur) s.core
      quads := assocSet s.quads (quadKey s.cur) s.quad, dies := assocSet s.dies s.cur.die s.die }

/-- All harts the state lists, the focused one first. -/
def State.allHarts (s : State) : List (HartId × Hart) := (s.cur, s.hart) :: s.harts.filter fun p => p.1 ≠ s.cur

def State.mapHart (s : State) (f : Hart → Hart) : State := { s with hart := f s.hart }
def State.modHart (s : State) (h : HartId) (f : Hart → Hart) : State := s.putHart h (f (s.getHart h))
def State.mapCore (s : State) (f : Core → Core) : State := { s with core := f s.core }
def State.mapQuad (s : State) (f : Quad → Quad) : State := { s with quad := f s.quad }
def State.mapDie (s : State) (f : Die → Die) : State := { s with die := f s.die }
def State.mapPkg (s : State) (f : Pkg → Pkg) : State := { s with pkg := f s.pkg }
def State.mapMem (s : State) (f : Mem → Mem) : State := { s with pkg := { s.pkg with mem := f s.pkg.mem } }
def State.mapVexud (s : State) (f : Vexud → Vexud) : State := s.mapPkg fun p => { p with vexud := f p.vexud }
/-- Vexud hands a report to the host. -/
def State.report (s : State) (r : HostReport) : State := s.mapVexud fun v => { v with reports := v.reports ++ [r] }
/-- Take the next number of the model's own counter. -/
def State.bump (s : State) (n : Nat) : State := { s with fresh := s.fresh + n }

/-! ### Scalar registers and tokens -/

/-- The place of s28 to s31 in the supervisor bank. -/
def bankIx (r : SReg) : Fin 4 := ⟨r.val % 4, Nat.mod_lt _ (by decide)⟩

/-- Whether a register lies in the supervisor bank in a mode (R288). -/
def inSupBank (mode : Bool) (r : SReg) : Bool := mode && decide (28 ≤ r.val)

/-- A scalar register of a bank; s0 reads zero (R3). -/
def Hart.regIn (h : Hart) (sup : Bool) (r : SReg) : Word :=
  if r = 0 then 0 else if sup then h.supS[bankIx r] else h.s[r]

def Hart.setRegIn (h : Hart) (sup : Bool) (r : SReg) (v : Word) : Hart :=
  if r = 0 then h
  else if sup then { h with supS := h.supS.set (bankIx r) v } else { h with s := h.s.set r v }

/-- A scalar register as the hart's mode sees it. -/
def Hart.reg (h : Hart) (r : SReg) : Word := h.regIn (inSupBank h.hst.mode r) r

def Hart.token (h : Hart) (sup : Bool) (t : Tok) : Token := if sup then h.supTk[t] else h.tk[t]
def Hart.setToken (h : Hart) (sup : Bool) (t : Tok) (x : Token) : Hart :=
  if sup then { h with supTk := h.supTk.set t x } else { h with tk := h.tk.set t x }

/-- Issue of a posting operation: one more outstanding on its token (R22). -/
def Hart.postBegin (h : Hart) (sup : Bool) (t : Tok) : Hart :=
  h.setToken sup t { h.token sup t with out := (h.token sup t).out + 1 }

/-- The increment of a posting operation (R22). -/
def Hart.postEnd (h : Hart) (sup : Bool) (t : Tok) : Hart :=
  h.setToken sup t ⟨(h.token sup t).cnt + 1, (h.token sup t).out - 1⟩

/-- Posting operations outstanding in all (R18). -/
def Hart.outstanding (h : Hart) : Nat :=
  (h.tk.toList.map (·.out)).sum + (h.supTk.toList.map (·.out)).sum

/-- Mark a scalar destination pending for posting operation id (R22). s0 is never pending. -/
def Hart.markS (h : Hart) (sup : Bool) (d : SReg) (id : Nat) : Hart :=
  if d = 0 then h else { h with pendS := h.pendS ++ [(sup, d, id)] }

/-- Clear the pending mark of an operation without writing (R28). -/
def Hart.unmarkS (h : Hart) (id : Nat) : Hart := { h with pendS := h.pendS.filter fun p => p.2.2 ≠ id }

/-- A completion writes its scalar destination and clears the mark (R22). An operation whose mark an unchecked racing
write has taken over writes nothing (R27). -/
def Hart.completeS (h : Hart) (id : Nat) (v : Word) : Hart :=
  match h.pendS.find? fun p => p.2.2 = id with
  | some (sup, d, _) => (h.setRegIn sup d v).unmarkS id
  | none => h

/-- Whether a hart owns a core lane (R95). -/
def Hart.ownsLane (h : Hart) (lane : Nat) : Bool := decide (h.lane0 ≤ lane ∧ lane < h.lane0 + h.lanes)

/-! ### Control registers -/

def Rm.code : Rm → Nat
  | .rne => 0 | .rtz => 1 | .rdn => 2 | .rup => 3
def rmOfNat (n : Nat) : Rm :=
  match n % 4 with
  | 0 => .rne | 1 => .rtz | 2 => .rdn | _ => .rup

/-- HST as a word (R9). -/
def Hst.word (x : Hst) : Word :=
  wordOf (x.prio.val * 2 ^ 10 + x.helm.toNat * 2 ^ 9 + x.recl.toNat * 2 ^ 8 + x.prot.toNat * 2 ^ 7
    + x.rchk.toNat * 2 ^ 6 + x.mode.toNat * 2 ^ 5 + x.split.val * 2 ^ 3 + x.hid.val)

/-- What an SCR read of a control register gives (R9 to R11, R90, R98, R99). -/
def Hart.creg (h : Hart) : CReg → Word
  | .fcr => wordOf h.fcr.code
  | .xst => h.xst.setWidth 64
  | .hst => h.hst.word
  | .xi k => h.xi[k]
  | .vl => wordOf h.vl
  | .vcfg => h.vcfg.setWidth 64
  | .vcap => wordOf h.vcap
  | .trpc => h.trpc
  | .trcause => h.trcause
  | .trfrom => h.trfrom
  | .trlg k => h.trlg[k]

/-- Bit QF of TRCAUSE (R284). -/
def Hart.qf (h : Hart) : Bool := bitOf h.trcause 14

/-- The queue may start no entry while it is frozen (R289). -/
def Hart.queueFrozen (h : Hart) : Bool := h.hst.mode && h.qf

/-- The increment of the frozen head V was made as cancelled: CAN of a record of V itself, found after issue and no engine's
(R284, R293) (DEDUCED, log entry 72). -/
def Hart.headCancelled (h : Hart) : Bool := bitOf h.trcause 15 && bitOf h.trcause 12 && !bitOf h.trcause 13

/-- A write of TRCAUSE. Clearing QF over a frozen queue discards its head V (R293); an increment V has not made is then
made as cancelled (R28) (DEDUCED, log entry 19). -/
def Hart.setTrcause (h : Hart) (v : Word) : Hart :=
  let h' := { h with trcause := v }
  if h.queueFrozen && !bitOf v 14 then
    match h.vq with
    | [] => h'
    | x :: rest =>
      let h' := { h' with vq := rest, bops := h'.bops.filter fun b => decide (b.id ≠ x.id) }
      match x.tok with
      | some t => if h.headCancelled then h' else (h'.unmarkS x.id).postEnd x.sup t
      | none => h'
  else h'

/-- A code address as the record holds it: bits [63:48] zero (R284). -/
def codeAddr (a : Word) : Word := (a.setWidth 48).setWidth 64

/-- The fields of TRCAUSE: bits [31:20] and [11:9] are reserved and zero (R284). -/
def trcauseFields : Word := 0xFFFFFFFF000FF1FF

/-- What an SCR write changes (R9 to R11, R91): RM of FCR, the five flags, RCHK of HST, the fields of the trap record, whose
reserved bits stay zero (R284, R287). VL, VCFG and VCAP are read-only. -/
def Hart.setCreg (h : Hart) (c : CReg) (v : Word) : Hart :=
  match c with
  | .fcr => { h with fcr := rmOfNat v.toNat }
  | .xst => { h with xst := v.setWidth 5 }
  | .hst => { h with hst := { h.hst with rchk := bitOf v 6 } }
  | .xi k => { h with xi := h.xi.set k v }
  | .vl => h
  | .vcfg => h
  | .vcap => h
  | .trpc => { h with trpc := codeAddr v }
  | .trcause => h.setTrcause (v &&& trcauseFields)
  | .trfrom => { h with trfrom := codeAddr v }
  | .trlg k => { h with trlg := h.trlg.set k (v &&& 0x3FFF) }

/-- A flag merge (R111): flags by OR, indices by unsigned minimum. The list gives, in the order NV DZ OF UF NX, the
lowest element index of each flag raised. -/
def Hart.mergeFlags (h : Hart) (f : FFlags) (idx : List (Option Nat)) : Hart :=
  let low (k : Fin 5) : Word :=
    match (idx[k.val]?).join with
    | some i => if i < h.xi[k].toNat then wordOf i else h.xi[k]
    | none => h.xi[k]
  { h with xst := h.xst ||| f, xi := #v[low 0, low 1, low 2, low 3, low 4] }

/-! ### Time: slots and results in flight -/

/-- A result in flight lands (R19). -/
def landOne (s : State) (x : Infl) : State :=
  let s := match x.dest with
    | .sreg sup r => s.mapHart fun h => h.setRegIn sup r x.val
    | .creg c => s.mapHart fun h => h.setCreg c x.val
    | .mxc => s.mapQuad fun q =>
        { q with mxcV := true, bfmt := (x.val >>> 8).setWidth 5, afmt := x.val.setWidth 5 }
    | .mdim => s.mapQuad fun q =>
        { q with mg := bitsOf x.val 6 0, ng := bitsOf x.val 14 8, kg := bitsOf x.val 27 16 }
    | .none => s
  if x.flags = 0 then s else s.mapHart fun h => { h with xst := h.xst ||| x.flags }

def Dest.isCreg : Dest → Bool
  | .creg _ => true
  | _ => false

/-- Land every result due at the present slot: control-register writes first, so that a merge of the same slot is ORed
into what the write leaves (R92). -/
def landDue (s : State) : State :=
  let due := s.hart.infl.filter fun x => decide (x.ready ≤ s.hart.slot)
  let s := s.mapHart fun h => { h with infl := h.infl.filter fun x => !decide (x.ready ≤ h.slot) }
  let s := (due.filter fun x => x.dest.isCreg).foldl landOne s
  (due.filter fun x => !x.dest.isCreg).foldl landOne s

/-- Vector flag merges due at the present slot (R111). -/
def mergeDue (s : State) : State :=
  let due := s.hart.merges.filter fun x => decide (x.due ≤ s.hart.slot)
  if due.isEmpty then s
  else
    s.mapHart fun h =>
      due.foldl (fun h x => h.mergeFlags x.flags (x.lows.map fun i => if i = 0 then none else some (i - 1)))
        { h with merges := h.merges.filter fun x => !decide (x.due ≤ h.slot) }

/-- A posting entry that merges flags at its completion (R111): FP reductions and narrow writes. -/
def VOp.merges (op : VOp) : Bool :=
  match op with
  | .vred _ _ _ _ _ => true
  | .vpt f _ _ _ _ =>
    match f with
    | .wrnF => true
    | .wrnBf => true
    | .wrnC => true
    | _ => false
  | _ => false

/-- Flags of something that a hart queued before a number have still to merge: of a fixed-latency entry, or of a posting one
(R111). -/
def State.mergesAt (s : State) (h : HartId) (id : Nat) : Bool :=
  (s.getHart h).merges.any (fun m => decide (m.id < id)) ||
    ((s.getCore h).pipe ++ (s.getCore h).net).any fun u => decide (u.hid = h.hid ∧ u.ent.id < id) && u.ent.op.merges

/-- The increment of an engine command on the hart that issued it: at once, or once what is older has merged (R111). -/
def State.postAt (s : State) (h : HartId) (x : Late) : State :=
  s.modHart h fun k => if s.mergesAt h x.id then { k with late := k.late ++ [x] } else k.postEnd x.sup x.tok

/-- A completion: the scalar destination, if a value is to go there, then the increment (R22). -/
def Hart.complete (h : Hart) (x : Late) : Hart :=
  (match x.val with
   | some v => h.completeS x.id v
   | none => h.unmarkS x.id).postEnd x.sup x.tok

/-- The completions that no merge holds back any more are made (R111, R355). -/
def lateDue (s : State) : State :=
  let due := s.hart.late.filter fun x => !s.mergesAt s.cur x.id
  if due.isEmpty then s
  else
    s.mapHart fun h => due.foldl Hart.complete { h with late := h.late.filter fun x => s.mergesAt s.cur x.id }

/-- The completions of the user's operations are made, its entries having merged (R301). -/
def lateAll (s : State) : State :=
  s.mapHart fun h => (h.late.filter fun x => !x.sup).foldl Hart.complete { h with late := h.late.filter (·.sup) }

/-- A scalar Chart store performs: its bytes are in the bank (R198); a word written whole loses its poison mark (R310). -/
def performStore (c : Core) (x : ChartStore) : Core :=
  { c with chart := c.chart.writeLE x.addr x.size x.val
           chartPoison := c.chartPoison.filter fun w => !decide (x.addr ≤ w * 8 ∧ w * 8 + 8 ≤ x.addr + x.size) }

/-- The scalar Chart stores older than a number perform, in program order (R15). -/
def storesBefore (s : State) (id : Nat) : State :=
  let older := s.hart.stores.takeWhile fun x => decide (x.id < id)
  if older.isEmpty then s
  else (s.mapCore fun c => older.foldl performStore c).mapHart fun h => { h with stores := h.stores.drop older.length }

/-- A scalar Chart load performs: its bytes are read from the bank (R198), after the hart's earlier stores (R15)
(DEDUCED, log entry 97). -/
def performLoad (s : State) (l : ChartLoad) : State :=
  let s := storesBefore s l.id
  let x := wordOf (s.core.chart.readLE l.addr l.size)
  let v := if l.signed then sextTo64 (8 * l.size) x else zextTo64 (8 * l.size) x
  s.mapHart fun h =>
    { h with loads := h.loads.filter fun y => decide (y.id ≠ l.id)
             infl := h.infl.map fun y => if y.dest = .sreg l.sup l.d ∧ y.ready = l.due then { y with val := v } else y }

/-- The scalar Chart loads due at the present slot perform, in program order, before their results land (R15, R198). -/
def loadsDue (s : State) : State := (s.hart.loads.takeWhile fun l => decide (l.due ≤ s.hart.slot)).foldl performLoad s

/-- The scalar Chart stores due at the present slot perform, in program order (R15, R198). -/
def storesDue (s : State) : State :=
  let due := s.hart.stores.takeWhile fun x => decide (x.due ≤ s.hart.slot)
  if due.isEmpty then s
  else (s.mapCore fun c => due.foldl performStore c).mapHart fun h => { h with stores := h.stores.drop due.length }

/-- The oldest scalar Chart access of the focused hart performs (R15, R198). -/
def storeFirst (s : State) : State :=
  match s.hart.loads.head?, s.hart.stores with
  | some l, [] => performLoad s l
  | some l, x :: rest =>
    if l.id < x.id then performLoad s l
    else (s.mapCore fun c => performStore c x).mapHart fun h => { h with stores := rest }
  | none, [] => s
  | none, x :: rest => (s.mapCore fun c => performStore c x).mapHart fun h => { h with stores := rest }

/-- Every scalar Chart access of the focused hart that has issued performs (R198). -/
def storesAll (s : State) : State :=
  let s := s.hart.loads.foldl performLoad s
  (s.mapCore fun c => s.hart.stores.foldl performStore c).mapHart fun h => { h with stores := [] }

/-- The Chart as the focused hart's next access will find it, where no other party comes between: what its earlier scalar stores
have still to write stands in it (R15). -/
def State.ownChart (s : State) : Core := s.hart.stores.foldl performStore s.core

/-- One issue slot passes (R17). -/
def tick (s : State) : State :=
  storesDue (mergeDue (landDue (loadsDue (s.mapHart fun h => { h with slot := h.slot + 1, clock := h.clock + 1 }))))

/-- n issue slots pass. -/
def ticks : Nat → State → State
  | 0, s => s
  | n + 1, s => ticks n (tick s)

/-- Every fixed-latency operation in flight completes (R288 step 2), in the order of the slots it would land in. -/
def landAll : Nat → State → State
  | 0, s => s
  | n + 1, s => if s.hart.infl.isEmpty && s.hart.merges.isEmpty then s else landAll n (tick s)

/-- Slots that suffice for all results in flight: no latency exceeds 64 beats beyond the queue's own length. -/
def inflBound (h : Hart) : Nat :=
  (h.infl.map (·.ready)).foldl max (h.merges.map (·.due) |>.foldl max h.slot) - h.slot

/-- Nothing that was issued on a hart is still to complete in its queue, its units or its beacon accesses (R22)
(DEDUCED, log entry 115). -/
def State.ownDone (s : State) (h : HartId) : Bool :=
  let x := s.getHart h
  let c := s.getCore h
  x.vq.isEmpty && x.bops.isEmpty && x.infl.isEmpty && x.stores.isEmpty && x.loads.isEmpty && x.merges.isEmpty && x.late.isEmpty &&
    c.divider.all (fun o => decide (o.hid ≠ h.hid)) && (c.pipe ++ c.net).all fun o => decide (o.hid ≠ h.hid)

/-! ### Reads and writes of scalar registers at issue -/

/-- Whether a scalar register is pending: a fixed latency not yet covered, or a posting operation not complete (R27). -/
def Hart.pendingReg (h : Hart) (r : SReg) : Bool :=
  let sup := inSupBank h.hst.mode r
  decide (r ≠ 0) &&
    (h.infl.any (fun x => decide (x.dest = .sreg sup r)) || h.pendS.any (fun p => decide (p.1 = sup ∧ p.2.1 = r)))

/-- The new value a posting operation has formed for a register it has still to write: that of a division in the divider. Of
every other posting operation the value is formed in the step in which it completes (R22) (DEDUCED, log entry 6). -/
def State.formed (s : State) (sup : Bool) (r : SReg) : Option Word :=
  (s.hart.pendS.find? fun p => decide (p.1 = sup ∧ p.2.1 = r)).bind fun p =>
    (s.core.divider.find? fun o => decide (o.hid = s.cur.hid ∧ o.id = p.2.2)).map (·.val)

/-- The value a source read gives (R19, R27). A read of a pending register in unchecked mode gives the old or the new
value, once the new value is formed; which of them is free (DESIGN CHOICE, log entry 1). Every read of one register by one
instruction gives the same value (DEDUCED, log entry 6). -/
def State.src (s : State) (r : SReg) : Word :=
  let h := s.hart
  let sup := inSupBank h.hst.mode r
  match (h.infl.filter fun x => decide (x.dest = .sreg sup r ∧ r ≠ 0)).getLast? with
  | some x =>
    if Config.freeBit (s.fresh + r.val) && !(h.loads.any fun l => decide (l.sup = sup ∧ l.d = r ∧ l.due = x.ready)) then x.val
    else h.reg r
  | none =>
    match (if r = 0 then none else s.formed sup r) with
    | some v => if Config.freeBit (s.fresh + r.val) then v else h.reg r
    | none => h.reg r

/-- A fixed-latency write of a scalar register, readable L slots on (R19). A racing write in unchecked mode leaves one
of the two values (R27): either the earlier write is dropped or this one (DEDUCED, log entry 6). -/
def State.writeReg (s : State) (d : SReg) (v : Word) (lat : Nat) : State :=
  let h := s.hart
  let sup := inSupBank h.hst.mode d
  if d = 0 then s
  else if h.pendingReg d && !Config.freeBit (s.fresh + 32 + d.val) then s
  else
    s.mapHart fun h =>
      { h with
        infl := (h.infl.filter fun x => !decide (x.dest = .sreg sup d)) ++ [⟨.sreg sup d, v, h.slot + lat, 0⟩]
        pendS := h.pendS.filter fun p => !decide (p.1 = sup ∧ p.2.1 = d) }

/-- Flags of a fixed-latency instruction, merging L slots on (R89). -/
def State.raise (s : State) (f : FFlags) (lat : Nat) : State :=
  if f = 0 then s else s.mapHart fun h => { h with infl := h.infl ++ [⟨.none, 0, h.slot + lat, f⟩] }

/-- The effect of an instruction that falls through: the PC moves on and one slot passes (R17). -/
def State.advance (s : State) : State :=
  tick (s.mapHart fun h => { h with pc := h.pc + 4, held := false, atVector := false, lastTransfer := none, asked := false })

/-- The effect of an instruction that holds issue until something answers (R176, R268, R272, R305, R355): the answer has come,
and before the next word issues further slots may pass (`State.stillAsked`). -/
def State.answered (s : State) : State := s.advance.mapHart fun h => { h with asked := true }

/-- A taken transfer: one slot and two redirect slots (R17); the transfer's address is kept for FETCH (R79). -/
def State.jump (s : State) (target : Word) : State :=
  ticks 3 (s.mapHart fun h => { h with pc := target, held := false, atVector := false, lastTransfer := some h.pc, asked := false })

/-- The front holds issue in this slot and tries the same word again. -/
def State.hold (s : State) : State := tick (s.mapHart fun h => { h with held := true })

/-- A freeze: the hart stands for a cycle that is no slot (R18), and tries the same word again. -/
def State.freeze (s : State) : State := s.mapHart fun h => { h with held := true, clock := h.clock + 1 }

/-! ### Taking a trap and returning -/

/-- The codes of R44. -/
def causeCode : Cause → Nat
  | .illegal => 1 | .combo => 2 | .undeclared => 3 | .priv => 4 | .fetch => 5 | .beacon => 6 | .runfault => 7
  | .runend => 8 | .poison => 9 | .race => 0xA | .tileoff => 0xB | .stageheld => 0xC | .chart => 0xD | .fragovf => 0xE
  | .lanelost => 0xF | .mirror => 0x10 | .spill => 0x11 | .brk => 0x13 | .scall => 0x14 | .watch => 0x15

/-- What a trap records (R284 to R287). -/
structure TrapRec where
  cause : Cause
  aux : Nat
  tk : Nat
  can : Bool
  qf : Bool
  eng : Bool
  dfd : Bool
  pc : Word
  src : Word
  dones : List Nat
deriving DecidableEq, Repr

/-- A trap found at scalar issue: TRPC and TRFROM name the word (R285). -/
def TrapRec.atIssue (c : Cause) (aux : Nat) (pc : Word) : TrapRec :=
  { cause := c, aux := aux, tk := 0, can := false, qf := false, eng := false, dfd := false, pc := pc, src := pc,
    dones := [] }

/-- TRCAUSE of a record (R284). -/
def TrapRec.causeWord (t : TrapRec) (pmode : Bool) : Word :=
  wordOf (t.aux % 2 ^ 32 * 2 ^ 32 + t.tk % 16 * 2 ^ 16 + t.can.toNat * 2 ^ 15 + t.qf.toNat * 2 ^ 14
    + t.eng.toNat * 2 ^ 13 + t.dfd.toNat * 2 ^ 12 + pmode.toNat * 2 ^ 8 + causeCode t.cause)

/-- TRLGk for the stopped head entry: DONE in bits [13:0] (R287). -/
def doneWord (dones : List Nat) (k : Nat) : Word := wordOf ((dones[k]?).getD 0 % 2 ^ 14)

/-- A hart that traps waits at no barrier any more: its arrivals are withdrawn (DEDUCED, log entry 70). -/
def State.withdraw (s : State) : State :=
  s.mapPkg fun p => { p with barriers := p.barriers.map fun b => { b with arrived := b.arrived.filter (· ≠ s.cur) } }

/-- Steps 1 and 4 to 6 of R288: a slot passes, the record is written, the mode becomes supervisor, the banks switch with it,
the PC is the trap vector. Fixed-latency results have landed and the queue is stopped before (`trapAt` in Queue.lean). -/
def enterTrap (t : TrapRec) (s : State) : State :=
  s.withdraw.mapHart fun h =>
    { h with
      trpc := codeAddr t.pc, trcause := t.causeWord h.hst.mode, trfrom := codeAddr t.src
      trlg := #v[doneWord t.dones 0, doneWord t.dones 1, doneWord t.dones 2, doneWord t.dones 3,
                 doneWord t.dones 4, doneWord t.dones 5, doneWord t.dones 6, doneWord t.dones 7]
      hst := { h.hst with mode := true }
      pc := h.svec, atVector := true, hold := .none, held := false, lastTransfer := none, asked := false
      slot := h.slot + 1, clock := h.clock + 1 }

/-- The scalar destination of a posting queue entry (R109, R214, R236). -/
def VOp.sdest (op : VOp) : Option SReg :=
  match op with
  | .vmvxs d _ => some d
  | .vred _ _ d _ _ => some d
  | .cpctl _ d _ => some d
  | .srt _ d _ => some d
  | .sprog d => some d
  | .sabort d => some d
  | _ => none

/-- A return from a trap (R297): the hart with no context becomes free; otherwise user mode with the user banks, the
queue resumed under R293, and the PC from the operand. A head entry whose increment was made as cancelled is outstanding
again, its scalar destination pending; its vector destinations are held again when it starts
(DEDUCED, log entry 72). The address is taken as it is: with bits [1:0] not zero the word there traps FETCH with AUX 3
(DEDUCED, log entry 96). -/
def leaveTrap (target : Word) (s : State) : State :=
  match s.hart.ctx with
  | none => s.mapHart fun h => { h with hst := { h.hst with mode := false } }
  | some _ =>
    s.mapHart fun h =>
      let h := { h with hst := { h.hst with mode := false }, pc := target }
      if h.qf then
        match h.vq with
        | [] => h
        | v :: rest =>
          let tk : Tok := ⟨bitsOf h.trcause 19 16 % 16, Nat.mod_lt _ (by decide)⟩
          let h := { h with vq := { v with dones := h.trlg.toList.map fun w => bitsOf w 13 0 } :: rest }
          if h.headCancelled then
            let h := h.setToken false tk ⟨(h.token false tk).cnt - 1, (h.token false tk).out + 1⟩
            match v.op.sdest with
            | some d => h.markS false d v.id
            | none => h
          else h
      else h

end Sys2Proof.Machine
end

