-- ==== Sys2Proof/Machine/Crypt.lean ====
section
/-! DEFINITION. AES-256-XTS, by which Bulk storage is encrypted (R172): the cipher of FIPS 197 on lists of sixteen bytes
and the tweaked mode of IEEE 1619 on 64-byte lines. -/
namespace Sys2Proof.Machine

/-! ### The field of 256 elements -/

def gfDouble (x : Nat) : Nat := let y := 2 * (x % 256); if 256 ≤ y then (y - 256) ^^^ 0x1B else y

/-- The product of two bytes, over the bits of the second. -/
def gfMulBits : Nat → Nat → Nat → Nat
  | 0, _, _ => 0
  | n + 1, a, b => (if b % 2 = 1 then a else 0) ^^^ gfMulBits n (gfDouble a) (b / 2)

def gfMul (a b : Nat) : Nat := gfMulBits 8 (a % 256) (b % 256)

/-- x^(2^(n+1) − 2): the square-and-multiply chain that gives the inverse for n = 7. -/
def gfInvChain : Nat → Nat → Nat → Nat
  | 0, _, acc => acc
  | n + 1, x, acc => let y := gfMul x x; gfInvChain n y (gfMul acc y)

/-- The inverse of a byte, 0 for 0. -/
def gfInv (x : Nat) : Nat := gfInvChain 7 x 1

def rotByte (x k : Nat) : Nat := (x * 2 ^ k % 256) + x / 2 ^ (8 - k)

def sbox (x : Nat) : Nat :=
  let b := gfInv x
  b ^^^ rotByte b 1 ^^^ rotByte b 2 ^^^ rotByte b 3 ^^^ rotByte b 4 ^^^ 0x63

def invSbox (y : Nat) : Nat := gfInv (rotByte y 1 ^^^ rotByte y 3 ^^^ rotByte y 6 ^^^ 0x05)

/-! ### The cipher -/

def xorBytes (a b : List Nat) : List Nat := List.zipWith (· ^^^ ·) a b

/-- The key schedule: eight words of four bytes grow to sixty. The newest word stands first. -/
def expandKey : Nat → Nat → Nat → List (List Nat) → List (List Nat)
  | 0, _, _, ws => ws
  | n + 1, i, rc, ws =>
    let prev := ws.headD []
    let t :=
      if i % 8 = 0 then
        match prev with
        | [a, b, c, d] => [sbox b ^^^ rc, sbox c, sbox d, sbox a]
        | l => l
      else if i % 8 = 4 then prev.map sbox
      else prev
    let w := xorBytes (ws[7]?.getD []) t
    expandKey n (i + 1) (if i % 8 = 0 then gfDouble rc else rc) (w :: ws)

/-- Fifteen round keys of sixteen bytes. Byte i of the key is bits [8i + 7 : 8i]. -/
def roundKeys (key : BitVec 256) : List (List Nat) :=
  let kb (i : Nat) : Nat := key.toNat / 2 ^ (8 * i) % 256
  let first := (List.range 8).map fun w => [kb (4 * w), kb (4 * w + 1), kb (4 * w + 2), kb (4 * w + 3)]
  let ws := (expandKey 52 8 1 first.reverse).reverse
  (List.range 15).map fun r => ((ws.drop (4 * r)).take 4).flatten

/-- Row shifts: byte r + 4c comes from column c + r, or c − r for the inverse. -/
def shiftRows (inv : Bool) (x : List Nat) : List Nat :=
  (List.range 16).map fun i =>
    let r := i % 4
    let c := i / 4
    x[r + 4 * ((c + (if inv then 4 - r else r)) % 4)]?.getD 0

/-- One column times the fixed matrix whose first row is given. -/
def mixColumns (a b c d : Nat) (x : List Nat) : List Nat :=
  (List.range 16).map fun i =>
    let r := i % 4
    let at0 (k : Nat) : Nat := x[4 * (i / 4) + (r + k) % 4]?.getD 0
    gfMul a (at0 0) ^^^ gfMul b (at0 1) ^^^ gfMul c (at0 2) ^^^ gfMul d (at0 3)

/-- Encryption of one block. -/
def aesEnc (rk : List (List Nat)) (x : List Nat) : List Nat :=
  let mid := ((rk.drop 1).take 13).foldl (fun x k => xorBytes (mixColumns 2 3 1 1 (shiftRows false (x.map sbox))) k)
    (xorBytes x (rk.headD []))
  xorBytes (shiftRows false (mid.map sbox)) (rk[14]?.getD [])

/-- Decryption of one block. -/
def aesDec (rk : List (List Nat)) (x : List Nat) : List Nat :=
  let mid := ((rk.drop 1).take 13).reverse.foldl (fun x k =>
    mixColumns 14 11 13 9 (xorBytes ((shiftRows true x).map invSbox) k)) (xorBytes x (rk[14]?.getD []))
  xorBytes ((shiftRows true mid).map invSbox) (rk.headD [])

/-! ### The mode -/

def bytes16 (v : Nat) : List Nat := (List.range 16).map fun i => v / 2 ^ (8 * i) % 256
def nat16 (x : List Nat) : Nat := x.foldr (fun b n => b + 256 * n) 0

/-- The tweak of block j of a line: α^j times the encrypted line number. -/
def xtsTweak : Nat → Nat → Nat
  | 0, t => t
  | j + 1, t => xtsTweak j (if 2 ^ 127 ≤ t then (2 * t - 2 ^ 128) ^^^ 0x87 else 2 * t)

/-- Block j of the line at physical address bits [47:6] = line, encrypted or decrypted under a key pair (R172). -/
def xtsBlock (dec : Bool) (keys : BitVec 256 × BitVec 256) (line j : Nat) (x : List Nat) : List Nat :=
  let t := bytes16 (xtsTweak j (nat16 (aesEnc (roundKeys keys.2) (bytes16 line))))
  let rk := roundKeys keys.1
  xorBytes (if dec then aesDec rk (xorBytes x t) else aesEnc rk (xorBytes x t)) t

end Sys2Proof.Machine
end

