-- ==== Sys2Proof/Machine/Xlat.lean ====
section
/-! DEFINITION. The device address space: windows (R153), range-first translation (R166, R167), the page walk (R168),
permissions and poison (R169 to R171), and the storage behind a physical address, encrypted where its entry says so
(R172). -/
namespace Sys2Proof.Machine

/-! ### Windows (R153) -/

def inBulk (pa : Nat) : Bool := decide (pa < 0x8000000000)
def inHold (pa : Nat) : Bool := decide (0x10000000000 ≤ pa ∧ pa < 0x10400000000)
def inBeacon (pa : Nat) : Bool := decide (0x20000000000 ≤ pa ∧ pa < 0x20001000000)

/-- The die of a populated physical address. -/
def homeDie (pa : Nat) : Nat :=
  if inBulk pa then pa / 2 ^ 37 % 4 else if inHold pa then pa / 2 ^ 32 % 4 else pa / 2 ^ 22 % 4

/-- Byte offset of a beacon address within its die's slice. -/
def sliceOffset (pa : Nat) : Nat := pa % 2 ^ 22

/-- The capability, scope and run tables at the top of a slice (R158, R265, R318). -/
def inCapTable (pa : Nat) : Bool := inBeacon pa && decide (0x37E000 ≤ sliceOffset pa ∧ sliceOffset pa < 0x37F900)
def inScopeTable (pa : Nat) : Bool := inBeacon pa && decide (0x380000 ≤ sliceOffset pa ∧ sliceOffset pa < 0x3C0000)
def inRunTable (pa : Nat) : Bool := inBeacon pa && decide (0x3C0000 ≤ sliceOffset pa)

/-! ### Boundaries between dies (R323) -/

/-- The dies a boundary joins. -/
def boundaryEnds (b : Nat) : Nat × Nat :=
  match b with
  | 0 => (0, 1) | 1 => (2, 3) | 2 => (0, 2) | _ => (1, 3)

/-- Two dies with a boundary between them that is not lost. -/
def Pkg.joined (p : Pkg) (d e : Nat) : Bool :=
  (List.range 4).any fun b => !p.boundariesLost.contains b &&
    (decide (boundaryEnds b = (d, e)) || decide (boundaryEnds b = (e, d)))

/-- The dies a path of at most n boundaries reaches (DEDUCED, log entry 68). -/
def Pkg.reach (p : Pkg) : Nat → Nat → Nat → Bool
  | 0, d, e => decide (d = e)
  | n + 1, d, e => decide (d = e) || (List.range 4).any fun k => p.joined d k && p.reach n k e

/-- Die e is out of reach from die d: it is isolated, until Vexud resets it (R323), or no path around the square joins the two
(DEDUCED, log entry 68). -/
def Pkg.cutOff (p : Pkg) (d e : Nat) : Bool :=
  (decide (d ≠ e) && p.isolated.contains e) || (!p.boundariesLost.isEmpty && !p.reach 3 d e)

/-- Nothing passes between two dies one way or the other. -/
def Pkg.apart (p : Pkg) (d e : Nat) : Bool := p.cutOff d e || p.cutOff e d

/-- Dies both of whose boundaries are lost (R323). -/
def Pkg.nowIsolated (p : Pkg) : List Nat := (List.range 4).filter fun d => (List.range 4).all fun e => !p.joined d e

/-- The links of the boundaries that traffic between two dies may cross: their own boundary, else any that is not lost
(R323, R327). -/
def Pkg.wayLinks (p : Pkg) (d e : Nat) : List Nat :=
  let up := (List.range 4).filter fun b => !p.boundariesLost.contains b
  let own := up.filter fun b => decide (boundaryEnds b = (d, e)) || decide (boundaryEnds b = (e, d))
  (if own.isEmpty then up else own).map (· + 8)

def Pkg.modLink (p : Pkg) (l : Nat) (f : Link → Link) : Pkg :=
  { p with links := (p.links.zip (List.range p.links.length)).map fun q => if q.2 = l then f q.1 else q.1 }

/-! ### Range entries (R167) -/

def rangeCtx (r : Range) : Nat := bitsOf r.attr 63 56

/-- The lowest-numbered valid entry that matches (R166). -/
def findRange (rs : List (Nat × Range)) (ctx va : Nat) : Option Range :=
  (rs.foldl (fun (best : Option (Nat × Range)) p =>
    let r := p.2
    if bitOf r.attr 0 && (decide (rangeCtx r = ctx) || decide (rangeCtx r = 255)) &&
        decide (r.base.toNat ≤ va ∧ va < r.limit.toNat) then
      match best with
      | some b => if p.1 < b.1 then some p else best
      | none => some p
    else best) none).map (·.2)

/-- Whether the words of a range entry keep every reserved bit zero (R167). -/
def rangeOk (r : Range) : Bool :=
  let addrOk (w : Word) : Bool := decide (w.toNat % 4096 = 0 ∧ w.toNat < 2 ^ 48)
  addrOk r.base && addrOk r.limit && addrOk r.off && decide (bitsOf r.attr 55 16 = 0 ∧ bitsOf r.attr 7 5 = 0)

/-! ### The page walk (R168) -/

/-- The entry's reserved fields are zero. -/
def pteOk (e : Word) : Bool :=
  !bitOf e 63 && decide (bitsOf e 54 48 = 0 ∧ bitsOf e 11 7 = 0) && !bitOf e 5

/-- Bulk may be used: LPDDR-6 is trained (R340) (DESIGN CHOICE, log entry 105). -/
def Pkg.bulkReady (p : Pkg) : Bool := decide (p.vexud.phase = .nominal)

/-- A die reaches the storage at a physical address of Hold or Bulk (R323, R340) (DESIGN CHOICE, log entry 105). -/
def Pkg.reaches (p : Pkg) (die pa : Nat) : Bool :=
  (inHold pa || (inBulk pa && p.bulkReady)) && !p.cutOff die (homeDie pa)

/-- The walk from a table at a level, on behalf of a die: `fuel` counts the levels left. The result is a leaf and its level. -/
def walk (die : Nat) (p : Pkg) : Nat → Nat → Nat → Nat → Option (Word × Nat)
  | 0, _, _, _ => none
  | fuel + 1, level, table, va =>
    let ea := table + va / 2 ^ (39 - 9 * level) % 512 * 8
    if !p.reaches die ea then none
    else
      let e := p.mem.word ea
      if !bitOf e 0 || !pteOk e then none
      else if bitOf e 6 then
        (if level = 0 then none
         else if bitsOf e 47 12 * 4096 % 2 ^ (39 - 9 * level) = 0 then some (e, level) else none)
      else walk die p fuel (level + 1) (bitsOf e 47 12 * 4096) va

/-- Translation of a DVA in a context, on behalf of a die (R166): what a port keeps (`Tr`), or nothing where it faults. -/
def translate (die : Nat) (p : Pkg) (ranges : List (Nat × Range)) (ctx root : Nat) (va : Word) : Option Tr :=
  let a := va.toNat
  if 2 ^ 48 ≤ a then none
  else
    match findRange ranges ctx a with
    | some r =>
      some { lo := r.base.toNat, hi := r.limit.toNat, off := r.off.toNat, r := bitOf r.attr 1, w := bitOf r.attr 2
             x := bitOf r.attr 3, u := bitOf r.attr 4, enc := bitOf r.attr 8, key := bitsOf r.attr 15 9, frame := none
             ctx := ctx }
    | none =>
      match walk die p 4 0 root a with
      | none => none
      | some (e, level) =>
        let size := 2 ^ (39 - 9 * level)
        let lo := a / size * size
        some { lo := lo, hi := lo + size, off := (bitsOf e 47 12 * 4096 + (2 ^ 48 - lo)) % 2 ^ 48, r := bitOf e 1
               w := bitOf e 2, x := bitOf e 3, u := bitOf e 4, enc := bitOf e 55, key := bitsOf e 62 56, frame := none
               ctx := ctx }

def Tr.covers (t : Tr) (a : Nat) : Bool := decide (t.lo ≤ a ∧ a < t.hi)
def Tr.pa (t : Tr) (a : Nat) : Nat := (a + t.off) % 2 ^ 48

/-- Why an access to runs or code fails; `bad` is an uncorrectable error met in a frame (R171). -/
inductive XErr where
  | fault | perm | poison
  | bad (frame : Nat)
deriving DecidableEq, Repr

/-- What an access needs. -/
inductive Acc where
  | read | write | exec
deriving DecidableEq, Repr

def Tr.allows (t : Tr) (acc : Acc) (user : Bool) : Bool :=
  (match acc with
   | .read => t.r | .write => t.w | .exec => t.x) && (t.u || !user)

/-! ### Poison (R171, R309, R310) -/

/-- The number of a frame's bit in the bitmap: frames of Bulk first, then those of Hold (DESIGN CHOICE, log entry 12). -/
def poisonIx (frame : Nat) : Nat := if frame < 2 ^ 27 then frame else 2 ^ 27 + (frame - 2 ^ 28)

/-- Bytes of the bitmap: a bit for each frame of Bulk and Hold. -/
def poisonBytes : Nat := (2 ^ 27 + 2 ^ 22) / 8

/-- The byte of the bitmap that holds a frame's bit. -/
def Pkg.poisonByte (p : Pkg) (frame : Nat) : Nat := p.poisonAt + poisonIx frame / 8

/-- Whether a frame's poison bit is set, as the poison cache reads it at its physical address (R155, R171),
once Vexud has placed the bitmap (R340) (DESIGN CHOICE, log entry 12). -/
def Pkg.poisoned (p : Pkg) (frame : Nat) : Bool := p.bulkReady && (p.mem.read (p.poisonByte frame)).toNat.testBit (poisonIx frame % 8)

/-- A frame's poison bit takes a value (DESIGN CHOICE, log entry 12). -/
def Pkg.setPoison (p : Pkg) (frame : Nat) (on : Bool) : Pkg :=
  let bit : Byte := BitVec.ofNat 8 (2 ^ (poisonIx frame % 8))
  let old := p.mem.read (p.poisonByte frame)
  { p with mem := p.mem.write (p.poisonByte frame) (if on then old ||| bit else old &&& ~~~bit) }

/-- The unit of error checking that holds a byte of Hold or Bulk: its first address and its bytes (R309). -/
def eccUnit (pa : Nat) : Nat := if inBulk pa then pa / 64 * 64 else pa / 8 * 8
def eccBytes (pa : Nat) : Nat := if inBulk pa then 64 else 8

/-- A write of the bytes at some addresses ends the error of every unit that it covers wholly (R310). -/
def Pkg.rewritten (p : Pkg) (pas : List Nat) : Pkg :=
  if p.bad.isEmpty then p
  else { p with bad := p.bad.filter fun u => !(List.range (eccBytes u)).all fun k => pas.contains (u + k) }

/-- A read that met an uncorrectable error sets the poison bit of the frame (R171, R294). -/
def State.noteErr (s : State) (e : XErr) : State :=
  match e with
  | .bad f => s.mapPkg fun p => p.setPoison f true
  | _ => s

/-- The translation of one run or code access: the kept translation while it covers the address, else a new one;
permissions and key (R169); the poison bit at each 4 KiB frame entered (R171) (DEDUCED, log entry 8). -/
def accessRun (die : Nat) (ranges : List (Nat × Range)) (p : Pkg) (ctx root : Nat) (user : Bool) (acc : Acc) (kept : Option Tr)
    (va : Word) : Except XErr (Tr × Nat) :=
  let a := va.toNat
  let t? := match kept with
    | some t => if t.covers a && decide (a < 2 ^ 48) then some t else translate die p ranges ctx root va
    | none => translate die p ranges ctx root va
  match t? with
  | none => .error .fault
  | some t =>
    let pa := t.pa a
    if !p.reaches die pa then .error .fault
    else if !t.allows acc user then .error .perm
    else if t.enc && inBulk pa && (assocGet p.keys t.key).isNone then .error .fault
    else if decide (t.frame ≠ some (pa / 4096)) && p.poisoned (pa / 4096) then .error .poison
    else .ok ({ t with frame := some (pa / 4096) }, pa)

/-! ### The storage -/

/-- The sixteen stored bytes of the block that holds a physical address. -/
def blockAt (mem : Mem) (pa : Nat) : List Nat := (mem.bytes (pa / 16 * 16) 16).map (·.toNat)

/-- The key pair under which an access is encrypted, if it is (an access under a pair not loaded has faulted, R169). -/
def Tr.keysFor (t : Tr) (p : Pkg) (pa : Nat) : Option (BitVec 256 × BitVec 256) :=
  if t.enc && inBulk pa then assocGet p.keys t.key else none

/-- A byte of Hold or Bulk as its mapping shows it (R172). -/
def readMapped (p : Pkg) (t : Tr) (pa : Nat) : Byte :=
  match t.keysFor p pa with
  | none => p.mem.read pa
  | some keys =>
    BitVec.ofNat 8 ((xtsBlock true keys (pa / 64) (pa / 16 % 4) (blockAt p.mem pa))[pa % 16]?.getD 0)

/-- Write a byte through its mapping: of an encrypted block the plain bytes are changed and the block is stored again. -/
def writeMapped (p : Pkg) (t : Tr) (pa : Nat) (v : Byte) : Pkg :=
  match t.keysFor p pa with
  | none => { p with mem := p.mem.write pa v }
  | some keys =>
    let plain := xtsBlock true keys (pa / 64) (pa / 16 % 4) (blockAt p.mem pa)
    let stored := xtsBlock false keys (pa / 64) (pa / 16 % 4) (plain.set (pa % 16) v.toNat)
    { p with mem := p.mem.putBytes (pa / 16 * 16) (stored.map (BitVec.ofNat 8)) }

def readMappedN (p : Pkg) (t : Tr) (pa n : Nat) : List Byte := (List.range n).map fun k => readMapped p t (pa + k)
def writeMappedN (p : Pkg) (t : Tr) (pa : Nat) (bs : List Byte) : Pkg :=
  (bs.zip (List.range bs.length)).foldl (fun p x => writeMapped p t (pa + x.2) x.1) p

/-! ### Who translates -/

/-- The translation context and page-table root of a hart: its user context's, or for a handler that runs without one
the number 255, which only entries of every context match, with root 0 (DEDUCED, log entry 9). -/
def Hart.xlat (h : Hart) : Nat × Nat :=
  match h.ctx with
  | some c => (c.tctx, c.root)
  | none => (255, 0)

def Hart.userMode (h : Hart) : Bool := !h.hst.mode

/-- A beacon address for a word or byte access (R170, R188): the physical address, or nothing where the access fails its
alignment, translation or permission, or a write would reach the run, scope or capability table. An atomic reads and writes
(DEDUCED, log entry 98). U counts by the mode the hart is in when the access starts, also for one that a handler has queued and that
starts after its sret (DESIGN CHOICE, log entry 104). -/
def State.beaconAddr (s : State) (va : Word) (bytes : Nat) (write : Bool) (read : Bool := !write) : Option Nat :=
  let x := s.hart.xlat
  if va.toNat % bytes ≠ 0 then none
  else
    match translate s.cur.die s.pkg s.die.ranges x.1 x.2 va with
    | none => none
    | some t =>
      let pa := t.pa va.toNat
      if !inBeacon pa || s.pkg.cutOff s.cur.die (homeDie pa) || (write && !t.allows .write s.hart.userMode) ||
          (read && !t.allows .read s.hart.userMode) then none
      else if write && (inRunTable pa || inScopeTable pa || inCapTable pa) then none
      else some pa

/-! ### The capability table's words (R318) -/

/-- Physical address of a word of the entry of core c of quad q on a die. -/
def capAddr (d q c word : Nat) : Nat := 0x20000000000 + d * 0x400000 + 0x37E000 + 32 * (5 * q + c) + 8 * word

/-- The capability mask in force on a core. -/
def Pkg.capOf (p : Pkg) (h : HartId) : BitVec 64 := p.mem.word (capAddr h.die h.quad h.core 0)

/-- A saturating count in bits [hi : lo] of a word rises by one. -/
def countUp (w : Word) (hi lo : Nat) : Word :=
  if bitsOf w hi lo = 2 ^ (hi + 1 - lo) - 1 then w else w + wordOf (2 ^ lo)

/-- PSN of a core's health word counts an event (R310, R318). -/
def State.countPsn (s : State) (h : HartId) : State :=
  s.mapMem fun m => m.setWord (capAddr h.die h.quad h.core 2) (countUp (m.word (capAddr h.die h.quad h.core 2)) 31 24)

/-- A read of the focused core that reports POISON counts in its PSN (R310, R318). -/
def State.countPoison (s : State) (c : Cause) : State := if c = .poison then s.countPsn s.cur else s

/-- RPL of a core's health word counts a corrected error or replay (R309, R313, R318). -/
def State.countRpl (s : State) (h : HartId) : State :=
  s.mapMem fun m => m.setWord (capAddr h.die h.quad h.core 2) (countUp (m.word (capAddr h.die h.quad h.core 2)) 47 32)

/-! ### Fetching code (R79, R294) -/

/-- The 64-byte line of a physical address holds a unit with an uncorrectable error (R294). -/
def Pkg.lineBad (p : Pkg) (pa : Nat) : Bool := p.bad.any fun u => decide (u / 64 = pa / 64)

/-- The code word at an address as the focused hart fetches it, or AUX of the FETCH trap (R286)
(DEDUCED, log entry 10). -/
def State.fetchWord (s : State) (a : Word) : Except Nat (BitVec 32) :=
  let x := s.hart.xlat
  if a.toNat % 4 ≠ 0 then .error 3
  else
    match accessRun s.cur.die s.die.ranges s.pkg x.1 x.2 s.hart.userMode .exec none a with
    | .error .fault => .error 0
    | .error .perm => .error 1
    | .error _ => .error 2
    | .ok (t, pa) => if s.pkg.lineBad pa then .error 2 else .ok (BitVec.ofNat 32 (leNat (readMappedN s.pkg t pa 4)))

/-- A fetch that met an uncorrectable error in its line sets the poison bit of the frame (R294). -/
def State.fetchNote (s : State) (a : Word) : State :=
  match accessRun s.cur.die s.die.ranges s.pkg s.hart.xlat.1 s.hart.xlat.2 s.hart.userMode .exec none a with
  | .ok (_, pa) => if a.toNat % 4 = 0 ∧ s.pkg.lineBad pa = true then s.noteErr (.bad (pa / 4096)) else s
  | .error _ => s

/-- The word a queue entry was made from. -/
def State.issuedWord (s : State) : BitVec 32 :=
  match s.fetchWord s.hart.pc with
  | .ok w => w
  | .error _ => 0

end Sys2Proof.Machine
end

