-- ==== Sys2Proof/Machine/Runs.lean ====
section
/-! DEFINITION. Runs: handles (R157), descriptors in the run tables (R158, R159), their life cycle (R160, R161, R165),
views (R173, R174), and the bytes of a run's stream. -/
namespace Sys2Proof.Machine

/-! ### Descriptors -/

/-- The states of a descriptor (R159). -/
inductive RunState where
  | free | alloc | opened | sealed | broken | view
deriving DecidableEq, Repr

def RunState.code : RunState → Nat
  | .free => 0 | .alloc => 1 | .opened => 2 | .sealed => 3 | .broken => 4 | .view => 5
def runStateOf (n : Nat) : RunState :=
  match n with
  | 1 => .alloc | 2 => .opened | 3 => .sealed | 4 => .broken | 5 => .view | _ => .free

/-- The writer fields of a header (R159), as their bits [31:13] in one number. -/
structure Writer where
  kind : Nat
  die : Nat
  quad : Nat
  core : Nat
  hart : Nat
  port : Nat
  helm : Bool
deriving DecidableEq, Repr

def Writer.none : Writer := ⟨0, 0, 0, 0, 0, 0, false⟩

/-- A descriptor, field by field (R159); `under` is the translation context and root it was made under, which no field of the
table holds (R174) (DESIGN CHOICE, log entry 101). -/
structure RunD where
  gen : Nat
  state : RunState
  wlog : Nat
  rdrs : Nat
  writer : Writer
  src : Nat
  base : Word
  cap : Word
  mark : Word
  under : Nat × Nat := (0, 0)
deriving DecidableEq, Repr

/-- Physical address of descriptor i of die d (R158). -/
def descAddr (d i : Nat) : Nat := 0x20000000000 + d * 0x400000 + 0x3C0000 + i * 32

def RunD.header (r : RunD) : Word :=
  wordOf (r.gen % 65536 * 2 ^ 48 + r.state.code * 2 ^ 44 + r.wlog % 8 * 2 ^ 41 + r.rdrs % 512 * 2 ^ 32
    + r.writer.kind % 4 * 2 ^ 30 + r.writer.die % 4 * 2 ^ 28 + r.writer.quad % 64 * 2 ^ 22 + r.writer.core % 4 * 2 ^ 20
    + r.writer.hart % 8 * 2 ^ 17 + r.writer.port % 8 * 2 ^ 14 + r.writer.helm.toNat * 2 ^ 13 + r.src % 8192)

def Pkg.desc (p : Pkg) (d i : Nat) : RunD :=
  let h := p.mem.word (descAddr d i)
  { gen := bitsOf h 63 48, state := runStateOf (bitsOf h 47 44), wlog := bitsOf h 43 41, rdrs := bitsOf h 40 32
    writer := { kind := bitsOf h 31 30, die := bitsOf h 29 28, quad := bitsOf h 27 22, core := bitsOf h 21 20
                hart := bitsOf h 19 17, port := bitsOf h 16 14, helm := bitOf h 13 }
    src := bitsOf h 12 0, base := p.mem.word (descAddr d i + 8), cap := p.mem.word (descAddr d i + 16)
    mark := p.mem.word (descAddr d i + 24), under := (assocGet p.runCtx (d, i)).getD (0, 0) }

def Pkg.setDesc (p : Pkg) (d i : Nat) (r : RunD) : Pkg :=
  { p with
    mem := (((p.mem.setWord (descAddr d i) r.header).setWord (descAddr d i + 8) r.base).setWord (descAddr d i + 16)
      r.cap).setWord (descAddr d i + 24) r.mark }

/-- A descriptor is made under a translation context (R174) (DESIGN CHOICE, log entry 101). -/
def Pkg.madeUnder (p : Pkg) (d i : Nat) (x : Nat × Nat) : Pkg := { p with runCtx := assocSet p.runCtx (d, i) x }

/-- A handle's die and index (R157). -/
def handleDie (h : Word) : Nat := bitsOf h 47 46
def handleIdx (h : Word) : Nat := bitsOf h 12 0

/-- The handle of a descriptor (R157). -/
def handleOf (gen d i : Nat) (view : Bool) : Word :=
  wordOf (gen % 65536 * 2 ^ 48 + d % 4 * 2 ^ 46 + view.toNat * 2 ^ 45 + i % 8192)

/-- The descriptor a valid handle names; nothing for a stale one (R157). -/
def Pkg.run (p : Pkg) (h : Word) : Option RunD :=
  let r := p.desc (handleDie h) (handleIdx h)
  if bitsOf h 44 13 = 0 ∧ bitsOf h 63 48 = r.gen ∧ r.gen ≠ 0 ∧ r.state ≠ .free ∧
      bitOf h 45 = decide (r.state = .view) then some r
  else none

/-- The same, seen from the focused die: a die it cannot reach has no run for it (R323) (DEDUCED, log entry 83). -/
def State.run (s : State) (h : Word) : Option RunD :=
  if s.pkg.cutOff s.cur.die (handleDie h) then none else s.pkg.run h

def Pkg.setRun (p : Pkg) (h : Word) (r : RunD) : Pkg := p.setDesc (handleDie h) (handleIdx h) r
def Pkg.modRun (p : Pkg) (h : Word) (f : RunD → RunD) : Pkg :=
  match p.run h with
  | some r => p.setRun h (f r)
  | none => p

/-- Record width in bytes. -/
def RunD.w (r : RunD) : Nat := 2 ^ r.wlog

/-- The descriptor's state on bits [47:44] of its header, read alone. -/
def Pkg.isFree (p : Pkg) (d i : Nat) : Bool := decide ((p.mem.read (descAddr d i + 5)).toNat / 16 = 0)

/-- A FREE descriptor of a die; which of them is free (R176, DESIGN CHOICE, log entry 1). -/
def Pkg.freeDesc (p : Pkg) (d choice : Nat) : Option Nat :=
  ((List.range 8192).find? fun j => p.isFree d ((choice + j) % 8192)).map fun j => (choice + j) % 8192

/-! ### Life cycle (R160) -/

/-- The generation a descriptor is created with: its own, 1 for a descriptor never used (DESIGN CHOICE, log entry 2). -/
def RunD.genNow (r : RunD) : Nat := if r.gen = 0 then 1 else r.gen

/-- The next generation (R165). -/
def nextGen (g : Nat) : Nat := if 65535 ≤ g then 1 else g + 1

def RunD.create (r : RunD) (wlog : Nat) (base cap : Word) : RunD :=
  { r with gen := r.genNow, state := .alloc, wlog := wlog, rdrs := 0, writer := .none, src := 0, base := base
           cap := cap, mark := 0 }
def RunD.bindWrite (r : RunD) (w : Writer) : RunD := { r with state := .opened, writer := w }
def RunD.unbindWrite (r : RunD) : RunD := { r with state := .alloc, writer := .none }
def RunD.break (r : RunD) : RunD := { r with state := .broken, writer := .none }
def RunD.seal (r : RunD) : RunD := { r with state := .sealed, writer := .none }
def RunD.release (r : RunD) : RunD :=
  { r with gen := nextGen r.gen, state := .free, rdrs := 0, writer := .none, src := 0 }
def RunD.addReader (r : RunD) : RunD := { r with rdrs := r.rdrs + 1 }
def RunD.dropReader (r : RunD) : RunD := { r with rdrs := r.rdrs - 1 }

/-- Whether the operands of `rmk` are in order (R177). -/
def rmkOk (a cap : Word) : Bool :=
  let w := 2 ^ bitsOf a 2 0
  decide (bitsOf a 63 48 = 0 ∧ bitsOf a 5 3 = 0 ∧ bitsOf a 2 0 ≠ 7 ∧ cap ≠ 0 ∧ cap.toNat < 2 ^ 40 ∧
    cap.toNat * w ≤ 2 ^ 47 ∧ bitsOf a 47 6 * 64 + cap.toNat * w ≤ 2 ^ 48)

/-- The base address in the first operand of `rmk`. -/
def rmkBase (a : Word) : Word := wordOf (bitsOf a 47 6 * 64)

/-- Whether the operands of `rview` fit a source (R177, R173). -/
def rviewOk (r : RunD) (b : Word) : Bool :=
  let e := 2 ^ bitsOf b 32 32
  let cols := bitsOf b 31 0
  decide (bitsOf b 63 33 = 0 ∧ r.state = .sealed ∧ e ∣ r.w ∧ cols ≠ 0 ∧ r.mark.toNat * r.w % (e * cols) = 0)

/-- The VIEW descriptor over a source (R159, R173). Of rows that do not fit CAP[63:32], which no rule forbids, the low 32 bits are kept
(DESIGN CHOICE, log entry 103). -/
def RunD.viewOf (r : RunD) (srcIx : Nat) (source : RunD) (b : Word) : RunD :=
  let e := 2 ^ bitsOf b 32 32
  let cols := bitsOf b 31 0
  let rows := source.mark.toNat * source.w / (e * cols)
  { r with gen := r.genNow, state := .view, wlog := bitsOf b 32 32, rdrs := 0, writer := .none, src := srcIx
           base := source.base, cap := wordOf (rows * 2 ^ 32 + cols), mark := wordOf (rows * cols) }

/-! ### The stream -/

/-- The DVA of byte b of a run's stream; in a view, of the source byte behind it (R156, R173). -/
def RunD.byteAddr (r : RunD) (b : Nat) : Word :=
  if r.state = .view then
    let e := r.w
    let rows := bitsOf r.cap 63 32
    let cols := bitsOf r.cap 31 0
    let k := b / e
    wordOf (r.base.toNat + (k % rows * cols + k / rows) * e + b % e)
  else wordOf (r.base.toNat + b)

/-- What a read of n bytes from stream byte b meets (R163): data, a wait at MARK, or the end with its status. -/
inductive Avail where
  | ready | wait | ended | broken
deriving DecidableEq, Repr

def RunD.avail (r : RunD) (b n : Nat) : Avail :=
  if n = 0 ∨ (b + n - 1) / r.w < r.mark.toNat then .ready
  else
    match r.state with
    | .alloc => .wait
    | .opened => .wait
    | .broken => .broken
    | _ => .ended

/-- Who translates for a transfer: the die's range entries, the context, its root and mode. -/
structure Xl where
  die : Nat
  ctx : Nat
  root : Nat
  user : Bool

/-- Who translates for the bytes of a run: of a view, in the context its source was made under (R174)
(DESIGN CHOICE, log entry 101). -/
def Xl.reading (x : Xl) (r : RunD) : Xl := if r.state = .view then { x with ctx := r.under.1, root := r.under.2 } else x

/-- Translate one byte of a stream. -/
def State.streamAt (s : State) (x : Xl) (r : RunD) (acc : Acc) (t : Option Tr) (b : Nat) : Except XErr (Tr × Nat) :=
  let y := x.reading r
  accessRun y.die (s.getDie y.die).ranges s.pkg y.ctx y.root y.user acc t (r.byteAddr b)

/-- Read n bytes of a stream from byte b, translating as R169 has it; one that lies in a unit with an uncorrectable error stops
the read (R171). -/
def State.readStream (s : State) (x : Xl) (r : RunD) (t : Option Tr) : Nat → Nat → Except XErr (Option Tr × List Byte)
  | _, 0 => .ok (t, [])
  | b, n + 1 =>
    match s.streamAt x r .read t b with
    | .error e => .error e
    | .ok (t', pa) =>
      if s.pkg.bad.contains (eccUnit pa) then .error (.bad (pa / 4096))
      else
      match s.readStream x r (some t') (b + 1) n with
      | .error e => .error e
      | .ok (t'', bs) => .ok (t'', readMapped s.pkg t' pa :: bs)

/-- The translations a write of n bytes from stream byte b needs, with the physical addresses. -/
def State.writeAddrs (s : State) (x : Xl) (r : RunD) (t : Option Tr) : Nat → Nat → Except XErr (Option Tr × List (Tr × Nat))
  | _, 0 => .ok (t, [])
  | b, n + 1 =>
    match s.streamAt x r .write t b with
    | .error e => .error e
    | .ok (t', pa) =>
      match s.writeAddrs x r (some t') (b + 1) n with
      | .error e => .error e
      | .ok (t'', l) => .ok (t'', (t', pa) :: l)

/-- Write bytes to a stream from byte b: all of them or, at a fault, none. -/
def State.writeStream (s : State) (x : Xl) (r : RunD) (t : Option Tr) (b : Nat) (bs : List Byte) :
    Except XErr (Option Tr × State) :=
  match s.writeAddrs x r t b bs.length with
  | .error e => .error e
  | .ok (t', l) =>
    .ok (t', s.mapPkg fun p => ((l.zip bs).foldl (fun p y => writeMapped p y.1.1 y.1.2 y.2) p).rewritten (l.map (·.2)))

/-- The first check of a bind or start at a stream byte (R169, R171); none where there is no record to check. -/
def State.checkStream (s : State) (x : Xl) (r : RunD) (acc : Acc) (b : Nat) : Except XErr (Option Tr) :=
  match s.streamAt x r acc none b with
  | .error e => .error e
  | .ok (t, _) => .ok (some t)

/-- Drop a reader from the run a handle names; releasing a view drops the source's reader too when the view is freed. -/
def Pkg.dropReader (p : Pkg) (h : Word) : Pkg := p.modRun h RunD.dropReader

/-- Publish MARK (R162). -/
def Pkg.publish (p : Pkg) (h : Word) (n : Nat) : Pkg := p.modRun h fun r => { r with mark := wordOf n }

/-! ### Ports (R178, R180) -/

def layoutStride (l : Word) : Nat := bitsOf l 63 48
def layoutOff (l : Word) : Nat := bitsOf l 37 32
def layoutNb (l : Word) : Nat := bitsOf l 27 24
def layoutWrite (l : Word) : Bool := bitOf l 3
def layoutPort (l : Word) : Nat := bitsOf l 2 0

/-- A layout word keeps R178. -/
def layoutOk (l : Word) : Bool :=
  decide (bitsOf l 47 38 = 0 ∧ bitsOf l 31 28 = 0 ∧ bitsOf l 23 4 = 0 ∧ layoutNb l ≠ 1 ∧ layoutNb l ≤ 8 ∧
    (layoutStride l = 0 → layoutOff l = 0) ∧ (layoutWrite l = true → layoutStride l = 0 ∧ layoutOff l = 0))

def PortSt.write (p : PortSt) : Bool := layoutWrite p.layout

/-- The status word of a port (R180). -/
def PortSt.status (p : PortSt) : Word :=
  if p.bound then
    wordOf (2 ^ 63 + p.write.toNat * 2 ^ 62 + p.atEnd.toNat * 2 ^ 61 + p.broken.toNat * 2 ^ 60 + p.last % 2 ^ 14)
  else 0

/-- A port just bound (R179, R180). -/
def PortSt.bindAt (h l : Word) (pos : Nat) (t : Option Tr) : PortSt :=
  { bound := true, handle := h, layout := l, pos := pos, atEnd := false, broken := false, last := 0, tr := t }

/-- Stream bytes of an element of w bytes at a port's position (R182). -/
def PortSt.elemByte (p : PortSt) (recW : Nat) : Nat :=
  if layoutStride p.layout = 0 then p.pos else p.pos * recW + layoutOff p.layout

/-- The position after an element of w bytes (R182). -/
def PortSt.step (p : PortSt) (w : Nat) : PortSt :=
  { p with pos := p.pos + if layoutStride p.layout = 0 then w else layoutStride p.layout }

/-- What a bind does (R179), in the order of its checks. -/
inductive BindRes where
  | inval | stale | runend | busy
  | fail (e : XErr)
  | ok (p : PortSt)

/-- Bind a port to a run for a writer identity (R179): the result and the package after it (DEDUCED, log entry 8). -/
def State.bindPort (s : State) (x : Xl) (w : Writer) (bound : Bool) (h l : Word) : BindRes × State :=
  if bound || !layoutOk l then (.inval, s)
  else
    match s.run h with
    | none => (.stale, s)
    | some r =>
      if layoutWrite l then
        match r.state with
        | .alloc =>
          let pos := r.mark.toNat * r.w
          match (if r.mark.toNat < r.cap.toNat then s.checkStream x r .write pos else .ok none) with
          | .error e => (.fail e, s)
          | .ok t => (.ok (PortSt.bindAt h l pos t), s.mapPkg fun p => p.setRun h (r.bindWrite w))
        | .opened => (.busy, s)
        | _ => (.runend, s)
      else if r.rdrs = 511 then (.busy, s)
      else
        match s.checkStream x r .read 0 with
        | .error e => (.fail e, s)
        | .ok t => (.ok (PortSt.bindAt h l 0 t), s.mapPkg fun p => p.setRun h r.addReader)

/-- The zero fill of a partial record at an unbind or a seal (R185): the run published in full, or the failure. -/
def State.fillPartial (s : State) (x : Xl) (p : PortSt) : Except XErr State :=
  match s.run p.handle with
  | none => .ok s
  | some r =>
    if p.pos % r.w = 0 then .ok s
    else
      match s.writeStream x r p.tr p.pos (List.replicate (r.w - p.pos % r.w) 0) with
      | .error e => .error e
      | .ok (_, s) => .ok (s.mapPkg fun g => g.publish p.handle (p.pos / r.w + 1))

/-- Unbind or seal a bound port (R179, R164): a reader leaves RDRS, a writer fills its partial record and gives the run
up as `f` says. A run of a die out of reach is left as it is (R323). -/
def State.closePort (s : State) (x : Xl) (p : PortSt) (f : RunD → RunD) : Except XErr State :=
  if s.pkg.cutOff x.die (handleDie p.handle) then .error .fault
  else if p.write then
    match s.fillPartial x p with
    | .error e => .error e
    | .ok s => .ok (s.mapPkg fun g => g.modRun p.handle f)
  else .ok (s.mapPkg fun g => g.dropReader p.handle)

/-- A kill ends a port: a writer's run becomes BROKEN with no fill, a reader leaves (R185, R266). -/
def Pkg.breakPort (g : Pkg) (p : PortSt) : Pkg :=
  if !p.bound then g
  else if p.write then g.modRun p.handle RunD.break
  else g.dropReader p.handle

end Sys2Proof.Machine
end

