-- ==== Sys2Proof/Machine/Flags.lean ====
section
/-! DEFINITION. Number formats, rounding and every flag computation (03_number_formats.md): FP32 and BF16 values,
rounding of exact dyadic numbers, arithmetic, comparison, conversion, the block formats and E8M0. -/
namespace Sys2Proof.Machine

/-! ### Integers (R50) -/

def loBound (w : Nat) (signed : Bool) : Int := if signed then -(2 ^ (w - 1) : Nat) else 0
def hiBound (w : Nat) (signed : Bool) : Int := if signed then (2 ^ (w - 1) : Nat) - 1 else (2 ^ w : Nat) - 1

/-- `sat_int` (R50). -/
def satInt (x : Int) (w : Nat) (signed : Bool) : Int := max (loBound w signed) (min x (hiBound w signed))

/-- The w-bit pattern of an integer, modulo 2^w (R50). -/
def wrapNat (w : Nat) (x : Int) : Nat := (x % (2 ^ w : Nat)).toNat

/-- A w-bit pattern read as INTw. -/
def asInt (w : Nat) (x : Nat) : Int := if 2 * (x % 2 ^ w) < 2 ^ w then (x % 2 ^ w : Nat) else (x % 2 ^ w : Nat) - (2 ^ w : Nat)

/-! ### Flags (R11) -/

def fNV : FFlags := 16
def fDZ : FFlags := 8
def fOF : FFlags := 4
def fUF : FFlags := 2
def fNX : FFlags := 1

/-! ### Values (R51 to R53) -/

/-- Fraction width of a format (R51, R52). -/
def FFmt.frac : FFmt → Nat
  | .f32 => 23 | .bf16 => 7

/-- What an FP encoding stands for: a NaN, quiet or signalling; an infinity; or (−1)^neg × m × 2^e. -/
inductive FVal where
  | nan (signalling : Bool)
  | inf (neg : Bool)
  | fin (neg : Bool) (m : Nat) (e : Int)
deriving DecidableEq, Repr

/-- Sign, exponent field and fraction of an encoding. -/
def fSign (f : FFmt) (x : Nat) : Bool := decide (x / 2 ^ (8 + f.frac) % 2 = 1)
def fExp (f : FFmt) (x : Nat) : Nat := x / 2 ^ f.frac % 256
def fFrac (f : FFmt) (x : Nat) : Nat := x % 2 ^ f.frac

/-- Classification of an encoding (R53). -/
def fVal (f : FFmt) (x : Nat) : FVal :=
  let F := f.frac
  if fExp f x = 255 then
    (if fFrac f x = 0 then .inf (fSign f x) else .nan (decide (fFrac f x / 2 ^ (F - 1) = 0)))
  else if fExp f x = 0 then .fin (fSign f x) (fFrac f x) (-126 - (F : Int))
  else .fin (fSign f x) (2 ^ F + fFrac f x) ((fExp f x : Int) - 127 - (F : Int))

def isNaN (f : FFmt) (x : Nat) : Bool := decide (fExp f x = 255 ∧ fFrac f x ≠ 0)
def isSNaN (f : FFmt) (x : Nat) : Bool := isNaN f x && decide (fFrac f x / 2 ^ (f.frac - 1) = 0)
def isInf (f : FFmt) (x : Nat) : Bool := decide (fExp f x = 255 ∧ fFrac f x = 0)
def isZero (f : FFmt) (x : Nat) : Bool := decide (fExp f x = 0 ∧ fFrac f x = 0)

def signBit (f : FFmt) (neg : Bool) : Nat := if neg then 2 ^ (8 + f.frac) else 0
/-- The default NaN (R53). -/
def defNaN (f : FFmt) : Nat := 255 * 2 ^ f.frac + 2 ^ (f.frac - 1)
def infBits (f : FFmt) (neg : Bool) : Nat := signBit f neg + 255 * 2 ^ f.frac
def maxFinite (f : FFmt) (neg : Bool) : Nat := signBit f neg + 255 * 2 ^ f.frac - 1
def zeroBits (f : FFmt) (neg : Bool) : Nat := signBit f neg
/-- `quiet` (R59). -/
def quiet (f : FFmt) (x : Nat) : Nat := if x / 2 ^ (f.frac - 1) % 2 = 0 then x + 2 ^ (f.frac - 1) else x
/-- An operand with its sign bit flipped (R85). -/
def negBits (f : FFmt) (x : Nat) : Nat :=
  if fSign f x then x - 2 ^ (8 + f.frac) else x + 2 ^ (8 + f.frac)

/-! ### Rounding (R57) -/

/-- m × 2^e rounded to a multiple of 2^q in a mode: the multiple, and whether bits were lost. -/
def roundAt (rm : Rm) (neg : Bool) (m : Nat) (e q : Int) : Nat × Bool :=
  if q ≤ e then (m * 2 ^ (e - q).toNat, false)
  else
    let k := (q - e).toNat
    let n := m / 2 ^ k
    let r := m % 2 ^ k
    let up := match rm with
      | .rne => decide (2 * r > 2 ^ k) || (decide (2 * r = 2 ^ k) && decide (n % 2 = 1))
      | .rtz => false
      | .rdn => neg && decide (r ≠ 0)
      | .rup => !neg && decide (r ≠ 0)
    (if up then n + 1 else n, decide (r ≠ 0))

/-- Rounding of the nonzero magnitude m × 2^e of a sign into a format: the encoding and its flags (R57). -/
def roundMag (f : FFmt) (rm : Rm) (neg : Bool) (m : Nat) (e : Int) : Nat × FFlags :=
  let F : Int := f.frac
  let lead : Int := (Nat.log2 m : Int) + e
  let q : Int := max lead (-126) - F
  let (n, lost) := roundAt rm neg m e q
  let bits := (q + 126 + F).toNat * 2 ^ f.frac + n
  if 255 * 2 ^ f.frac ≤ bits then
    let big := match rm with
      | .rne => true | .rtz => false | .rdn => neg | .rup => !neg
    (if big then infBits f neg else maxFinite f neg, fOF ||| fNX)
  else
    let nu := (roundAt rm neg m e (lead - F)).1
    let tiny := decide (lead < -126) && !(decide (lead = -127) && decide (nu = 2 ^ (f.frac + 1)))
    (signBit f neg + bits, (if lost then fNX else 0) ||| (if tiny && lost then fUF else 0))

/-- `round_f32` and `round_bf16` of an exact integer multiple of 2^e; an exact zero takes the sign given. -/
def roundDyadic (f : FFmt) (rm : Rm) (x : Int) (e : Int) (zeroNeg : Bool) : Nat × FFlags :=
  if x = 0 then (zeroBits f zeroNeg, 0) else roundMag f rm (decide (x < 0)) x.natAbs e

/-! ### Arithmetic (R57 to R60) -/

/-- The first NaN of a list of sources, quieted, with NV if any source is signalling (R59). -/
def nanOf (f : FFmt) (srcs : List Nat) : Option (Nat × FFlags) :=
  match srcs.find? (isNaN f) with
  | some x => some (quiet f x, if srcs.any (isSNaN f) then fNV else 0)
  | none => none

/-- The exact sum of two finite values as an integer multiple of 2^e. -/
def exactSum (n1 : Bool) (m1 : Nat) (e1 : Int) (n2 : Bool) (m2 : Nat) (e2 : Int) : Int × Int :=
  let e := min e1 e2
  let a : Int := (m1 * 2 ^ (e1 - e).toNat : Nat)
  let b : Int := (m2 * 2 ^ (e2 - e).toNat : Nat)
  ((if n1 then -a else a) + (if n2 then -b else b), e)

/-- Sign of an exact zero sum: that of two zeros alike, else + but in RDN − (R57). -/
def zeroSign (rm : Rm) (n1 n2 : Bool) : Bool := if n1 = n2 then n1 else decide (rm = .rdn)

/-- `add` of two values that are not NaNs. -/
def addVal (f : FFmt) (rm : Rm) (a b : FVal) : Nat × FFlags :=
  match a, b with
  | .inf n, .inf n' => if n = n' then (infBits f n, 0) else (defNaN f, fNV)
  | .inf n, _ => (infBits f n, 0)
  | _, .inf n => (infBits f n, 0)
  | .fin n1 m1 e1, .fin n2 m2 e2 =>
    let (x, e) := exactSum n1 m1 e1 n2 m2 e2
    roundDyadic f rm x e (zeroSign rm n1 n2)
  | _, _ => (defNaN f, 0)

/-- `add_f32`, `add_bf16`: sources in NaN order (R57, R59). -/
def fAdd (f : FFmt) (rm : Rm) (a b : Nat) : Nat × FFlags :=
  match nanOf f [a, b] with
  | some r => r
  | none => addVal f rm (fVal f a) (fVal f b)

/-- The product of two values that are not NaNs; `none` is 0 × ∞. -/
def mulVal (a b : FVal) : Option FVal :=
  match a, b with
  | .inf n, .inf n' => some (.inf (n != n'))
  | .inf n, .fin n' m _ => if m = 0 then none else some (.inf (n != n'))
  | .fin n m _, .inf n' => if m = 0 then none else some (.inf (n != n'))
  | .fin n1 m1 e1, .fin n2 m2 e2 => some (.fin (n1 != n2) (m1 * m2) (e1 + e2))
  | _, _ => none

def roundVal (f : FFmt) (rm : Rm) : FVal → Nat × FFlags
  | .nan _ => (defNaN f, 0)
  | .inf n => (infBits f n, 0)
  | .fin n m e => if m = 0 then (zeroBits f n, 0) else roundMag f rm n m e

/-- `mul_f32`, `mul_bf16` (R57, R59). -/
def fMul (f : FFmt) (rm : Rm) (a b : Nat) : Nat × FFlags :=
  match nanOf f [a, b] with
  | some r => r
  | none =>
    match mulVal (fVal f a) (fVal f b) with
    | none => (defNaN f, fNV)
    | some v => roundVal f rm v

/-- `fma_f32`, `fma_bf16` of a × b + c, rounded once. `nans` gives the sources in the NaN order of the instruction. -/
def fFma (f : FFmt) (rm : Rm) (a b c : Nat) (nans : List Nat) : Nat × FFlags :=
  let zeroInf := (isZero f a && isInf f b) || (isInf f a && isZero f b)
  match nanOf f nans with
  | some (x, fl) => (x, if zeroInf then fl ||| fNV else fl)
  | none =>
    match mulVal (fVal f a) (fVal f b) with
    | none => (defNaN f, fNV)
    | some p => addVal f rm p (fVal f c)

/-- The place of a non-NaN value on the line, −0 and +0 alike. -/
def fKey (f : FFmt) (x : Nat) : Int :=
  let mag : Int := (x % 2 ^ (8 + f.frac) : Nat)
  if fSign f x then -mag else mag

/-- The place of a non-NaN value with −0 below +0 (R60). -/
def fKeyZ (f : FFmt) (x : Nat) : Int := 2 * fKey f x - (if fSign f x then 1 else 0)

/-- `min` and `max` (R60). -/
def fMinMax (f : FFmt) (wantMax : Bool) (a b : Nat) : Nat × FFlags :=
  let nv : FFlags := if isSNaN f a || isSNaN f b then fNV else 0
  if isNaN f a then (if isNaN f b then quiet f a else b, nv)
  else if isNaN f b then (a, nv)
  else
    let aFirst := if wantMax then decide (fKeyZ f b ≤ fKeyZ f a) else decide (fKeyZ f a ≤ fKeyZ f b)
    (if aFirst then a else b, nv)

/-- a = b, with −0 = +0; a NaN is equal to nothing (R86). -/
def fEq (f : FFmt) (a b : Nat) : Bool := !isNaN f a && !isNaN f b && decide (fKey f a = fKey f b)
def fLt (f : FFmt) (a b : Nat) : Bool := !isNaN f a && !isNaN f b && decide (fKey f a < fKey f b)
def fLe (f : FFmt) (a b : Nat) : Bool := !isNaN f a && !isNaN f b && decide (fKey f a ≤ fKey f b)
/-- NV of a quiet comparison and of an ordered one (R86, R128). -/
def nvQuiet (f : FFmt) (a b : Nat) : FFlags := if isSNaN f a || isSNaN f b then fNV else 0
def nvOrdered (f : FFmt) (a b : Nat) : FFlags := if isNaN f a || isNaN f b then fNV else 0

/-- The class mask of `fclass` (R87). -/
def fClass (f : FFmt) (x : Nat) : Nat :=
  let n := fSign f x
  if isNaN f x then (if isSNaN f x then 2 ^ 8 else 2 ^ 9)
  else if isInf f x then (if n then 2 ^ 0 else 2 ^ 7)
  else if isZero f x then (if n then 2 ^ 3 else 2 ^ 4)
  else if fExp f x = 0 then (if n then 2 ^ 2 else 2 ^ 5)
  else (if n then 2 ^ 1 else 2 ^ 6)

/-! ### Square roots -/

/-- The largest r with r² ≤ m among those whose bits lie below the fuel. -/
def isqrtBits : Nat → Nat → Nat → Nat
  | 0, _, r => r
  | k + 1, m, r => isqrtBits k m (if (r + 2 ^ k) * (r + 2 ^ k) ≤ m then r + 2 ^ k else r)

/-- ⌊√m⌋ for m below 2^128. -/
def isqrt (m : Nat) : Nat := isqrtBits 64 m 0

/-- `fsqrt` (R57 to R59, R82). The root is formed to more bits than any rounding needs, with a last bit for the rest. -/
def fSqrt (rm : Rm) (x : Nat) : Nat × FFlags :=
  match nanOf .f32 [x] with
  | some r => r
  | none =>
    match fVal .f32 x with
    | .inf n => if n then (defNaN .f32, fNV) else (x, 0)
    | .nan _ => (defNaN .f32, 0)
    | .fin n m e =>
      if m = 0 then (x, 0)
      else if n then (defNaN .f32, fNV)
      else
        let m' := if e % 2 = 0 then m else 2 * m
        let e' := if e % 2 = 0 then e else e - 1
        let big := m' * 2 ^ 64
        let r := isqrt big
        roundMag .f32 rm false (2 * r + (if r * r = big then 0 else 1)) (e' / 2 - 33)

/-! ### Conversions (R61) -/

/-- `bf16_to_f32`: an exact bit copy. -/
def bfToF32 (h : Nat) : Nat := h % 2 ^ 16 * 2 ^ 16

/-- `f32_to_bf16`. -/
def f32ToBf (rm : Rm) (x : Nat) : Nat × FFlags :=
  if isNaN .f32 x then (quiet .bf16 (x / 2 ^ 16 % 2 ^ 16), if isSNaN .f32 x then fNV else 0)
  else roundVal .bf16 rm (fVal .f32 x)

/-- m × 2^e of a sign rounded to an integer. -/
def roundInt (rm : Rm) (neg : Bool) (m : Nat) (e : Int) : Int × Bool :=
  let (n, lost) := roundAt rm neg m e 0
  (if neg then -(n : Int) else n, lost)

/-- `f32_to_int`: the w-bit pattern and its flags. -/
def f32ToInt (rm : Rm) (w : Nat) (signed : Bool) (x : Nat) : Nat × FFlags :=
  match fVal .f32 x with
  | .nan _ => (0, fNV)
  | .inf n => (wrapNat w (if n then loBound w signed else hiBound w signed), fNV)
  | .fin n m e =>
    let (y, lost) := roundInt rm n m e
    if y < loBound w signed ∨ hiBound w signed < y then (wrapNat w (satInt y w signed), fNV)
    else (wrapNat w y, if lost then fNX else 0)

/-- `int_to_f32`, `int_to_bf16`. -/
def intToF (f : FFmt) (rm : Rm) (i : Int) : Nat × FFlags := roundDyadic f rm i 0 false

/-! ### Block formats and E8M0 (R54, R55, R62, R63) -/

/-- `dec_bfp`: exact, no flag. -/
def decBfp (m : Int) (E b : Nat) : Nat :=
  if E = 255 then defNaN .f32 else (roundDyadic .f32 .rne m ((E : Int) - 127 - ((b : Int) - 1)) false).1

/-- `sat_bfp`: the b-bit code of an FP32 value under scale E, and its flags. -/
def satBfp (x E b : Nat) : Nat × FFlags :=
  let top : Int := (2 ^ (b - 1) : Nat) - 1
  if E = 255 then (0, 0)
  else
    match fVal .f32 x with
    | .nan _ => (0, fNV)
    | .inf n => (wrapNat b (if n then -top else top), fOF ||| fNX)
    | .fin n m e =>
      let (y, lost) := roundInt .rne n m (e + ((b : Int) - 1) - ((E : Int) - 127))
      if y > top then (wrapNat b top, fOF ||| fNX)
      else if y < -top then (wrapNat b (-top), fOF ||| fNX)
      else (wrapNat b y, if lost then fNX else 0)

/-- `e8m0_of` of a nonnegative FP32 value that is no NaN (R62). -/
def e8m0Of (x : Nat) : Nat :=
  match fVal .f32 x with
  | .nan _ => 0xFF
  | .inf _ => 0xFE
  | .fin _ m e => if m = 0 then 0 else (min (max ((Nat.log2 m : Int) + e + 128) 0) 0xFE).toNat

/-- `fold_max_e8m0` and `fold_min_e8m0` (R63). -/
def foldMaxE (old new : Nat) : Nat := max old new
def foldMinE (old new : Nat) : Nat := if old = 255 ∨ new = 255 then 255 else min old new

/-! ### The order of sums (R64 to R66) -/

/-- Flags with the element index each step is attributed to. -/
abbrev Raised := List (FFlags × Nat)

/-- The OR of the flags raised. -/
def Raised.flags (r : Raised) : FFlags := r.foldl (fun a p => a ||| p.1) 0

/-- The lowest index at which flag bit k was raised. -/
def Raised.low (r : Raised) (k : Nat) : Option Nat :=
  (r.filter fun p => p.1.getLsbD k).foldl (fun a p => match a with
    | none => some p.2
    | some i => some (min i p.2)) none

/-- The lowest indices in the order NV DZ OF UF NX (R111). -/
def Raised.lows (r : Raised) : List (Option Nat) := [r.low 4, r.low 3, r.low 2, r.low 1, r.low 0]

/-- `vredo`: fold the active elements in index order (R64). -/
def foldOrdered (comb : Nat → Nat → Nat × FFlags) (init : Nat) (xs : List (Nat × Nat)) : Nat × Raised :=
  xs.foldl (fun acc p => let r := comb acc.1 p.2; (r.1, acc.2 ++ [(r.2, p.1)])) (init, [])

/-- A position of the tree: a value with the lowest active index it covers, or EMPTY (R65). -/
abbrev TreePos := Option (Nat × Nat)

/-- `comb` of two positions: attributed to the lowest active index of the second operand (R66). -/
def combPos (comb : Nat → Nat → Nat × FFlags) (p q : TreePos) : TreePos × Raised :=
  match p, q with
  | none, _ => (q, [])
  | _, none => (p, [])
  | some (x, i), some (y, j) => let r := comb x y; (some (r.1, i), [(r.2, j)])

/-- One level of the tree: neighbours join. -/
def treeLevel (comb : Nat → Nat → Nat × FFlags) : List TreePos → List TreePos × Raised
  | p :: q :: rest =>
    let r := combPos comb p q
    let t := treeLevel comb rest
    (r.1 :: t.1, r.2 ++ t.2)
  | [p] => ([p], [])
  | [] => ([], [])

def treeReduce (comb : Nat → Nat → Nat × FFlags) : Nat → List TreePos → Raised → TreePos × Raised
  | 0, ps, r => (ps.headD none, r)
  | k + 1, ps, r =>
    match ps with
    | [p] => (p, r)
    | ps => let t := treeLevel comb ps; treeReduce comb k t.1 (r ++ t.2)

/-- The number of levels of the tree over VL elements: the least k with VL ≤ 2^k. -/
def treeDepth (vl : Nat) : Nat := if vl ≤ 1 then 0 else Nat.log2 (vl - 1) + 1

/-- `vredt`: the tree over positions 0 to P − 1, the initial operand joining last (R65). -/
def foldTree (comb : Nat → Nat → Nat × FFlags) (init vl : Nat) (xs : List (Nat × Nat)) : Nat × Raised :=
  let P := 2 ^ treeDepth vl
  let leaves : List TreePos := (List.range P).map fun j => (xs.find? fun p => p.1 = j).map fun p => (p.2, p.1)
  let (t, r) := treeReduce comb (treeDepth vl + 1) leaves []
  match t with
  | none => (init, r)
  | some (y, _) =>
    let c := comb init y
    (c.1, r ++ [(c.2, (xs.map (·.1)).foldl min ((xs.map (·.1)).headD 0))])

end Sys2Proof.Machine
end

