-- ==== Sys2Proof/Machine/Operands.lean ====
section
/-! DEFINITION. Every operand form of the vector classes: the geometry of register groups (R95 to R101), reads and
writes of elements and mask bits, the fill policies (R104), the operands each queue entry reads and writes with their
checks (R101, R119), and the race rules of the back end (R107 to R109). -/
namespace Sys2Proof.Machine

/-! ### Configuration -/

/-- SEW of a VCFG value, in bits (R98). -/
def sewOf (vcfg : BitVec 9) : Nat := 8 * 2 ^ (vcfg.toNat % 4)

/-- Eight times G of a VCFG value; 0 for the reserved code (R98). -/
def g8Of (vcfg : BitVec 9) : Nat :=
  match vcfg.toNat / 4 % 8 with
  | 0 => 8 | 1 => 16 | 2 => 32 | 3 => 64 | 5 => 1 | 6 => 2 | 7 => 4 | _ => 0

/-- The block size B of a VCFG value; 0 for the reserved code (R98). -/
def bsOf (vcfg : BitVec 9) : Nat :=
  match vcfg.toNat / 32 % 4 with
  | 0 => 8 | 1 => 16 | 2 => 32 | _ => 0

def tpOf (vcfg : BitVec 9) : Bool := vcfg.getLsbD 7
def mpOf (vcfg : BitVec 9) : Bool := vcfg.getLsbD 8

/-- Whether a VCFG value carries no reserved code (R98). -/
def vcfgOk (vcfg : BitVec 9) : Bool := decide (g8Of vcfg ≠ 0 ∧ bsOf vcfg ≠ 0)

/-- Leff (R100). -/
def Hart.leff (h : Hart) : Nat := if h.hst.prot then h.lanes / 2 else h.lanes

/-- VLMAX of a configuration (R100). -/
def vlmaxOf (leff : Nat) (vcfg : BitVec 9) (cap : Nat) : Nat :=
  let n := 256 / sewOf vcfg * leff * g8Of vcfg / 8
  if cap = 0 then n else min n cap

def Hart.vlmax (h : Hart) : Nat := vlmaxOf h.leff h.vcfg h.vcap

/-! ### Bits, elements, groups -/

/-- Bits [lo + len − 1 : lo] as a number. -/
def getBits (x : VBits) (lo len : Nat) : Nat := x.toNat / 2 ^ lo % 2 ^ len

/-- Replace bits [lo + len − 1 : lo]. -/
def putBits (x : VBits) (lo len v : Nat) : VBits :=
  BitVec.ofNat 8192 (x.toNat - getBits x lo len * 2 ^ lo + v % 2 ^ len * 2 ^ lo)

abbrev VFile := Vector VBits 32
abbrev MFile := Vector MBits 8

def ixV (r : Nat) : VReg := ⟨r % 32, Nat.mod_lt _ (by decide)⟩
def ixM (r : Nat) : MReg := ⟨r % 8, Nat.mod_lt _ (by decide)⟩

/-- The register and the lowest bit of element i of the group based at a register (R97). -/
def elemPlace (leff w base i : Nat) : VReg × Nat :=
  let slot := i / leff
  let e := 256 / w
  (ixV (base + slot / e), 256 * (i % leff) + w * (slot % e))

def vget (v : VFile) (leff w base i : Nat) : Nat :=
  let p := elemPlace leff w base i
  getBits v[p.1] p.2 w

def vput (v : VFile) (leff w base i x : Nat) : VFile :=
  let p := elemPlace leff w base i
  v.set p.1 (putBits v[p.1] p.2 w x)

/-- The same in every mirror lane (R97, R314): lanes leff to 2 leff − 1 copy lanes 0 to leff − 1. -/
def mirrorBits (leff : Nat) (x : VBits) : VBits :=
  let low := x.toNat % 2 ^ (256 * leff)
  BitVec.ofNat 8192 (low + low * 2 ^ (256 * leff))

/-- Registers an operand of element width w takes: max(1, EG) (R101) (DEDUCED, log entry 35). -/
def groupRegs (g8 sew w : Nat) : Nat := max 1 (g8 * w / sew / 8)

/-! ### What an entry sees -/

/-- What a queue entry reads: the configuration and the registers as it reads them (`v`, `m`), which after an unchecked
race differ from the registers its results are laid over (`v0`, `m0`). `sel` is the selected mask, all ones when
M = 0b000. -/
structure VEnv where
  leff : Nat
  vl : Nat
  sew : Nat
  g8 : Nat
  bs : Nat
  tp : Bool
  mp : Bool
  rm : Rm
  fm : MBits
  sel : MBits
  v : VFile
  vb : VFile
  m : MFile
  v0 : VFile
  m0 : MFile
  sv : List Word
  dones : List Nat

/-- An element of a resumed entry that was done before it stopped (R287, R293): its rank lies below DONE of its group. -/
def VEnv.isDone (e : VEnv) (i : Nat) : Bool :=
  match e.dones[i % e.leff / 4]? with
  | some n => decide (i / e.leff * 4 + i % 4 < n)
  | none => false

/-- An element is active (R103) and not done yet. -/
def VEnv.active (e : VEnv) (i : Nat) : Bool :=
  decide (i < e.vl) && e.fm.getLsbD i && e.sel.getLsbD i && !e.isDone i

def VEnv.get (e : VEnv) (w : Nat) (base : VReg) (i : Nat) : Nat := vget e.v e.leff w base.val i
/-- Element i of the registers the results are laid over. -/
def VEnv.old (e : VEnv) (w : Nat) (base : VReg) (i : Nat) : Nat := vget e.v0 e.leff w base.val i
def VEnv.scalar (e : VEnv) (k : Nat) : Word := (e.sv[k]?).getD 0

/-- Element i of a B operand at a width (R118); `zext` for the shift functions. The scalar was captured at issue. -/
def VEnv.getB (e : VEnv) (w : Nat) (zext : Bool) (b : VSrc) (i : Nat) : Nat :=
  match b with
  | .vec v => vget e.vb e.leff w v.val i
  | .scal _ => (e.scalar 0).toNat % 2 ^ w
  | .imm x => if zext then x.toNat else ((x.signExtend 64).toNat) % 2 ^ w

/-- Positions of a destination group of width w (R104): the whole register for EG below 1. -/
def VEnv.positions (e : VEnv) (w : Nat) : Nat := e.leff * (256 / w) * groupRegs e.g8 e.sew w

/-- Write a vector destination: `res i` at the positions computed, the rest under R104. -/
def VEnv.fillV (e : VEnv) (w : Nat) (base : VReg) (res : Nat → Option Nat) (v : VFile) : VFile :=
  (List.range (e.positions w)).foldl (fun v i =>
    match (if i < e.vl then res i else none) with
    | some x => vput v e.leff w base.val i x
    | none =>
      if e.vl ≤ i then (if e.tp then vput v e.leff w base.val i 0 else v)
      else if e.isDone i then v
      else if e.fm.getLsbD i && !e.sel.getLsbD i && e.mp then vput v e.leff w base.val i 0
      else v) v

def mset (m : MBits) (i : Nat) (b : Bool) : MBits :=
  if b then m ||| BitVec.ofNat 8192 (2 ^ i) else m &&& ~~~(BitVec.ofNat 8192 (2 ^ i))

/-- Bits below n. -/
def lowMask (n : Nat) : MBits := BitVec.ofNat 8192 (2 ^ n - 1)

/-- Write a mask destination, bit by bit as R104 has it. -/
def VEnv.fillM (e : VEnv) (old : MBits) (res : Nat → Option Bool) : MBits :=
  let x := (List.range e.vl).foldl (fun m i =>
    match res i with
    | some b => mset m i b
    | none => if e.fm.getLsbD i && !e.sel.getLsbD i && !e.isDone i && e.mp then mset m i false else m) old
  if e.tp then x &&& lowMask e.vl else x

/-- The active elements of a group with their indices. -/
def VEnv.activeList (e : VEnv) (f : Nat → Nat) : List (Nat × Nat) :=
  (List.range e.vl).filterMap fun i => if e.active i then some (i, f i) else none

/-- The lowest active index with a condition. -/
def VEnv.firstActive (e : VEnv) (p : Nat → Bool) : Option Nat :=
  (List.range e.vl).find? fun i => e.active i && p i

/-- The working set P (R139). -/
def VEnv.working (e : VEnv) : List Nat := (List.range e.vl).filter fun i => e.fm.getLsbD i

/-- The predicate an operation selects, all ones when M = 0b000 (R103). -/
def VOp.msel (op : VOp) : MSel :=
  match op with
  | .vin _ _ _ _ m => m | .vfa _ _ _ _ _ m => m | .vfclass _ _ _ m => m | .vfw _ _ _ _ m => m | .vfm _ _ _ _ _ m => m
  | .vcv _ _ _ m => m | .vcpi _ _ _ _ m => m | .vcpf _ _ _ _ _ m => m | .vmk2 _ _ _ _ m => m | .vmk1 _ _ _ m => m
  | .viota _ _ m => m | .vid _ m => m | .vmpopc _ _ m => m | .vmfirst _ _ m => m | .vts _ _ _ m => m
  | .vgather _ _ _ m => m | .vslide _ _ _ m => m | .vmvsx _ m => m | .vrev _ _ m => m | .vred _ _ _ _ m => m
  | .vtag _ _ m => m | .vld _ _ m => m | .vst _ _ m => m | .vstp _ _ m => m | .vpt _ _ _ _ m => m
  | _ => 0

/-- What a queue entry sees over given register files (R102, R120). -/
def Hart.env (h : Hart) (x : VEntry) (v : VFile) (m : MFile) : VEnv :=
  { leff := max 1 h.leff, vl := x.vl, sew := sewOf x.vcfg, g8 := g8Of x.vcfg, bs := bsOf x.vcfg, tp := tpOf x.vcfg
    mp := mpOf x.vcfg, rm := x.rm, fm := x.fm, sel := if x.op.msel = 0 then BitVec.allOnes 8192 else m[x.op.msel]
    v := v, vb := v, m := m, v0 := h.v, m0 := h.m, sv := x.sv, dones := x.dones }

/-- The DONE counter of a lane group of which these elements are done: above the ranks of all of them (R287). -/
def doneRank (leff : Nat) (is : List Nat) : Nat := is.foldl (fun n i => max n (i / leff * 4 + i % 4 + 1)) 0

/-- The DONE counters of the lane groups when the elements below k are done (R287); at Leff 2, where the ranks of a group have gaps,
one more than the rank of the last (DEDUCED, log entry 20). -/
def doneCounts (lanes leff k : Nat) : List Nat :=
  (List.range (lanes / 4)).map fun j => doneRank leff ((List.range k).filter fun i => decide (i % leff / 4 = j))

/-! ### The operands of an entry -/

/-- How an operand is read: group by group with the beats (R107), as a scale register, which is one register whatever G
is (R101), or as a list taken whole in the entry's beat (R212, R231). -/
inductive UseKind where
  | groups | scale | list
deriving DecidableEq, Repr

/-- A register operand: whether a mask, number, element width (1 for a mask), how it is used; `bits` of each lane's slice
are read of a scale or list. -/
structure VUse where
  mask : Bool
  reg : Nat
  w : Nat
  src : Bool
  dst : Bool
  kind : UseKind := .groups
  bits : Nat := 256

def rdV (r : VReg) (w : Nat) : VUse := ⟨false, r.val, w, true, false, .groups, 256⟩
def wrV (r : VReg) (w : Nat) : VUse := ⟨false, r.val, w, false, true, .groups, 256⟩
def rwV (r : VReg) (w : Nat) : VUse := ⟨false, r.val, w, true, true, .groups, 256⟩
def rdM (r : MReg) : VUse := ⟨true, r.val, 1, true, false, .groups, 256⟩
def wrM (r : MReg) : VUse := ⟨true, r.val, 1, false, true, .groups, 256⟩
def rwM (r : MReg) : VUse := ⟨true, r.val, 1, true, true, .groups, 256⟩
/-- The predicate, when M selects one. -/
def selM (m : MSel) : List VUse := if m = 0 then [] else [rdM m]
/-- A B operand. -/
def rdB (b : VSrc) (w : Nat) : List VUse :=
  match b with
  | .vec v => [rdV v w]
  | _ => []

/-- Widths of A, B and D of a VIN function at a SEW (R123). -/
def VinFn.widths (f : VinFn) (sew : Nat) : Nat × Nat × Nat :=
  match f with
  | .wadd => (sew, sew, 2 * sew) | .waddu => (sew, sew, 2 * sew) | .wsub => (sew, sew, 2 * sew)
  | .wsubu => (sew, sew, 2 * sew) | .wmul => (sew, sew, 2 * sew) | .wmulu => (sew, sew, 2 * sew)
  | .nsra => (2 * sew, sew, sew) | .nclip => (2 * sew, sew, sew)
  | _ => (sew, sew, sew)

/-- Widths of D and A of a conversion at a SEW (R127). -/
def VcvFn.widths (f : VcvFn) (sew : Nat) : Nat × Nat :=
  match f with
  | .wFBf => (2 * sew, sew) | .wXF => (2 * sew, sew) | .wFX => (2 * sew, sew)
  | .nBfF => (sew, 2 * sew) | .nXF => (sew, 2 * sew) | .nXuF => (sew, 2 * sew) | .nFX => (sew, 2 * sew)
  | .sext2 => (sew, sew / 2) | .zext2 => (sew, sew / 2)
  | .sext4 => (sew, sew / 4) | .zext4 => (sew, sew / 4)
  | .sext8 => (sew, sew / 8) | .zext8 => (sew, sew / 8)
  | _ => (sew, sew)

/-- The SEW a conversion needs; none when its widths decide (R127). -/
def VcvFn.sewOk (f : VcvFn) (sew : Nat) : Bool :=
  match f with
  | .xF => decide (sew = 32) | .xuF => decide (sew = 32) | .rtzXF => decide (sew = 32) | .rtzXuF => decide (sew = 32)
  | .fX => decide (sew = 32) | .fXu => decide (sew = 32)
  | .xBf => decide (sew = 16) | .bfX => decide (sew = 16) | .wFBf => decide (sew = 16) | .wXF => decide (sew = 32)
  | .wFX => decide (sew = 16) | .nBfF => decide (sew = 16) | .nXF => decide (sew = 16) | .nXuF => decide (sew = 16)
  | .nFX => decide (sew = 32)
  | .sext2 => decide (16 ≤ sew) | .zext2 => decide (16 ≤ sew)
  | .sext4 => decide (32 ≤ sew) | .zext4 => decide (32 ≤ sew)
  | .sext8 => decide (sew = 64) | .zext8 => decide (sew = 64)

/-- SEW of an FP format. -/
def FFmt.sew : FFmt → Nat
  | .f32 => 32 | .bf16 => 16

/-- The data width and the scale operand of a port transfer. -/
def VptFn.scaled : VptFn → Bool
  | .rdnF => true | .rdnBf => true | .rdnffF => true | .rdnffBf => true | .wrnF => true | .wrnBf => true
  | _ => false
def VptFn.isWrite : VptFn → Bool
  | .wr => true | .wrnF => true | .wrnBf => true | .wrnC => true
  | _ => false
def VptFn.isFf : VptFn → Bool
  | .rdff => true | .rdnffF => true | .rdnffBf => true | .rdnffC => true
  | _ => false
def VptFn.isNarrow : VptFn → Bool
  | .rd => false | .rdff => false | .wr => false | .peek => false
  | _ => true
/-- The SEW a port transfer needs (R181). -/
def VptFn.sewOk (f : VptFn) (sew : Nat) : Bool :=
  match f with
  | .rdnF => decide (sew = 32) | .rdnffF => decide (sew = 32) | .wrnF => decide (sew = 32)
  | .rdnBf => decide (sew = 16) | .rdnffBf => decide (sew = 16) | .wrnBf => decide (sew = 16)
  | .rdnC => decide (sew = 8) | .rdnffC => decide (sew = 8) | .wrnC => decide (sew = 8)
  | _ => true

/-- Whether a reduction's source is FP32, BF16 or an integer at any SEW (R129). -/
def RedFn.sewOk (f : RedFn) (sew : Nat) : Bool :=
  match f with
  | .fsum => decide (sew = 32) | .fmax => decide (sew = 32) | .fmin => decide (sew = 32)
  | .bfsum => decide (sew = 16)
  | _ => true

/-- The register operands of an entry at a SEW and with the group size `eg` that `vwait` steps by. -/
def VOp.uses (op : VOp) (sew eg : Nat) : List VUse :=
  match op with
  | .idle _ => []
  | .vin .mv d _ b m => wrV d sew :: rdB b sew ++ selM m
  | .vin .macc d a b m => rwV d sew :: rdV a sew :: rdB b sew ++ selM m
  | .vin f d a b m =>
    let w := f.widths sew
    wrV d w.2.2 :: rdV a w.1 :: rdB b w.2.1 ++ selM m
  | .vfa _ _ d a b m => wrV d sew :: rdV a sew :: rdB b sew ++ selM m
  | .vfclass _ d a m => wrV d sew :: rdV a sew :: selM m
  | .vfw .addw d a b m => wrV d (2 * sew) :: rdV a (2 * sew) :: rdB b sew ++ selM m
  | .vfw .subw d a b m => wrV d (2 * sew) :: rdV a (2 * sew) :: rdB b sew ++ selM m
  | .vfw _ d a b m => wrV d (2 * sew) :: rdV a sew :: rdB b sew ++ selM m
  | .vfm _ .wide d a b m => rwV d (2 * sew) :: rdV a sew :: rdB b sew ++ selM m
  | .vfm _ _ d a b m => rwV d sew :: rdV a sew :: rdB b sew ++ selM m
  | .vcv f d a m => wrV d (f.widths sew).1 :: rdV a (f.widths sew).2 :: selM m
  | .vcpi _ d a b m => wrM d :: rdV a sew :: rdB b sew ++ selM m
  | .vcpf _ _ d a b m => wrM d :: rdV a sew :: rdB b sew ++ selM m
  | .vmk2 _ d a b m => wrM d :: rdM a :: rdM b :: selM m
  | .vmk1 _ d a m => wrM d :: rdM a :: selM m
  | .viota d a m => wrV d sew :: rdM a :: selM m
  | .vid d m => wrV d sew :: selM m
  | .vmpopc d a m => wrV d sew :: rdM a :: selM m
  | .vmfirst d a m => wrV d sew :: rdM a :: selM m
  | .vts .wrr d _ m => rdV d sew :: selM m
  | .vts .wrc d _ m => rdV d sew :: selM m
  | .vts _ d _ m => wrV d sew :: selM m
  | .vbr k _ => [rdM k]
  | .vjoin _ => []
  | .vloop a k _ => [rwV a sew, rwM k]
  | .vgather d a b m => wrV d sew :: rdV a sew :: rdV b sew :: selM m
  | .vslide _ d a m => wrV d sew :: rdV a sew :: selM m
  | .vcompress d a b => [wrV d sew, rdV a sew, rdM b]
  | .vmvxs _ a => [rdV a sew]
  | .vmvsx d m => wrV d sew :: selM m
  | .vrev d a m => wrV d sew :: rdV a sew :: selM m
  | .vred _ _ _ a m => rdV a sew :: selM m
  | .vsort _ d a => [wrV d sew, rdV a sew]
  | .vsortkv _ d a => [rwV d sew, rwV a sew]
  | .vmerge _ d a => [wrV d sew, rdV a sew]
  | .vtag d a m => wrV d sew :: rdV a sew :: selM m
  | .vsegm d a => [wrM d, rdV a sew]
  | .vld (.index b) d m => wrV d sew :: rdV b sew :: selM m
  | .vld _ d m => wrV d sew :: selM m
  | .vst (.index b) d m => rdV d sew :: rdV b sew :: selM m
  | .vst _ d m => rdV d sew :: selM m
  | .vstp _ d m => rdV d sew :: selM m
  | .vpt f d _ b m =>
    (if f.isWrite then rdV d sew else wrV d sew) ::
      (if f.scaled then [⟨false, b.val, 8, true, false, .scale, 256⟩] else []) ++ selM m
  | .vbld _ d a _ => [wrV d sew, rdV a sew]
  | .vbst _ d a _ => [rdV d sew, rdV a sew]
  | .vamaxe d a b _ => [wrV d sew, rdV a sew, rdV b sew]
  | .vwait d a _ => [wrM d, rdV a sew, ⟨false, a.val + eg, sew, true, false, .groups, 256⟩]
  | .copy _ _ a => [⟨false, a.val, 64, true, false, .list, 256⟩]
  | .cpctl _ _ _ => []
  | .srt _ _ a => [⟨false, a.val, 64, true, false, .list, 256⟩]
  | .sprog _ => []
  | .sabort _ => []

/-- The SEW a function requires (R119, R124, R126, R129, R135, R140, R141, R147, R148, R181, R189, R192, R195). -/
def VOp.sewOk (op : VOp) (sew : Nat) : Bool :=
  match op with
  | .vfa _ f _ _ _ _ => decide (sew = f.sew)
  | .vfclass f _ _ _ => decide (sew = f.sew)
  | .vfw _ _ _ _ _ => decide (sew = 16)
  | .vfm _ .f32 _ _ _ _ => decide (sew = 32)
  | .vfm _ _ _ _ _ _ => decide (sew = 16)
  | .vcv f _ _ _ => f.sewOk sew
  | .vcpf _ f _ _ _ _ => decide (sew = f.sew)
  | .viota _ _ _ => decide (16 ≤ sew)
  | .vid _ _ => decide (16 ≤ sew)
  | .vmpopc _ _ _ => decide (16 ≤ sew)
  | .vmfirst _ _ _ => decide (16 ≤ sew)
  | .vts _ _ _ _ => decide (sew = 32)
  | .vred _ f _ _ _ => f.sewOk sew
  | .vsort .f _ _ => decide (sew = 16 ∨ sew = 32)
  | .vsortkv .f _ _ => decide (sew = 16 ∨ sew = 32)
  | .vmerge .f _ _ => decide (sew = 16 ∨ sew = 32)
  | .vtag _ _ _ => decide (sew = 64)
  | .vstp false _ _ => decide (sew = 16)
  | .vstp true _ _ => decide (sew = 8)
  | .vpt f _ _ _ _ => f.sewOk sew
  | .vbld _ _ _ _ => decide (sew = 64)
  | .vbst _ _ _ _ => decide (sew = 64)
  | .vamaxe _ _ _ _ => decide (sew = 64)
  | .copy _ _ _ => decide (sew = 64)
  | .srt _ _ _ => decide (sew = 64)
  | .vwait _ _ _ => decide (sew = 64)
  | _ => true

/-- Registers of an operand: first and number. -/
def VUse.span (u : VUse) (g8 sew : Nat) : Nat × Nat :=
  if u.mask || decide (u.kind = .scale) then (u.reg, 1) else (u.reg, groupRegs g8 sew u.w)

def spansMeet (a b : Nat × Nat) : Bool := decide (a.1 < b.1 + b.2 ∧ b.1 < a.1 + a.2)

/-- An operand's width and group (R101, R119): width 8 to 64, EG from 1/8 to 8, base a multiple of EG. -/
def VUse.ok (u : VUse) (g8 sew : Nat) : Bool :=
  if u.mask || decide (u.kind = .scale) then true
  else
    let e := g8 * u.w
    decide (8 ≤ u.w ∧ u.w ≤ 64 ∧ sew ≤ e ∧ e ≤ 64 * sew ∧ u.reg % groupRegs g8 sew u.w = 0)

/-- Destination and source groups of different widths share no register (R119). -/
def overlapOk (us : List VUse) (g8 sew : Nat) : Bool :=
  us.all fun d => us.all fun a =>
    !(d.dst && a.src && !d.mask && !a.mask && decide (d.w ≠ a.w) && spansMeet (d.span g8 sew) (a.span g8 sew))

/-- Overlaps that single functions forbid (R138, R141). -/
def VOp.placeOk (op : VOp) (g8 sew : Nat) : Bool :=
  let meet (a b : VReg) := spansMeet (a.val, groupRegs g8 sew sew) (b.val, groupRegs g8 sew sew)
  match op with
  | .vgather d a b _ => !meet d a && !meet d b
  | .vslide _ d a _ => !meet d a
  | .vcompress d a _ => !meet d a
  | .vrev d a _ => !meet d a
  | .vsort _ d a => decide (d = a) || !meet d a
  | .vmerge _ d a => decide (d = a) || !meet d a
  | .vsortkv _ d a => !meet d a
  | .vwait _ a _ => decide (a.val + 2 * groupRegs g8 sew sew - 1 ≤ 31)
  | _ => true

/-- All operand checks of R101 and R119 for an entry under a VCFG. -/
def VOp.operandsOk (op : VOp) (vcfg : BitVec 9) : Bool :=
  let sew := sewOf vcfg
  let g8 := g8Of vcfg
  let us := op.uses sew (groupRegs g8 sew sew)
  op.sewOk sew && us.all (fun u => u.ok g8 sew) && overlapOk us g8 sew && op.placeOk g8 sew

/-- The widest element width among the operands (R107). -/
def widest (us : List VUse) : Nat := us.foldl (fun w u => if u.kind = .groups then max w u.w else w) 1

/-- Beats an entry takes: max(1, ⌈⌈VL / Leff⌉ × w / 64⌉) (R107). -/
def beatsOf (vl leff w : Nat) : Nat :=
  let rows := (vl + leff - 1) / (max 1 leff)
  max 1 ((rows * w + 63) / 64)

/-! ### Races in the back end (R108, R109) -/

/-- The bit range of each lane's slice that an operand of width wu takes in element group g of an entry whose widest
width is w: the register, the lowest bit and the length (R121). -/
def groupRange (u : VUse) (w g : Nat) : Nat × Nat × Nat :=
  let len := 64 * u.w / w
  let at0 := g * len
  (u.reg + at0 / 256, at0 % 256, len)

/-- Whether a pending write still covers a range at a beat. -/
def VPend.hits (p : VPend) (mask : Bool) (reg lo len beat : Nat) : Bool :=
  decide (p.mask = mask ∧ p.reg = reg ∧ p.lo < lo + len ∧ lo < p.lo + p.len ∧ beat < p.ready)

/-- Every range an entry touches, with its beat: the beats' element groups, and for a destination filled under TP the rest
of its registers in the last beat; a scale or a list is read in the first (DEDUCED, log entry 99). -/
def touched (u : VUse) (w n g8 sew : Nat) (tp : Bool) : List (Nat × Nat × Nat × Nat) :=
  let gs := (List.range n).map fun g =>
    let r := groupRange u w g
    (r.1, r.2.1, r.2.2, g)
  if u.kind = .scale then [(u.reg, 0, min 256 u.bits, 0)]
  else if u.kind = .list then
    (List.range ((u.bits + 63) / 64)).map fun g => (u.reg + g / 4, g % 4 * 64, 64, 0)
  else if u.dst && tp then
    let len := 64 * u.w / w
    let total := 256 * (u.span g8 sew).2 / len
    gs ++ ((List.range total).filter fun g => decide (n ≤ g)).map fun g =>
      (u.reg + g * len / 256, g * len % 256, len, n - 1)
  else gs

/-- A posting operation holds a register of an operand: its destinations against any use, its sources against writes. -/
def VHold.hits (x : VHold) (u : VUse) (g8 sew : Nat) : Bool :=
  decide (x.mask = u.mask) && spansMeet (x.reg, x.num) (u.span g8 sew) && (x.dest || u.dst)

/-- The first race of an entry that starts in beat b, as register number and kind: 1 vector, 2 mask (R286). An entry's own
holds are not counted (DEDUCED, log entry 39). Element group g counts as read in beat b + g, of a posting entry and of a vector
control transfer too (DEDUCED, log entry 99). -/
def Hart.raceAt (h : Hart) (us : List VUse) (w n g8 sew : Nat) (tp : Bool) (b id : Nat) : Option (Nat × Nat) :=
  (us.find? fun u =>
    (touched u w n g8 sew tp).any (fun t => h.vpend.any fun p => p.hits u.mask t.1 t.2.1 t.2.2.1 (b + t.2.2.2)) ||
      h.vholds.any fun x => decide (x.id ≠ id) && x.hits u g8 sew).map
    fun u => (u.reg, if u.mask then 2 else 1)

/-- The part of a range that a pending write covers: its lowest bit and its length. -/
def VPend.overlap (p : VPend) (lo len : Nat) : Nat × Nat := (max p.lo lo, min (p.lo + p.len) (lo + len) - max p.lo lo)

/-- Bits [lo, lo + len) of every lane's slice, chosen element by element of width w between old and new by free bits
numbered from k. -/
def mixElems (w lo len k : Nat) (old new : VBits) : VBits :=
  let w := max 1 w
  (List.range 32).foldl (fun x l =>
    (List.range ((lo + len + w - 1) / w - lo / w)).foldl (fun x j =>
      let at0 := (lo / w + j) * w
      let a := max lo at0
      let z := min (lo + len) (at0 + w)
      if Config.freeBit (k + 256 * l + at0) then x
      else putBits x (256 * l + a) (z - a) (getBits old (256 * l + a) (z - a))) x) new

/-- The same for a mask, whose bits lie by element index: positions with row ⌊i / Leff⌋ in [lo, lo + len). -/
def mixMask (leff lo len k : Nat) (old new : MBits) : MBits :=
  (List.range (len * leff)).foldl (fun x j =>
    let i := lo * leff + j
    if Config.freeBit (k + i) then x else mset x i (old.getLsbD i)) new

/-- A part of a register of two files, chosen element by element: the second with what of the first is old. -/
def mixSpan (leff : Nat) (mask : Bool) (k : Nat) (s : RaceSpan) (old new : VFile × MFile) : VFile × MFile :=
  let kk := k + (s.reg + if mask then 32 else 0) * 16384
  if mask then (new.1, new.2.set (ixM s.reg) (mixMask leff s.lo s.len kk old.2[ixM s.reg] new.2[ixM s.reg]))
  else (new.1.set (ixV s.reg) (mixElems s.w s.lo s.len kk old.1[ixV s.reg] new.1[ixV s.reg]), new.2)

/-- A register full of free values, for the result a posting operation has not delivered yet. -/
def freeVec (k : Nat) : VBits :=
  (List.range 128).foldl (fun x j => putBits x (64 * j) 64 (Config.freeWord (k + j)).toNat) 0

/-- The registers as one operand of an unchecked entry reads them (R108): in each range that races every element is the old or the new
value. Of a register that a posting operation has still to deliver the new value is known where `formed` gives it; where it is not
formed yet the read gives the old one (DESIGN CHOICE, log entry 1) (DEDUCED, log entry 48). -/
def Hart.mixUse (h : Hart) (formed : Nat → Option (VFile × MFile)) (w n g8 sew b id k : Nat) (f : VFile × MFile) (u : VUse) :
    VFile × MFile :=
  let f := (touched u w n g8 sew false).foldl (fun f t =>
    (h.vpend.filter fun p => p.hits u.mask t.1 t.2.1 t.2.2.1 (b + t.2.2.2)).foldl (fun f p =>
      let o := p.overlap t.2.1 t.2.2.1
      mixSpan h.leff u.mask k ⟨t.1, o.1, o.2, u.w⟩ (f.1.set (ixV t.1) p.old, f.2.set (ixM t.1) p.old) f) f) f
  (h.vholds.filter fun x => decide (x.id ≠ id) && x.dest && x.hits u g8 sew).foldl (fun f x =>
    match formed x.id with
    | none => f
    | some new =>
      (List.range (u.span g8 sew).2).foldl (fun f j =>
        let r := (u.span g8 sew).1 + j
        if x.reg ≤ r ∧ r < x.reg + x.num then
          let s : RaceSpan := ⟨r, 0, 256, u.w⟩
          let mixed := mixSpan h.leff u.mask k s f (f.1.set (ixV r) new.1[ixV r], f.2.set (ixM r) new.2[ixM r])
          if u.mask then (f.1, mixed.2) else (mixed.1, f.2)
        else f) f) f

/-- The registers as the sources among some operands read them. -/
def Hart.mixedFiles (h : Hart) (formed : Nat → Option (VFile × MFile)) (us : List VUse) (w n g8 sew b id k : Nat) : VFile × MFile :=
  (us.filter (·.src)).foldl (h.mixUse formed w n g8 sew b id k) (h.v, h.m)

/-- A B operand that is narrower than the A operand, with which it may share registers: what the one reads the other need not
(DEDUCED, log entry 86). -/
def narrowUse (us : List VUse) (sew : Nat) (u : VUse) : Bool :=
  let plain (a : VUse) : Bool := a.src && !a.dst && !a.mask && decide (a.kind = .groups)
  plain u && decide (u.w = sew) && us.any fun a => plain a && decide (a.w ≠ sew)

/-- Where a destination meets writes that are pending (R108). -/
def Hart.raceSpans (h : Hart) (u : VUse) (w n g8 sew : Nat) (tp : Bool) (b : Nat) : List RaceSpan :=
  (touched u w n g8 sew tp).flatMap fun t =>
    (h.vpend.filter fun p => p.hits u.mask t.1 t.2.1 t.2.2.1 (b + t.2.2.2)).map fun p =>
      let o := p.overlap t.2.1 t.2.2.1
      ⟨t.1, o.1, o.2, u.w⟩

/-- Where a destination meets the registers of a hold. -/
def VHold.spans (x : VHold) (u : VUse) (w n g8 sew : Nat) (tp : Bool) : List RaceSpan :=
  ((touched u w n g8 sew tp).filter fun t => decide (x.mask = u.mask ∧ x.reg ≤ t.1 ∧ t.1 < x.reg + x.num)).map fun t =>
    ⟨t.1, t.2.1, t.2.2.1, u.w⟩

/-- After an unchecked racing write each element holds one of the two values written (R108): the parts of the destinations
that race are mixed with what they held before. -/
def Hart.mixWrites (before : VFile × MFile) (h : Hart) (us : List VUse) (w n g8 sew b k : Nat) (tp : Bool) : Hart :=
  (us.filter (·.dst)).foldl (fun h u =>
    let f := (h.raceSpans u w n g8 sew tp b).foldl (fun f s => mixSpan h.leff u.mask (k + 64 * 16384) s before f) (h.v, h.m)
    { h with v := f.1, m := f.2 }) h

/-- An unchecked write that meets a posting operation's registers: where it meets a destination of it is kept, a source of it
keeps its old contents for the operation's later read (R108, R136). -/
def Hart.noteRacedHolds (h : Hart) (before : VFile × MFile) (us : List VUse) (w n g8 sew : Nat) (tp : Bool) (id : Nat) : Hart :=
  { h with
    vholds := h.vholds.map fun x =>
      let hit := us.filter fun u => u.dst && x.hits u g8 sew
      if x.id = id ∨ hit = [] then x
      else
        { x with
          raced := if x.dest then x.raced ++ hit.flatMap (fun u => x.spans u w n g8 sew tp) else x.raced
          old := if !x.dest && x.old.isEmpty then
              (List.range x.num).map fun j => if x.mask then before.2[ixM (x.reg + j)] else before.1[ixV (x.reg + j)]
            else x.old } }

/-- Record the destinations of a fixed-latency entry as pending from beat b with latency L (R108): element group g until
beat b + g + L, filled positions beyond the groups until b + n − 1 + L. -/
def Hart.pendWrites (before : VFile × MFile) (h : Hart) (us : List VUse) (w n g8 sew : Nat) (tp : Bool) (b lat : Nat) :
    Hart :=
  let new := (us.filter (·.dst)).flatMap fun u =>
    (touched u w n g8 sew tp).map fun t =>
      { mask := u.mask, reg := t.1 % 32, lo := t.2.1, len := t.2.2.1
        old := if u.mask then before.2[ixM t.1] else before.1[ixV t.1]
        ready := b + t.2.2.2 + lat : VPend }
  { h with vpend := (h.vpend.filter fun p => decide (b < p.ready)) ++ new }

/-- The holds a posting entry takes from its back-end start (R109, R136), with what an unchecked race leaves each: its old contents
and the parts that race. -/
def Hart.holdRegs (h : Hart) (us : List VUse) (g8 sew id : Nat) (old : VUse → List VBits) (raced : VUse → List RaceSpan) : Hart :=
  { h with
    vholds := h.vholds ++ us.map fun u =>
      let s := u.span g8 sew
      ⟨id, u.mask, s.1, s.2, u.w, u.dst, raced u, old u⟩ }

/-- The holds of a completed operation end. -/
def Hart.freeRegs (h : Hart) (id : Nat) : Hart := { h with vholds := h.vholds.filter fun x => decide (x.id ≠ id) }

/-- The registers as a completing posting operation reads them: sources met by an unchecked racing write are, element by
element, the old or the new value (R136). -/
def Hart.postedFiles (h : Hart) (id k : Nat) : VFile × MFile :=
  (h.vholds.filter fun x => decide (x.id = id) && !x.old.isEmpty).foldl (fun f x =>
    (List.range x.num).foldl (fun f j =>
      let o := (x.old[j]?).getD 0
      mixSpan h.leff x.mask k ⟨x.reg + j, 0, 256, x.w⟩ (f.1.set (ixV (x.reg + j)) o, f.2.set (ixM (x.reg + j)) o) f) f) (h.v, h.m)

/-- The writes of a completing posting operation land; where an unchecked write raced with them each element is one of
the two values. -/
def Hart.landPosted (h : Hart) (new : VFile × MFile) (id k : Nat) : Hart :=
  let f := (h.vholds.filter fun x => decide (x.id = id) && x.dest).foldl (fun f x =>
    x.raced.foldl (fun f s => mixSpan h.leff x.mask (k + 64 * 16384) s (h.v, h.m) f) f) new
  { h with v := f.1, m := f.2 }

/-- Free bits one entry may draw. -/
def raceStride : Nat := 128 * 16384

/-- Protected mode keeps the mirror lanes equal to their main lanes in the registers an entry wrote (R314)
(DEDUCED, log entry 90). -/
def Hart.mirrorWrites (h : Hart) (us : List VUse) (g8 sew : Nat) : Hart :=
  if h.hst.prot then
    (us.filter fun u => u.dst && !u.mask).foldl (fun h u =>
      let s := u.span g8 sew
      (List.range s.2).foldl (fun h j =>
        { h with v := h.v.set (ixV (s.1 + j)) (mirrorBits h.leff h.v[ixV (s.1 + j)]) }) h) h
  else h

end Sys2Proof.Machine
end

