-- ==== Sys2Proof/Machine/VArith.lean ====
section
/-! DEFINITION. What the fixed-latency vector functions compute (06_vector_arithmetic.md R120 to R128, 07 R134, R135):
element by element, with flags and latencies. -/
namespace Sys2Proof.Machine

/-! ### Integer functions (R123) -/

/-- f(a, b, d) of a VIN function at a SEW; operands are patterns at their widths. -/
def VinFn.eval (f : VinFn) (w a b d : Nat) : Nat :=
  match f with
  | .add => wrapNat w ((a : Int) + b)
  | .sub => wrapNat w ((a : Int) - b)
  | .rsub => wrapNat w ((b : Int) - a)
  | .and => a &&& b
  | .or => a ||| b
  | .xor => a ^^^ b
  | .sll => wrapNat w ((a * 2 ^ (b % w) : Nat) : Int)
  | .srl => a / 2 ^ (b % w)
  | .sra => wrapNat w (asInt w a / (2 ^ (b % w) : Nat))
  | .mv => b
  | .mul => wrapNat w ((a * b : Nat) : Int)
  | .mulh => wrapNat w (asInt w a * asInt w b / (2 ^ w : Nat))
  | .mulhu => a * b / 2 ^ w
  | .mulhsu => wrapNat w (asInt w a * b / (2 ^ w : Nat))
  | .macc => wrapNat w ((d + a * b : Nat) : Int)
  | .min => if asInt w b < asInt w a then b else a
  | .max => if asInt w a < asInt w b then b else a
  | .minu => Nat.min a b
  | .maxu => Nat.max a b
  | .sadd => wrapNat w (satInt (asInt w a + asInt w b) w true)
  | .saddu => wrapNat w (satInt ((a : Int) + b) w false)
  | .ssub => wrapNat w (satInt (asInt w a - asInt w b) w true)
  | .ssubu => wrapNat w (satInt ((a : Int) - b) w false)
  | .wadd => wrapNat (2 * w) (asInt w a + asInt w b)
  | .waddu => a + b
  | .wsub => wrapNat (2 * w) (asInt w a - asInt w b)
  | .wsubu => wrapNat (2 * w) ((a : Int) - b)
  | .wmul => wrapNat (2 * w) (asInt w a * asInt w b)
  | .wmulu => a * b
  | .nsra => wrapNat w (asInt (2 * w) a / (2 ^ (b % (2 * w)) : Nat))
  | .nclip => wrapNat w (satInt (asInt (2 * w) a / (2 ^ (b % (2 * w)) : Nat)) w true)

/-- The functions whose immediate is zero-extended (R118). -/
def VinFn.isShift : VinFn → Bool
  | .sll => true | .srl => true | .sra => true | .nsra => true | .nclip => true
  | _ => false

/-- Latencies of VIN (R122). -/
def VinFn.lat : VinFn → Nat
  | .mul => 4 | .mulh => 4 | .mulhu => 4 | .mulhsu => 4 | .macc => 4 | .wmul => 4 | .wmulu => 4
  | .nsra => 3 | .nclip => 3
  | _ => 2

/-! ### Floating point (R124 to R127) -/

/-- The sign-injection functions: a with the sign given. -/
def withSign (f : FFmt) (a : Nat) (neg : Bool) : Nat := a % 2 ^ (8 + f.frac) + signBit f neg

def VfaFn.eval (f : VfaFn) (fmt : FFmt) (rm : Rm) (a b : Nat) : Nat × FFlags :=
  match f with
  | .add => fAdd fmt rm a b
  | .sub => fAdd fmt rm a (negBits fmt b)
  | .rsub => fAdd fmt rm b (negBits fmt a)
  | .mul => fMul fmt rm a b
  | .min => fMinMax fmt false a b
  | .max => fMinMax fmt true a b
  | .sgnj => (withSign fmt a (fSign fmt b), 0)
  | .sgnjn => (withSign fmt a (!fSign fmt b), 0)
  | .sgnjx => (withSign fmt a (fSign fmt a != fSign fmt b), 0)

def VfaFn.lat : VfaFn → Nat
  | .add => 4 | .sub => 4 | .rsub => 4 | .mul => 4
  | _ => 2

/-- A BF16 source as FP32, and whether it was a signalling NaN (R125): the copy keeps the quiet bit. -/
def VfwFn.eval (f : VfwFn) (rm : Rm) (a b : Nat) : Nat × FFlags :=
  match f with
  | .add => fAdd .f32 rm (bfToF32 a) (bfToF32 b)
  | .sub => fAdd .f32 rm (bfToF32 a) (negBits .f32 (bfToF32 b))
  | .mul => fMul .f32 rm (bfToF32 a) (bfToF32 b)
  | .addw => fAdd .f32 rm a (bfToF32 b)
  | .subw => fAdd .f32 rm a (negBits .f32 (bfToF32 b))

/-- VFM in one format (R126). -/
def VfmFn.evalIn (f : VfmFn) (fmt : FFmt) (rm : Rm) (a b d : Nat) : Nat × FFlags :=
  match f with
  | .macc => fFma fmt rm a b d [a, b, d]
  | .nmacc => fFma fmt rm (negBits fmt a) b (negBits fmt d) [negBits fmt a, b, negBits fmt d]
  | .msac => fFma fmt rm a b (negBits fmt d) [a, b, negBits fmt d]
  | .nmsac => fFma fmt rm (negBits fmt a) b d [negBits fmt a, b, d]
  | .madd => fFma fmt rm d a b [d, a, b]

def VfmFn.eval (f : VfmFn) (k : VfmKind) (rm : Rm) (a b d : Nat) : Nat × FFlags :=
  match k with
  | .f32 => f.evalIn .f32 rm a b d
  | .bf16 => f.evalIn .bf16 rm a b d
  | .wide => f.evalIn .f32 rm (bfToF32 a) (bfToF32 b) d

/-- Conversions at a SEW (R127). -/
def VcvFn.eval (f : VcvFn) (sew : Nat) (rm : Rm) (a : Nat) : Nat × FFlags :=
  match f with
  | .xF => f32ToInt rm 32 true a
  | .xuF => f32ToInt rm 32 false a
  | .rtzXF => f32ToInt .rtz 32 true a
  | .rtzXuF => f32ToInt .rtz 32 false a
  | .fX => intToF .f32 rm (asInt 32 a)
  | .fXu => intToF .f32 rm a
  | .xBf => f32ToInt rm 16 true (bfToF32 a)
  | .bfX => intToF .bf16 rm (asInt 16 a)
  | .wFBf => (bfToF32 a, 0)
  | .wXF => f32ToInt rm 64 true a
  | .wFX => intToF .f32 rm (asInt 16 a)
  | .nBfF => f32ToBf rm a
  | .nXF => f32ToInt rm 16 true a
  | .nXuF => f32ToInt rm 16 false a
  | .nFX => intToF .f32 rm (asInt 64 a)
  | .sext2 => (wrapNat sew (asInt (sew / 2) a), 0)
  | .zext2 => (a, 0)
  | .sext4 => (wrapNat sew (asInt (sew / 4) a), 0)
  | .zext4 => (a, 0)
  | .sext8 => (wrapNat sew (asInt (sew / 8) a), 0)
  | .zext8 => (a, 0)

/-- Integer relations (R128). -/
def IRel.eval (r : IRel) (w a b : Nat) : Bool :=
  match r with
  | .eq => decide (a = b)
  | .ne => decide (a ≠ b)
  | .lt => decide (asInt w a < asInt w b)
  | .ltu => decide (a < b)
  | .le => decide (asInt w a ≤ asInt w b)
  | .leu => decide (a ≤ b)
  | .gt => decide (asInt w b < asInt w a)
  | .gtu => decide (b < a)

/-- FP relations with NV (R128). -/
def FRel.eval (r : FRel) (f : FFmt) (a b : Nat) : Bool × FFlags :=
  match r with
  | .eq => (fEq f a b, nvQuiet f a b)
  | .ne => (!fEq f a b, nvQuiet f a b)
  | .lt => (fLt f a b, nvOrdered f a b)
  | .le => (fLe f a b, nvOrdered f a b)
  | .gt => (fLt f b a, nvOrdered f a b)
  | .ge => (fLe f b a, nvOrdered f a b)

/-- Mask functions (R134). -/
def MaskFn.eval (f : MaskFn) (a b : Bool) : Bool :=
  match f with
  | .and => a && b
  | .or => a || b
  | .xor => a != b
  | .andn => a && !b
  | .orn => a || !b
  | .nand => !(a && b)
  | .nor => !(a || b)
  | .xnor => a == b

def MaskFn1.eval (f : MaskFn1) (first : Option Nat) (i : Nat) : Bool :=
  match f with
  | .sbf => (first.map fun k => decide (i < k)).getD true
  | .sif => (first.map fun k => decide (i ≤ k)).getD true
  | .sof => decide (first = some i)

/-! ### An entry as a whole -/

/-- What a fixed-latency entry does to the register files, its flags by element, and its latency. -/
structure FixedRes where
  v : VFile
  m : MFile
  raised : Raised
  lat : Nat

/-- An element function without flags over the active elements. -/
def VEnv.mapV (e : VEnv) (w : Nat) (d : VReg) (lat : Nat) (f : Nat → Nat) : FixedRes :=
  { v := e.fillV w d (fun i => if e.active i then some (f i) else none) e.v0, m := e.m0, raised := [], lat := lat }

/-- An element function with flags over the active elements (R111). -/
def VEnv.mapF (e : VEnv) (w : Nat) (d : VReg) (lat : Nat) (f : Nat → Nat × FFlags) : FixedRes :=
  { v := e.fillV w d (fun i => if e.active i then some (f i).1 else none) e.v0, m := e.m0
    raised := (List.range e.vl).filterMap fun i => if e.active i then some ((f i).2, i) else none, lat := lat }

/-- A mask result over the active elements. -/
def VEnv.mapM (e : VEnv) (d : MReg) (f : Nat → Bool × FFlags) : FixedRes :=
  { v := e.v0, m := e.m0.set d (e.fillM e.m0[d] fun i => if e.active i then some (f i).1 else none)
    raised := (List.range e.vl).filterMap fun i => if e.active i then some ((f i).2, i) else none, lat := 2 }

/-- `vmpopc`, `vmfirst`: element 0 whatever is active, the tail under TP, nothing else (R135). At VL = 0 only element 0 is
written (R105). -/
def VEnv.elem0 (e : VEnv) (d : VReg) (x : Nat) : FixedRes :=
  let v0 := vput e.v0 e.leff e.sew d.val 0 x
  { v := if e.vl = 0 then v0 else e.fillV e.sew d (fun i => if i = 0 then some x else some (e.old e.sew d i)) e.v0
    m := e.m0, raised := [], lat := 3 }

/-- Counts before each element: the active j < i with a[j] = 1 (R134). -/
def VEnv.iota (e : VEnv) (a : MReg) : List Nat :=
  ((List.range e.vl).foldl (fun (acc : List Nat × Nat) i =>
    (acc.2 :: acc.1, if e.active i && e.m[a].getLsbD i then acc.2 + 1 else acc.2)) ([], 0)).1.reverse

/-- The result of a fixed-latency entry; nothing for the classes that are not. At VL = 0 nothing is written but by
`vmpopc` and `vmfirst` (R105). -/
def fixedRes (op : VOp) (e : VEnv) : Option FixedRes :=
  let whole := { e with dones := [] }
  let keep (lat : Nat) (r : FixedRes) : Option FixedRes :=
    some (if e.vl = 0 then { v := e.v0, m := e.m0, raised := [], lat := lat } else r)
  match op with
  | .vin f d a b _ =>
    let w := f.widths e.sew
    keep f.lat (e.mapV w.2.2 d f.lat fun i =>
      f.eval e.sew (e.get w.1 a i) (e.getB w.2.1 f.isShift b i) (e.get w.2.2 d i))
  | .vfa f fmt d a b _ => keep f.lat (e.mapF e.sew d f.lat fun i => f.eval fmt e.rm (e.get e.sew a i) (e.getB e.sew false b i))
  | .vfclass fmt d a _ => keep 2 (e.mapV e.sew d 2 fun i => fClass fmt (e.get e.sew a i))
  | .vfw f d a b _ =>
    let wa := match f with
      | .addw => 2 * e.sew | .subw => 2 * e.sew | _ => e.sew
    keep 4 (e.mapF (2 * e.sew) d 4 fun i => f.eval e.rm (e.get wa a i) (e.getB e.sew false b i))
  | .vfm f k d a b _ =>
    let wd := match k with
      | .wide => 2 * e.sew | _ => e.sew
    keep 5 (e.mapF wd d 5 fun i => f.eval k e.rm (e.get e.sew a i) (e.getB e.sew false b i) (e.get wd d i))
  | .vcv f d a _ =>
    let w := f.widths e.sew
    keep 3 (e.mapF w.1 d 3 fun i => f.eval e.sew e.rm (e.get w.2 a i))
  | .vcpi r d a b _ => keep 2 (e.mapM d fun i => (r.eval e.sew (e.get e.sew a i) (e.getB e.sew false b i), 0))
  | .vcpf r fmt d a b _ => keep 2 (e.mapM d fun i => r.eval fmt (e.get e.sew a i) (e.getB e.sew false b i))
  | .vmk2 f d a b _ => keep 2 (e.mapM d fun i => (f.eval (e.m[a].getLsbD i) (e.m[b].getLsbD i), 0))
  | .vmk1 f d a _ =>
    let first := whole.firstActive fun i => e.m[a].getLsbD i
    keep 2 (e.mapM d fun i => (f.eval first i, 0))
  | .viota d a _ =>
    let ns := whole.iota a
    keep 3 (e.mapV e.sew d 3 fun i => ns[i]?.getD 0)
  | .vid d _ => keep 3 (e.mapV e.sew d 3 fun i => i)
  | .vmpopc d a _ => some (e.elem0 d ((List.range e.vl).filter fun i => whole.active i && e.m[a].getLsbD i).length)
  | .vmfirst d a _ => some (e.elem0 d ((whole.firstActive fun i => e.m[a].getLsbD i).getD (2 ^ e.sew - 1)))
  | _ => none

end Sys2Proof.Machine
end

