-- ==== Sys2Proof/Machine/VMove.lean ====
section
/-! DEFINITION. What the functions of the permute and sort network deliver: permutes (R137, R138), in-register sorts,
merges and tags (R139 to R141), reductions (R129, R64 to R66). -/
namespace Sys2Proof.Machine

/-- What an operation of the network delivers: registers, a scalar destination's value, flags by element. -/
structure MoveRes where
  v : VFile
  m : MFile
  scalar : Option Word
  raised : Raised

def VEnv.unmoved (e : VEnv) : MoveRes := { v := e.v0, m := e.m0, scalar := none, raised := [] }
def VEnv.moveV (e : VEnv) (d : VReg) (res : Nat → Option Nat) : MoveRes :=
  { e.unmoved with v := e.fillV e.sew d res e.v0 }

/-! ### Permutes -/

/-- Source element j, whatever its activity; 0 at or above VL (R137). -/
def VEnv.srcElem (e : VEnv) (a : VReg) (j : Nat) : Nat := if j < e.vl then e.get e.sew a j else 0

def VslideFn.elem (f : VslideFn) (e : VEnv) (d a : VReg) (s : Word) (i : Nat) : Nat :=
  let n := s.toNat
  match f with
  | .gatherx => e.srcElem a n
  | .up => if n ≤ i then e.get e.sew a (i - n) else e.old e.sew d i
  | .down => e.srcElem a (i + n)
  | .up1 => if i = 0 then n % 2 ^ e.sew else e.get e.sew a (i - 1)
  | .down1 => if i + 1 < e.vl then e.get e.sew a (i + 1) else n % 2 ^ e.sew

/-- `vcompress` (R138). -/
def VEnv.compress (e : VEnv) (d a : VReg) (b : MReg) : MoveRes :=
  let p := e.working
  let picked := p.filter fun i => e.m[b].getLsbD i
  let pairs := p.zip ((picked.map fun i => some (e.get e.sew a i)) ++ List.replicate p.length none)
  e.moveV d fun i =>
    match pairs.find? fun x => x.1 = i with
    | some (_, some x) => some x
    | some (_, none) => some (if e.tp then 0 else e.old e.sew d i)
    | none => some (e.old e.sew d i)

/-! ### Sorting -/

/-- A key as a number that orders as R140 says. -/
def KOrd.key (o : KOrd) (w x : Nat) : Nat :=
  match o with
  | .u => x
  | .s => if 2 ^ (w - 1) ≤ x then x - 2 ^ (w - 1) else x + 2 ^ (w - 1)
  | .f => if 2 ^ (w - 1) ≤ x then 2 ^ w - 1 - x else x + 2 ^ (w - 1)

/-- Insertion before the first element whose key is not smaller: equal keys keep their order. -/
def insertBy {α : Type} (key : α → Nat) (x : α) : List α → List α
  | [] => [x]
  | y :: ys => if key x ≤ key y then x :: y :: ys else y :: insertBy key x ys

/-- The stable ascending sort (R139). -/
def sortBy {α : Type} (key : α → Nat) (xs : List α) : List α := xs.foldr (insertBy key) []

/-- The merge of R141, over the number of elements left. -/
def mergeBy {α : Type} (key : α → Nat) : Nat → List α → List α → List α
  | 0, xs, ys => xs ++ ys
  | n + 1, xs, ys =>
    match xs, ys with
    | [], ys => ys
    | xs, [] => xs
    | x :: xs, y :: ys =>
      if key y < key x then y :: mergeBy key n (x :: xs) ys else x :: mergeBy key n xs (y :: ys)

/-- Write values to the positions of P in order; positions outside P unchanged, the tail under TP (R139). -/
def VEnv.scatter (e : VEnv) (d : VReg) (xs : List Nat) (v : VFile) : VFile :=
  let pairs := e.working.zip xs
  e.fillV e.sew d (fun i =>
    match pairs.find? fun x => x.1 = i with
    | some (_, x) => some x
    | none => some (e.old e.sew d i)) v

def VEnv.sortKeys (e : VEnv) (o : KOrd) (d a : VReg) : MoveRes :=
  { e.unmoved with v := e.scatter d (sortBy (o.key e.sew) (e.working.map fun i => e.get e.sew a i)) e.v0 }

/-- Keys sorted in place, values moved with them (R141). -/
def VEnv.sortPairs (e : VEnv) (o : KOrd) (d a : VReg) : MoveRes :=
  let s := sortBy (fun p : Nat × Nat => o.key e.sew p.1) (e.working.map fun i => (e.get e.sew a i, e.get e.sew d i))
  { e.unmoved with v := e.scatter d (s.map (·.2)) (e.scatter a (s.map (·.1)) e.v0) }

def VEnv.mergeKeys (e : VEnv) (o : KOrd) (d a : VReg) (s : Word) : MoveRes :=
  let xs := e.working.map fun i => e.get e.sew a i
  let h := min s.toNat xs.length
  { e.unmoved with v := e.scatter d (mergeBy (o.key e.sew) xs.length (xs.take h) (xs.drop h)) e.v0 }

/-- Whether each key of P differs from the one before it (R141 `vsegm`). -/
def segHeads : Option Nat → List Nat → List Bool
  | _, [] => []
  | prev, x :: xs => decide (prev ≠ some x) :: segHeads (some x) xs

def VEnv.segm (e : VEnv) (d : MReg) (a : VReg) : MoveRes :=
  let pairs := e.working.zip (segHeads none (e.working.map fun i => e.get e.sew a i))
  { e.unmoved with
    m := e.m0.set d (e.fillM e.m0[d] fun i =>
      match pairs.find? fun x => x.1 = i with
      | some (_, b) => some b
      | none => some (e.m0[d].getLsbD i)) }

/-! ### Reductions -/

/-- What a reduction combines two values to (R129). -/
def RedFn.comb (f : RedFn) (w : Nat) (rm : Rm) (x y : Nat) : Nat × FFlags :=
  match f with
  | .fsum => fAdd .f32 rm x y
  | .bfsum => fAdd .f32 rm x y
  | .fmax => fMinMax .f32 true x y
  | .fmin => fMinMax .f32 false x y
  | .sum => ((x + y) % 2 ^ w, 0)
  | .max => (if asInt w x < asInt w y then y else x, 0)
  | .min => (if asInt w y < asInt w x then y else x, 0)
  | .minu => (Nat.min x y, 0)
  | .maxu => (Nat.max x y, 0)

def RedFn.isFp : RedFn → Bool
  | .fsum => true | .fmax => true | .fmin => true | .bfsum => true
  | _ => false

/-- A result as s[D] takes it (R129) (DEDUCED, log entry 17). -/
def RedFn.deliver (f : RedFn) (w x : Nat) : Word :=
  match f with
  | .sum => sextTo64 w (wordOf x)
  | .max => sextTo64 w (wordOf x)
  | .min => sextTo64 w (wordOf x)
  | _ => wordOf x

/-- A reduction. With no active element, VL = 0 among them, the initial operand is delivered in the form the function
reads it, with no quieting and no flag (R129, R105; DEDUCED, log entry 17). -/
def VEnv.reduce (e : VEnv) (tree : Bool) (f : RedFn) (a : VReg) : MoveRes :=
  let w := if f.isFp then 32 else e.sew
  let init := (e.scalar 0).toNat % 2 ^ w
  let xs := e.activeList fun i => let x := e.get e.sew a i; if f = .bfsum then bfToF32 x else x
  if xs.isEmpty then
    { e.unmoved with scalar := some (f.deliver w init) }
  else
    let r := if tree then foldTree (f.comb w e.rm) init e.vl xs else foldOrdered (f.comb w e.rm) init xs
    { e.unmoved with scalar := some (f.deliver w r.1), raised := r.2 }

/-- What an operation of VPM, VSO or VRD delivers. At VL = 0 permutes and sorts write nothing, and `vmvxs` leaves its
destination (R105, R138) (DEDUCED, log entry 87). -/
def moveRes (op : VOp) (e : VEnv) : MoveRes :=
  match op with
  | .vred tree f _ a _ => e.reduce tree f a
  | _ =>
    if e.vl = 0 then e.unmoved
    else
      match op with
      | .vgather d a b _ => e.moveV d fun i => if e.active i then some (e.srcElem a (e.get e.sew b i)) else none
      | .vslide f d a _ => e.moveV d fun i => if e.active i then some (f.elem e d a (e.scalar 0) i) else none
      | .vcompress d a b => e.compress d a b
      | .vmvxs _ a =>
        { e.unmoved with
          scalar := some (if (e.scalar 0).toNat < e.vl then sextTo64 e.sew (wordOf (e.get e.sew a (e.scalar 0).toNat))
                          else 0) }
      | .vmvsx d _ =>
        e.moveV d fun i =>
          if i = 0 then (if e.active 0 then some ((e.scalar 0).toNat % 2 ^ e.sew) else none)
          else some (e.old e.sew d i)
      | .vrev d a _ => e.moveV d fun i => if e.active i then some (e.get e.sew a (e.vl - 1 - i)) else none
      | .vsort o d a => e.sortKeys o d a
      | .vsortkv o d a => e.sortPairs o d a
      | .vmerge o d a => e.mergeKeys o d a (e.scalar 0)
      | .vtag d a _ =>
        e.moveV d fun i =>
          if e.active i then
            some (e.get e.sew a i % 2 ^ 32 * 2 ^ 32 + ((e.scalar 0).toNat + i) % 2 ^ 32)
          else none
      | .vsegm d a => e.segm d a
      | _ => e.unmoved

end Sys2Proof.Machine
end

