-- ==== Sys2Proof/Machine/VMem.lean ====
section
/-! DEFINITION. What vector memory operations do: Chart accesses (R144, R145), plane stores (R147, R249), tile slices
(R148), and port transfers, plain, narrow and fault-only-first (R182 to R187). -/
namespace Sys2Proof.Machine

/-! ### Words marked poisoned (R310) -/

/-- Whether any of the n bytes from address a lies in a marked 8-byte word (DESIGN CHOICE, log entry 12). -/
def anyPoison (marks : List Nat) (a n : Nat) : Bool :=
  marks.any fun w => decide (w * 8 < a + n ∧ a < w * 8 + 8)

/-- A write of n bytes from address a clears the marks of the words it covers wholly. -/
def clearPoison (marks : List Nat) (a n : Nat) : List Nat :=
  marks.filter fun w => !decide (a ≤ w * 8 ∧ w * 8 + 8 ≤ a + n)

/-! ### The Chart -/

/-- Bytes of the focused hart's Chart (R13, R243). -/
def State.chartSize (s : State) : Nat := if s.hart.hst.helm then Config.helmChartBytes else Config.chartBytes

def State.chartWrite (s : State) (a n v : Nat) : State :=
  s.mapCore fun c => { c with chart := c.chart.writeLE a n v, chartPoison := clearPoison c.chartPoison a n }

/-- Element address of a Chart access (R144). -/
def chartAddr (md : VcmMode) (e : VEnv) (i : Nat) : Nat :=
  let base := (e.scalar 0).toNat
  match md with
  | .unit => (base + i * (e.sew / 8)) % 2 ^ 64
  | .stride _ => (((base : Int) + i * (e.scalar 1).toInt) % (2 ^ 64 : Nat)).toNat
  | .index b => (base + e.get e.sew b i) % 2 ^ 64

/-- Every active element's address is aligned and within the Chart (R145) (DEDUCED, log entry 24). -/
def chartOk (md : VcmMode) (e : VEnv) (size : Nat) : Bool :=
  (List.range e.vl).all fun i =>
    !e.active i || (decide (chartAddr md e i % (e.sew / 8) = 0) && decide (chartAddr md e i + e.sew / 8 ≤ size))

/-- The first active element whose Chart word is marked poisoned. -/
def chartPoisonAt (md : VcmMode) (e : VEnv) (marks : List Nat) : Option Nat :=
  if marks.isEmpty then none else e.firstActive fun i => anyPoison marks (chartAddr md e i) (e.sew / 8)

/-- A Chart load's registers, of the elements below a limit. -/
def chartLoad (md : VcmMode) (e : VEnv) (d : VReg) (chart : Mem) (limit : Nat) : VFile :=
  e.fillV e.sew d (fun i =>
    if i < limit then (if e.active i then some (chart.readLE (chartAddr md e i) (e.sew / 8)) else none)
    else some (e.old e.sew d i)) e.v0

/-- A Chart store of the elements in [lo, hi): active elements in index order, so that the highest index stays (R144). -/
def State.chartStore (s : State) (md : VcmMode) (e : VEnv) (d : VReg) (lo hi : Nat) : State :=
  (List.range e.vl).foldl (fun s i =>
    if e.active i && decide (lo ≤ i ∧ i < hi) then s.chartWrite (chartAddr md e i) (e.sew / 8) (e.get e.sew d i) else s) s

/-! ### Plane stores (R147, R249) -/

/-- The 16-bit plane whose bit t is bit p of code t. -/
def planeWord (codes : List Nat) (p : Nat) : Nat :=
  (codes.zip (List.range 16)).foldl (fun n x => n + x.1 / 2 ^ p % 2 * 2 ^ x.2) 0

/-- The σ code of a BF16 encoding: 9-bit two's complement of ±(h × 128 + FRAC) (R249). -/
def sigmaOf (x : Nat) : Nat :=
  let m : Int := ((if fExp .bf16 x = 0 then 0 else 128) + fFrac .bf16 x : Nat)
  wrapNat 9 (if fSign .bf16 x then -m else m)

/-- A group of 16 codes as bytes: b planes of BFPb. -/
def bfpGroup (b : Nat) (codes : List Nat) : List Byte :=
  (List.range b).flatMap fun p => leBytes (planeWord codes p) 2

/-- A group of 16 BF16 values as bytes. -/
def bf16Group (xs : List Nat) : List Byte :=
  (List.range 9).flatMap (fun p => leBytes (planeWord (xs.map sigmaOf) p) 2) ++ List.replicate 6 0 ++
    xs.map fun x => BitVec.ofNat 8 (fExp .bf16 x)

/-- Bytes of a group: 2b, or 40 for BF16. -/
def groupBytes (bfp : Bool) (b : Nat) : Nat := if bfp then 2 * b else 40

/-- The bytes a plane store writes: VL elements in groups of 16, inactive and padding elements zero codes. -/
def planeData (bfp : Bool) (b : Nat) (e : VEnv) (d : VReg) : List Byte :=
  (List.range ((e.vl + 15) / 16)).flatMap fun g =>
    let xs := (List.range 16).map fun t =>
      let i := 16 * g + t
      if e.active i then e.get e.sew d i else 0
    if bfp then bfpGroup b (xs.map (· % 2 ^ b)) else bf16Group xs

/-- The code width of a plane store: its second scalar for `vstpb` (R147). -/
def planeB (bfp : Bool) (e : List Word) : Nat := if bfp then ((e[1]?).getD 0).toNat else 0

/-- The checks of a plane store at issue (R147 order 1). -/
def planeOk (bfp : Bool) (sv : List Word) (vl : Nat) : Bool :=
  let base := ((sv[0]?).getD 0).toNat
  let b := planeB bfp sv
  (!bfp || decide (2 ≤ b ∧ b ≤ 8)) &&
    (decide (vl = 0) ||
      decide (base < Config.planeBytes ∧ base % 64 = 0 ∧
        base % Config.stageBytes + (vl + 15) / 16 * groupBytes bfp b ≤ Config.stageBytes))

def stageOf (a : Nat) : Nat := a / Config.stageBytes % 4

def Quad.planeWrite (q : Quad) (a : Nat) (bs : List Byte) : Quad :=
  { q with plane := q.plane.putBytes a bs, planePoison := clearPoison q.planePoison a bs.length }

/-! ### Tiles -/

/-- Byte address of cell (i, j) of a tile (R302's layout). -/
def cellAddr (t i j : Nat) : Nat := t * 0x4000 + 4 * (64 * i + j)

def Quad.cell (q : Quad) (t i j : Nat) : Nat := q.tiles.readLE (cellAddr t i j) 4
def Quad.setCell (q : Quad) (t i j v : Nat) : Quad :=
  { q with tiles := q.tiles.writeLE (cellAddr t i j) 4 v }

/-- The marks of the 64-bit words both of whose cells one operation wrote end; a narrower write leaves a mark (R310). -/
def Quad.clearWords (q : Quad) (t : Nat) (wrote : Nat → Nat → Bool) : Quad :=
  { q with tilePoison := q.tilePoison.filter fun w =>
      !(decide (w / 0x800 = t) && wrote (w % 0x800 / 32) (w % 32 * 2) && wrote (w % 0x800 / 32) (w % 32 * 2 + 1)) }

/-- A cell lies in a marked word. -/
def Quad.cellPoisoned (q : Quad) (t i j : Nat) : Bool := q.tilePoison.contains (cellAddr t i j / 8)

/-- Set every cell of a tile to +0 (R248). -/
def Quad.zeroTile (q : Quad) (t : Nat) : Quad :=
  { q with
    tiles := ⟨q.tiles.cells.filter fun c => !decide (t * 0x4000 ≤ c.1 ∧ c.1 < (t + 1) * 0x4000)⟩
    tilePoison := q.tilePoison.filter fun c => !decide (t * 0x800 ≤ c ∧ c < (t + 1) * 0x800) }

def VtsFn.isWrite : VtsFn → Bool
  | .wrr => true | .wrc => true
  | _ => false
/-- Whether the index names a row. -/
def VtsFn.isRow : VtsFn → Bool
  | .rdr => true | .rdrz => true | .wrr => true
  | _ => false
def VtsFn.zeroes : VtsFn → Bool
  | .rdrz => true | .rdcz => true
  | _ => false
def VtsFn.at (f : VtsFn) (k i : Nat) : Nat × Nat := if f.isRow then (k, i) else (i, k)

/-- A tile-slice move: registers and tiles (R148). -/
def tileMove (f : VtsFn) (d : VReg) (t : Tile) (e : VEnv) (q : Quad) : VFile × Quad :=
  let k := (e.scalar 0).toNat
  let wrote (i j : Nat) : Bool := (List.range e.vl).any fun x => e.active x && decide (f.at k x = (i, j))
  if f.isWrite then
    (e.v0, ((List.range e.vl).foldl (fun q i =>
      if e.active i then q.setCell t.val (f.at k i).1 (f.at k i).2 (e.get 32 d i) else q) q).clearWords t.val wrote)
  else
    (e.fillV 32 d (fun i => if e.active i then some (q.cell t.val (f.at k i).1 (f.at k i).2) else none) e.v0,
     if f.zeroes then
       ((List.range e.vl).foldl (fun q i =>
         if e.active i then q.setCell t.val (f.at k i).1 (f.at k i).2 0 else q) q).clearWords t.val wrote
     else q)

/-! ### Port transfers -/

/-- Where a transfer stops. -/
inductive VStop where
  | finished
  | wait (i : Nat)
  | fault (e : XErr) (i : Nat)
  | ended (broken : Bool) (i : Nat)
deriving DecidableEq, Repr

/-- A plain read of the elements of a list, in index order (R182, R183). -/
def State.portRead (s : State) (x : Xl) (r : RunD) (w : Nat) : PortSt → List Nat → PortSt × List (Nat × Nat) × VStop
  | p, [] => (p, [], .finished)
  | p, i :: is =>
    let b := p.elemByte r.w
    match r.avail b w with
    | .wait => (p, [], .wait i)
    | .ended => (p, [], .ended false i)
    | .broken => (p, [], .ended true i)
    | .ready =>
      match s.readStream x r p.tr b w with
      | .error e => (p, [], .fault e i)
      | .ok (t, bs) =>
        let q := s.portRead x r w ({ p with tr := t }.step w) is
        (q.1, (i, leNat bs) :: q.2.1, q.2.2)

/-- A plain write of (element, value) pairs in stream order (R185). -/
def portWrite (x : Xl) (r : RunD) (w : Nat) : State → PortSt → List (Nat × Nat) → State × PortSt × VStop
  | s, p, [] => (s, p, .finished)
  | s, p, (i, v) :: is =>
    if r.cap.toNat * r.w < p.pos + w then (s, p, .fault .fault i)
    else
      match s.writeStream x r p.tr p.pos (leBytes v w) with
      | .error e => (s, p, .fault e i)
      | .ok (t, s) => portWrite x r w s ({ p with tr := t }.step w) is

/-- Code t of a block of bytes (R186). -/
def blockCode (b : Nat) (bytes : List Byte) (t : Nat) : Nat := leNat bytes / 2 ^ (b * t) % 2 ^ b

/-- The bytes of a block of codes (R186). -/
def blockBytes (b B : Nat) (codes : List Nat) : List Byte :=
  leBytes ((codes.zip (List.range B)).foldl (fun n x => n + x.1 % 2 ^ b * 2 ^ (b * x.2)) 0) (B * b / 8)

/-- The bytes of a block that the elements of a list need, read one by one: the codes, or where the read stops. -/
def State.blockRead (s : State) (x : Xl) (r : RunD) (b base first : Nat) (t : Option Tr) : List Nat →
    Except VStop (Option Tr × List (Nat × Nat))
  | [] => .ok (t, [])
  | i :: is =>
    let lo := b * (i - first)
    let at0 := base + lo / 8
    let n := (lo + b - 1) / 8 - lo / 8 + 1
    match r.avail at0 n with
    | .wait => .error (.wait i)
    | .ended => .error (.ended false i)
    | .broken => .error (.ended true i)
    | .ready =>
      match s.readStream x r t at0 n with
      | .error e => .error (.fault e i)
      | .ok (t, bs) =>
        match s.blockRead x r b base first t is with
        | .error e => .error e
        | .ok (t, rest) => .ok (t, (i, leNat bs / 2 ^ (lo % 8) % 2 ^ b) :: rest)

/-- A narrow read, block by block (R186): codes by element. -/
def State.narrowRead (s : State) (x : Xl) (r : RunD) (b B vl : Nat) : PortSt → List Nat → PortSt × List (Nat × Nat) × VStop
  | p, [] => (p, [], .finished)
  | p, j :: js =>
    match s.blockRead x r b p.pos (j * B) p.tr ((List.range B).filterMap fun t =>
        if j * B + t < vl then some (j * B + t) else none) with
    | .error st => (p, [], st)
    | .ok (t, codes) =>
      let q := s.narrowRead x r b B vl { p with tr := t, pos := p.pos + B * b / 8 } js
      (q.1, codes ++ q.2.1, q.2.2)

/-- A narrow write, block by block; `code` gives the code of an element (R186, R187). -/
def narrowWrite (x : Xl) (r : RunD) (b B vl : Nat) (code : Nat → Nat) : State → PortSt → List Nat → State × PortSt × VStop
  | s, p, [] => (s, p, .finished)
  | s, p, j :: js =>
    let bytes := blockBytes b B ((List.range B).map fun t => if j * B + t < vl then code (j * B + t) else 0)
    let room := r.cap.toNat * r.w - p.pos
    if room < bytes.length then (s, p, .fault .fault (min (j * B + room * 8 / b) (vl - 1)))
    else
      match s.writeStream x r p.tr p.pos bytes with
      | .error e =>
        let bad := (List.range bytes.length).find? fun o =>
          match s.writeAddrs x r p.tr p.pos (o + 1) with
          | .error _ => true
          | .ok _ => false
        (s, p, .fault e (min (j * B + bad.getD 0 * 8 / b) (vl - 1)))
      | .ok (t, s) => narrowWrite x r b B vl code s { p with tr := t, pos := p.pos + B * b / 8 } js

/-- Scale of element i: element ⌊i / B⌋ of the scale register, read at width 8 (R187). -/
def VEnv.scale (e : VEnv) (b : VReg) (i : Nat) : Nat := vget e.v e.leff 8 b.val (i / max 1 e.bs)

/-- What a narrow read delivers of a code (R187). -/
def VptFn.decode (f : VptFn) (nb E m : Nat) : Nat :=
  match f with
  | .rdnF => decBfp (asInt nb m) E nb
  | .rdnffF => decBfp (asInt nb m) E nb
  | .rdnBf => (f32ToBf .rne (decBfp (asInt nb m) E nb)).1
  | .rdnffBf => (f32ToBf .rne (decBfp (asInt nb m) E nb)).1
  | _ => wrapNat 8 (asInt nb m)

/-- The code a narrow write stores for a value, with its flags (R187). -/
def VptFn.encode (f : VptFn) (nb E v : Nat) : Nat × FFlags :=
  match f with
  | .wrnF => satBfp v E nb
  | .wrnBf => satBfp (bfToF32 v) E nb
  | _ => (v % 2 ^ nb, 0)

/-- What a transfer did: state with the run written, the port after it, the registers, the flags, where it stopped, and
how many elements are done. -/
structure VptRes where
  s : State
  port : PortSt
  v : VFile
  raised : Raised
  stop : VStop
  k : Nat

/-- The element at which a stop counts: of a narrow transfer the start of the block (R186) (DEDUCED, log entry 34). -/
def VStop.at (st : VStop) (narrow : Bool) (B vl : Nat) : Nat :=
  let cut (i : Nat) : Nat := if narrow then i / max 1 B * max 1 B else i
  match st with
  | .finished => vl
  | .wait i => cut i
  | .fault _ i => cut i
  | .ended _ i => cut i

/-- The blocks of a narrow transfer that a resumed entry has still to move. -/
def VEnv.blocks (e : VEnv) : List Nat :=
  (List.range ((e.vl + max 1 e.bs - 1) / max 1 e.bs)).filter fun j => !e.isDone (j * max 1 e.bs)

/-- A read stopped short of its end fills no tail (R183, R292). -/
def VEnv.partialTail (e : VEnv) (st : VStop) : VEnv := { e with tp := e.tp && decide (st = .finished) }

/-- Where a resumed `vppeek` reads on: past the positions of its done elements, which its port has not advanced over (R182). -/
def VEnv.peekFrom (e : VEnv) (w : Nat) (p : PortSt) : PortSt :=
  ((List.range e.vl).filter fun i => e.isDone i && { e with dones := [] }.active i).foldl (fun p _ => p.step w) p

/-- A transfer over the elements not done (R182 to R187). The port is given; a read leaves the state as it was
(DEDUCED, log entry 34). -/
def portTransfer (s : State) (x : Xl) (r : RunD) (f : VptFn) (e : VEnv) (d b : VReg) (p : PortSt) : VptRes :=
  let w := e.sew / 8
  let nb := layoutNb p.layout
  let B := max 1 e.bs
  if f.isWrite then
    if f.isNarrow then
      let enc (i : Nat) : Nat × FFlags :=
        if e.fm.getLsbD i then f.encode nb (if f.scaled then e.scale b i else 0) (e.get e.sew d i) else (0, 0)
      let q := narrowWrite x r nb B e.vl (fun i => (enc i).1) s p e.blocks
      let k := q.2.2.at true B e.vl
      { s := q.1, port := q.2.1, v := e.v0
        raised := (List.range k).filterMap fun i => if e.isDone i then none else some ((enc i).2, i)
        stop := q.2.2, k := k }
    else
      let q := portWrite x r w s p (e.activeList fun i => e.get e.sew d i)
      { s := q.1, port := q.2.1, v := e.v0, raised := [], stop := q.2.2, k := q.2.2.at false B e.vl }
  else if f.isNarrow then
    let q := s.narrowRead x r nb B e.vl p e.blocks
    let k := q.2.2.at true B e.vl
    let vals := q.2.1.map fun c => (c.1, f.decode nb (if f.scaled then e.scale b c.1 else 0) c.2)
    { s := s, port := q.1
      v := (e.partialTail q.2.2).fillV e.sew d (fun i =>
        if k ≤ i then some (e.old e.sew d i)
        else if e.active i then ((vals.find? fun c => c.1 = i).map (·.2)) else none) e.v0
      raised := [], stop := q.2.2, k := k }
  else
    let q := s.portRead x r w (if f = .peek then e.peekFrom w p else p) ((List.range e.vl).filter fun i => e.active i)
    let k := q.2.2.at false B e.vl
    { s := s, port := if f = .peek then { q.1 with pos := p.pos } else q.1
      v := (e.partialTail q.2.2).fillV e.sew d (fun i =>
        if k ≤ i then some (e.old e.sew d i)
        else if e.active i then ((q.2.1.find? fun c => c.1 = i).map (·.2)) else none) e.v0
      raised := [], stop := q.2.2, k := k }

/-- Positions from k on filled as tail under TP (R183) (DEDUCED, log entry 18). -/
def VEnv.tailFrom (e : VEnv) (k : Nat) (d : VReg) (v : VFile) : VFile :=
  if e.tp then
    (List.range (e.positions e.sew)).foldl (fun v i => if k ≤ i then vput v e.leff e.sew d.val i 0 else v) v
  else v

end Sys2Proof.Machine
end

