-- ==== Sys2Proof/Machine/Post.lean ====
section
/-! DEFINITION. How engines report to the context that issued a command, wherever it is: on a hart, or saved in an area
(R295, R296, R301, R302). -/
namespace Sys2Proof.Machine

/-! ### Save areas -/

/-- Physical address of a byte offset of a save area. -/
def Saved.at (v : Saved) (o : Nat) : Nat := (v.pages[(v.areaOff + o) / 4096]?).getD 0 + (v.areaOff + o) % 4096

def Saved.word (v : Saved) (m : Mem) (o : Nat) : Word := m.word (v.at o)
def Saved.setWord (v : Saved) (m : Mem) (o : Nat) (w : Word) : Mem := m.setWord (v.at o) w

/-- Offset of the identity block (R302). -/
def identOff (helm : Bool) : Nat := if helm then 0x20800 else 0xCC00

/-- The words of an identity block (R302): USE, SCOPE, ITER, XCTX, XROOT, CWIN, GRAPH, ORIGIN, PFN, the faults. -/
def Ctx.words (c : Ctx) (origin : HartId) : List Word :=
  [c.use, c.scope, wordOf c.iter, wordOf (origin.die * 256 + c.tctx), wordOf c.root,
   wordOf (c.cwLen * 2 ^ 48 + c.cwBase * 2 ^ 32),
   (match c.graph with
    | some g => wordOf (g.node * 2 ^ 48 + g.area.toNat)
    | none => 0),
   wordOf (origin.quad * 256 + origin.core), wordOf (min c.lostFaults (2 ^ 32 - 1) * 2 ^ 32 + c.faults.length)] ++
  ((List.range 8).flatMap fun k =>
    match c.faults[k]? with
    | some f => [f.addr, f.cause]
    | none => [0, 0]) ++ List.replicate 7 0

/-- Write words from an offset of an area on. -/
def Saved.putWords (v : Saved) (m : Mem) (o : Nat) : List Word → Mem
  | [] => m
  | w :: ws => v.putWords (v.setWord m o w) (o + 8) ws

def Saved.putIdent (v : Saved) (m : Mem) : Mem := v.putWords m (identOff (v.lanes == 0)) (v.ctx.words v.origin)

/-! ### The issuing context -/

/-- The hart that holds a context. -/
def State.hartOf (s : State) (ctx : Nat) : Option HartId :=
  (s.allHarts.find? fun p => decide (p.2.ctx.map (·.id) = some ctx)).map (·.1)

/-- All dies the state lists, the focused one first. -/
def State.allDies (s : State) : List (Nat × Die) := (s.cur.die, s.die) :: s.dies.filter fun p => decide (p.1 ≠ s.cur.die)

/-- The die and the entry of a saved context. -/
def State.savedOf (s : State) (ctx : Nat) : Option (Nat × Saved) :=
  (s.allDies.findSome? fun p => (p.2.saved.find? fun v => decide (v.ctx.id = ctx)).map fun v => (p.1, v))

def State.modSaved (s : State) (ctx : Nat) (f : Saved → Saved) : State :=
  match s.savedOf ctx with
  | some (d, _) =>
    let die := s.getDie d
    s.putDie d { die with saved := die.saved.map fun v => if v.ctx.id = ctx then f v else v }
  | none => s

/-- The increment of a saved context's token: the counter rises, the count outstanding falls (R301). -/
def bumpSaved (v : Saved) (m : Mem) (tok : Tok) : Mem :=
  let o := 0x1C0 + 8 * tok.val
  let w := v.word m o
  v.setWord m o (wordOf ((bitsOf w 31 0 + 1) % 2 ^ 32 + (bitsOf w 38 32 - 1) * 2 ^ 32))

/-- A completed command reports: the scalar destination, if it has one and a value came, then the increment (R22), on the hart that
holds the context, after older merges (R111), or in its save area; a context that has ended receives nothing. A command of a handler
reports to the supervisor bank of its hart, whatever has become of the user context (DEDUCED, log entry 94). -/
def State.ownerPost (s : State) (o : Owner) (val : Option Word) : State :=
  let onHart (h : HartId) : State :=
    (s.modHart h fun x =>
      match val with
      | some v => x.completeS o.seq v
      | none => x.unmarkS o.seq).postAt h ⟨o.seq, o.sup, o.tok, none⟩
  if o.ctx = 0 ∨ o.sup = true then onHart o.hart
  else
    match s.hartOf o.ctx with
    | some h => onHart h
    | none =>
      match s.savedOf o.ctx with
      | none => s
      | some (_, v) =>
        let s := match val, v.pendS.find? fun p => p.2.2 = o.seq with
          | some x, some (_, d, _) => s.mapMem fun m => v.setWord m (0xC0 + 8 * d.val) (if d = 0 then 0 else x)
          | _, _ => s
        let s := s.mapMem fun m => bumpSaved v m o.tok
        s.modSaved o.ctx fun v => { v with pendS := v.pendS.filter fun p => decide (p.2.2 ≠ o.seq) }

/-- What an instruction answers without an engine's work: its completion is still to come (R355)
(DEDUCED, log entry 44). -/
def State.postLate (s : State) (o : Owner) (val : Option Word) : State :=
  s.mapHart fun h => { h with late := h.late ++ [⟨o.seq, o.sup, o.tok, val⟩] }

/-- The scalar destination is written and the increment still to come (R237 `cpretry`) (DEDUCED, log entry 94). -/
def State.ownerWrite (s : State) (o : Owner) (x : Word) : State :=
  match (if o.ctx = 0 ∨ o.sup = true then some o.hart else s.hartOf o.ctx) with
  | some h => s.modHart h fun y => y.completeS o.seq x
  | none => s

/-- A pending fault takes its place in issue order; beyond eight it is only counted (R296). -/
def Ctx.addFault (c : Ctx) (f : EngFault) : Ctx :=
  if 8 ≤ c.faults.length then { c with lostFaults := c.lostFaults + 1 }
  else { c with faults := c.faults.filter (fun x => decide (x.seq ≤ f.seq)) ++ f ::
                  c.faults.filter (fun x => decide (f.seq < x.seq)) }

/-- TRCAUSE of an engine fault: DEF, ENG and CAN set (R284, R295). -/
def engCause (c : Cause) (aux : Nat) (tok : Tok) : Word :=
  ({ cause := c, aux := aux, tk := tok.val, can := true, qf := false, eng := true, dfd := true, pc := 0, src := 0
     dones := [] : TrapRec }).causeWord false

/-- The increment of a command that a fault ended is made as cancelled; a POISON read counts in PSN (R310). -/
def State.faultPost (s : State) (o : Owner) (c : Cause) : State :=
  (if c = .poison then s.countPsn o.hart else s).ownerPost o none

/-- An engine fault waits at the context that issued the command (R296) (DEDUCED, log entry 94). -/
def State.ownerFile (s : State) (o : Owner) (f : EngFault) : State :=
  match s.hartOf o.ctx with
  | some h => s.modHart h fun x => { x with ctx := x.ctx.map fun k => k.addFault f }
  | none =>
    match s.savedOf o.ctx with
    | none => s
    | some (_, v) =>
      let v := { v with ctx := v.ctx.addFault f }
      (s.modSaved o.ctx fun _ => v).mapMem fun m => v.putIdent m

/-- An engine fault: the increment is made as cancelled, and the fault waits at the context (R296)
(DEDUCED, log entry 94). -/
def State.ownerFault (s : State) (o : Owner) (c : Cause) (aux : Nat) : State :=
  (s.faultPost o c).ownerFile o ⟨o.seq, o.addr, engCause c aux o.tok⟩

/-- The cause an access failure is reported as (R169, R171). -/
def XErr.cause : XErr → Cause
  | .poison => .poison
  | .bad _ => .poison
  | _ => .runfault

/-- The owner of a command that a queue entry issues. -/
def State.ownerFor (s : State) (x : VEntry) : Owner :=
  { seq := x.id, hart := s.cur, ctx := (s.hart.ctx.map (·.id)).getD 0, sup := x.sup, tok := x.tok.getD 0, addr := x.addr
    scope := (s.hart.ctx.map (·.scope)).getD 0 }

/-- Who translates for the focused hart. -/
def State.xl (s : State) (sup : Bool) : Xl :=
  { die := s.cur.die, ctx := s.hart.xlat.1, root := s.hart.xlat.2, user := !sup }

/-- The stamp of a copy: a beacon store of a word, where the address allows it (R188, R235). -/
def State.stampAddr (s : State) (x : Xl) (va : Word) : Option Nat :=
  if va.toNat % 8 ≠ 0 then none
  else
    match translate x.die s.pkg (s.getDie x.die).ranges x.ctx x.root va with
    | none => none
    | some t =>
      let pa := t.pa va.toNat
      if inBeacon pa && !s.pkg.cutOff x.die (homeDie pa) && t.allows .write x.user && !(inRunTable pa || inScopeTable pa || inCapTable pa) then some pa
      else none

/-- A word of a beacon is written whole. -/
def State.beaconWrite (s : State) (pa : Nat) (w : Word) : State :=
  s.mapPkg fun p => { p with mem := p.mem.setWord pa w, beaconPoison := clearPoison p.beaconPoison pa 8 }

end Sys2Proof.Machine
end

