-- ==== Sys2Proof/Machine/Copy.lean ====
section
/-! DEFINITION. The copy channels (13_copy_channels.md): capture and acceptance (R230 to R233), start (R233), delivery
chunk by chunk (R234, R238 to R240), ends (R235), steering (R237), faults and kills (R241, R242). -/
namespace Sys2Proof.Machine

/-! ### Layouts (R232) -/

/-- Dimensions of a layout group: (STRIDE, EXTENT), innermost first. -/
def layoutDims (e : VEnv) (a : VReg) : List (Nat × Nat) :=
  (List.range (min e.vl 8)).map fun i =>
    let w := vget e.v e.leff 64 a.val i
    (w / 2 ^ 32, w % 2 ^ 32)

/-- The element count N. -/
def dimsCount (ds : List (Nat × Nat)) : Nat := if ds.isEmpty then 0 else (ds.map (·.2)).foldl (· * ·) 1

/-- The stride rule, given what the inner dimensions span. -/
def stridesOk : Int → List (Nat × Nat) → Bool
  | _, [] => true
  | span, (st, ex) :: ds => decide (span ≤ st) && stridesOk (span + ((ex : Int) - 1) * st) ds

/-- The source record of element e (R232). -/
def dimsRecord : List (Nat × Nat) → Nat → Nat
  | [], _ => 0
  | (st, ex) :: ds, e => e % ex * st + dimsRecord ds (e / ex)

/-! ### Capture (R231, R233 order 2) -/

def planeNb (dst : Word) : Nat := bitsOf dst 27 24
/-- Bytes of the plane region of n elements. -/
def planeRegion (dst : Word) (n : Nat) : Nat := (n + 15) / 16 * groupBytes (decide (planeNb dst ≠ 0)) (planeNb dst)

/-- The checks of a command at capture; `w` is the source's record width when its handle is valid
(DEDUCED, log entry 37). -/
def captureOk (f : CpyFn) (ds : List (Nat × Nat)) (start : Nat) (dst : Word) (w : Option Nat) : Bool :=
  let n := dimsCount ds
  stridesOk 0 ds && decide (n < 2 ^ 40 ∧ start < 2 ^ 40) &&
    match f with
    | .rr => true
    | .rc =>
      match w with
      | some w => decide (dst.toNat % w = 0 ∧ dst.toNat + n * w ≤ Config.chartBytes)
      | none => true
    | .rp =>
      let off := bitsOf dst 20 0
      decide (bitsOf dst 63 28 = 0 ∧ bitsOf dst 23 21 = 0 ∧ planeNb dst ≠ 1 ∧ planeNb dst ≤ 8 ∧ off % 64 = 0 ∧
        off % Config.stageBytes + planeRegion dst n ≤ Config.stageBytes)

/-- Outcome of a capture. -/
inductive CopyCapture where
  | full
  | illegal
  | accepted (s : State)

/-- A copy command in its beat: captured, checked, accepted by its channel (R230, R231). -/
def State.copyCapture (s : State) (x : VEntry) (f : CpyFn) (ch : Chan) (e : VEnv) (a : VReg) : CopyCapture :=
  let c := s.core.chans[ch]
  let ds := layoutDims e a
  let src := e.scalar 0
  if 4 ≤ c.q.length then .full
  else if !captureOk f ds (e.scalar 1).toNat (e.scalar 2) ((s.run src).map RunD.w) then .illegal
  else
    let cmd : CopyCmd :=
      { seq := (c.seq + 1).toNat, f := f, owner := s.ownerFor x, dims := ds, n := dimsCount ds, src := src
        start := (e.scalar 1).toNat, dst := e.scalar 2, stamp := e.scalar 3, state := .queued, count := 0, w := 0, killed := false, mark0 := 0
        posted := false, retry := none, tctx := s.hart.xlat.1, root := s.hart.xlat.2, user := !x.sup, srcTr := none
        dstTr := none }
    .accepted (s.mapCore fun k => { k with chans := k.chans.set ch { c with seq := c.seq + 1, q := c.q ++ [cmd] } })

/-! ### Ends (R235) -/

def cOK : Nat := 0
def cBUSY : Nat := 1
def cINVAL : Nat := 2
def cBROKEN : Nat := 5
def cABORTED : Nat := 6
def cEND : Nat := 7
def cCHUNK : Nat := 8
def cFAULTED : Nat := 0x88
def cKILLED : Nat := 0x89

def copyStatus (code count : Nat) : Word := wordOf (code * 2 ^ 56 + count % 2 ^ 48)

def State.modChan (s : State) (ch : Chan) (f : Channel → Channel) : State :=
  s.mapCore fun k => { k with chans := k.chans.set ch (f k.chans[ch]) }

/-- Take the head command off its channel and keep its status among the last eight (R237). -/
def State.copyPop (s : State) (ch : Chan) (c : CopyCmd) (code count : Nat) : State :=
  s.modChan ch fun k => { k with q := k.q.drop 1, ended := ((c.seq, copyStatus code count) :: k.ended).take 8 }

/-- The increment of a command's end: its own, or once it has made that at a CHUNK stop, that of the `cpretry` that
resumed it (R235, R237, R240); it waits for older merges (R111). -/
def State.copyIncrement (s : State) (c : CopyCmd) : State :=
  if c.posted then
    match c.retry with
    | some (o, _) => s.ownerPost o none
    | none => s
  else s.ownerPost c.owner none

/-- Unbind a started command: the source's reader leaves, a destination run goes as `f` says. -/
def State.copyUnbind (s : State) (c : CopyCmd) (f : RunD → RunD) : State :=
  s.mapPkg fun p =>
    let p := p.dropReader c.src
    match c.f with
    | .rr => p.modRun c.dst f
    | _ => p

/-- DEDUCED, log entry 8. -/
def CopyCmd.xl (c : CopyCmd) : Xl := ⟨c.owner.hart.die, c.tctx, c.root, c.user⟩

/-- OK, END or BROKEN: unbind, stamp, increment, in that order (R235). A stamp address that passed at the start and passes no more
gets no stamp, and the command ends as it would (DEDUCED, log entry 111). -/
def State.copyFinish (s : State) (ch : Chan) (c : CopyCmd) (code : Nat) : State :=
  let s := s.copyUnbind c RunD.unbindWrite
  let s := if c.stamp = 0 then s else
    match s.stampAddr c.xl c.stamp with
    | some pa => s.beaconWrite pa (wordOf c.seq)
    | none => s
  (s.copyIncrement c).copyPop ch c code c.count

/-- A fault after start ends the command at its element (R241); of a command that a `cpretry` resumed it is that increment that
counts as cancelled, and the trap names its token (DEDUCED, log entry 50) (DEDUCED, log entry 102). -/
def State.copyFault (s : State) (ch : Chan) (c : CopyCmd) (cause : Cause) : State :=
  let s := s.copyUnbind c RunD.unbindWrite
  let s := match (if c.posted then c.retry else none) with
    | some (o, _) =>
      (s.faultPost o cause).ownerFile c.owner ⟨c.owner.seq, c.owner.addr, engCause cause c.count o.tok⟩
    | none => s.ownerFault c.owner cause c.count
  s.copyPop ch c cFAULTED c.count

/-- A failure at start (R233 orders 3, 4 and 7): nothing bound, an engine fault (DEDUCED, log entry 46)
(DEDUCED, log entry 50). -/
def State.copyStartFault (s : State) (ch : Chan) (c : CopyCmd) (cause : Cause) : State :=
  (s.ownerFault c.owner cause 0).copyPop ch c cFAULTED 0

/-- A status at start (R233 orders 5 and 6). -/
def State.copyStartStatus (s : State) (ch : Chan) (c : CopyCmd) (code : Nat) : State :=
  (s.copyIncrement c).copyPop ch c code 0

/-! ### Start (R233, R234) -/

/-- The writer fields of a copy channel (R159) (DEDUCED, log entry 33). -/
def copyWriter (h : HartId) (ch : Chan) : Writer := ⟨2, h.die, h.quad, h.core, 0, ch.val, false⟩

/-- Put a command at the head of its channel's queue. -/
def State.copyPut (s : State) (ch : Chan) (c : CopyCmd) : State := s.modChan ch fun k => { k with q := c :: k.q.drop 1 }

/-- The destination check of a start, and the element and bind that follow. Of several failures of order 7 the source's first record
decides, then the destination's, then the stamp address (DEDUCED, log entry 112). -/
def State.copyBegin (s : State) (ch : Chan) (c : CopyCmd) (src : RunD) : State :=
  let x := c.xl
  let stampBad := decide (c.stamp ≠ 0) && (s.stampAddr x c.stamp).isNone
  match s.checkStream x src .read (c.start * src.w) with
  | .error e => s.copyStartFault ch c e.cause
  | .ok st =>
    match c.f with
    | .rr =>
      match s.run c.dst with
      | none => s.copyStartFault ch c .runfault
      | some d =>
        match (if d.mark.toNat < d.cap.toNat then s.checkStream x d .write (d.mark.toNat * d.w) else .ok none) with
        | .error e => s.copyStartFault ch c e.cause
        | .ok dt =>
          if stampBad then s.copyStartFault ch c .beacon
          else
            ((s.mapPkg fun p => (p.setRun c.src src.addReader).modRun c.dst fun r =>
                r.bindWrite (copyWriter s.cur ch)).copyPut ch
              { c with state := .running, w := src.w, srcTr := st, dstTr := dt, mark0 := d.mark.toNat })
    | _ =>
      if stampBad then s.copyStartFault ch c .beacon
      else (s.mapPkg fun p => p.setRun c.src src.addReader).copyPut ch { c with state := .running, w := src.w, srcTr := st }

/-- The orders 4 to 6 of R233 that look at the destination run, then order 7. -/
def State.copyStartChecks (s : State) (ch : Chan) (c : CopyCmd) (src : RunD) : State :=
  match c.f with
  | .rr =>
    match s.run c.dst with
    | none => s.copyStartFault ch c .runfault
    | some d =>
      if d.state = .sealed ∨ d.state = .broken ∨ d.state = .view then s.copyStartFault ch c .runend
      else if c.src = c.dst ∨ src.w ≠ d.w then s.copyStartStatus ch c cINVAL
      else if d.state = .opened ∨ src.rdrs = 511 then s.copyStartStatus ch c cBUSY
      else s.copyBegin ch c src
  | .rp =>
    if (planeNb c.dst = 0 ∧ src.w ≠ 2) ∨ (planeNb c.dst ≠ 0 ∧ src.w ≠ 1) then s.copyStartStatus ch c cINVAL
    else if src.rdrs = 511 then s.copyStartStatus ch c cBUSY
    else s.copyBegin ch c src
  | .rc => if src.rdrs = 511 then s.copyStartStatus ch c cBUSY else s.copyBegin ch c src

/-! ### Delivery (R234, R238) -/

/-- Whether an operation in the array reads a stage: the stages of a held operation (R253). -/
def Mop.stages (o : Mop) : List Nat :=
  if o.mg = 0 ∨ o.ng = 0 ∨ o.kg = 0 ∨ o.f = .mzero then []
  else
    let st (d : Word) : Nat := bitsOf d 20 19
    st o.descA :: st o.descB :: (if o.afmt = 8 then [] else [st o.scaleA, st o.scaleB])

def Quad.held (q : Quad) (stage : Nat) : Bool :=
  match q.mops with
  | o :: _ => decide (o.state ≠ .queued) && o.stages.contains stage
  | [] => false

/-- The bytes of one element's group with the element's code put in; element 0 of a group clears it first (R234). -/
def planePut (q : Quad) (nb base e v : Nat) : Quad :=
  let gb := groupBytes (decide (nb ≠ 0)) nb
  let a := base + e / 16 * gb
  let t := e % 16
  let q := if t = 0 then q.planeWrite a (List.replicate gb 0) else q
  let setBit (q : Quad) (code p : Nat) : Quad :=
    let b := a + 2 * p + t / 8
    let old := (q.plane.read b).toNat
    let new := old - old / 2 ^ (t % 8) % 2 * 2 ^ (t % 8) + code / 2 ^ p % 2 * 2 ^ (t % 8)
    q.planeWrite b [BitVec.ofNat 8 new]
  if nb ≠ 0 then (List.range nb).foldl (fun q p => setBit q (v % 2 ^ nb) p) q
  else ((List.range 9).foldl (fun q p => setBit q (sigmaOf v) p) q).planeWrite (a + 24 + t) [BitVec.ofNat 8 (fExp .bf16 v)]

/-- Where delivery of one element leads. -/
inductive CopyElem where
  | wait
  | fault (e : XErr)
  | over (code : Nat)
  | done (s : State) (c : CopyCmd)

/-- Deliver the next element of a running command. -/
def State.copyElem (s : State) (c : CopyCmd) (src : RunD) : CopyElem :=
  let rec0 := c.start + dimsRecord c.dims c.count
  match src.avail (rec0 * src.w) src.w with
  | .wait => .wait
  | .ended => .over cEND
  | .broken => .over cBROKEN
  | .ready =>
    match s.readStream c.xl src c.srcTr (rec0 * src.w) src.w with
    | .error e => .fault e
    | .ok (t, bs) =>
      let c1 := { c with srcTr := t, count := c.count + 1 }
      match c.f with
      | .rr =>
        (match s.run c.dst with
         | none => .fault .fault
         | some d =>
           if d.cap.toNat ≤ c.mark0 + c.count then .fault .fault
           else
             match s.writeStream c.xl d c.dstTr ((c.mark0 + c.count) * d.w) bs with
             | .error e => .fault e
             | .ok (dt, s) =>
               .done (s.mapPkg fun p => p.publish c.dst (c.mark0 + c.count + 1)) { c1 with dstTr := dt })
      | .rc => .done (s.chartWrite (c.dst.toNat + c.count * src.w) src.w (leNat bs)) c1
      | .rp => .done (s.mapQuad fun q => planePut q (planeNb c.dst) (bitsOf c.dst 20 0) c.count (leNat bs)) c1

/-- The command is inside a chunk (R238): it has begun one and not delivered it whole. -/
def CopyCmd.midChunk (c : CopyCmd) : Bool := decide (c.state = .running ∧ c.count ≠ c.n ∧ c.count % (4096 / max 1 c.w) ≠ 0)

/-- The next element of a command waits on its source's MARK (R163, R234). -/
def CopyCmd.waitsOn (c : CopyCmd) (src : RunD) : Bool :=
  decide (src.avail ((c.start + dimsRecord c.dims c.count) * src.w) src.w = .wait)

/-- The command stands at no kill point and at no abort point: it is inside a chunk, and its next element does not wait on its
source's MARK (R238, R282) (DEDUCED, log entry 15). -/
def State.copyGoesOn (s : State) (c : CopyCmd) : Bool := c.midChunk && !(s.run c.src).any c.waitsOn

/-- End the head command ABORTED, and every queued one with COUNT 0. -/
def copyAbortAll (ch : Chan) : Nat → State → State
  | 0, s => s
  | n + 1, s =>
    match s.core.chans[ch].q with
    | [] => s
    | c :: _ =>
      let s := if c.state = .queued then s else s.copyUnbind c RunD.unbindWrite
      let s := s.copyIncrement c
      copyAbortAll ch n (s.copyPop ch c cABORTED (if c.state = .queued then 0 else c.count))

/-- The `cpabort`s that wait on a channel take effect once its command is at an abort point, a chunk boundary or a wait on its
source's MARK: the command and the queued ones end ABORTED, and then the increments of the `cpabort`s are made (R237, R282)
(DEDUCED, log entry 15) (DEDUCED, log entry 47). -/
def State.copySettle (s : State) (ch : Chan) : State :=
  let k := s.core.chans[ch]
  if k.aborts.isEmpty || (k.q.head?).any s.copyGoesOn then s
  else k.aborts.foldl (fun s o => s.ownerPost o (some 0)) (copyAbortAll ch 4 (s.modChan ch fun k => { k with aborts := [] }))

/-- A `cpabort` waits on a channel whose command, if it has one, is at an abort point (R237). -/
def State.abortDue (s : State) (ch : Chan) : Bool :=
  !s.core.chans[ch].aborts.isEmpty && !(s.core.chans[ch].q.head?).any s.copyGoesOn

/-- The channel starts its next accepted command, where no `cpabort` comes first (R233, R237); with N = 0 only the stamp is looked
at. -/
def State.copyStart (s : State) (ch : Chan) : State :=
  if s.abortDue ch then s.copySettle ch
  else
  match s.core.chans[ch].q with
  | [] => s
  | c :: _ =>
    if c.state ≠ .queued then s
    else if c.n = 0 then
      (if c.stamp = 0 then s.copyStartStatus ch c cOK
       else
         match s.stampAddr c.xl c.stamp with
         | none => s.copyStartFault ch c .beacon
         | some pa => (s.beaconWrite pa (wordOf c.seq)).copyStartStatus ch c cOK)
    else
      match s.run c.src with
      | none => s.copyStartFault ch c .runfault
      | some src => s.copyStartChecks ch c src

/-- Kill one command at the head: its run becomes BROKEN, no stamp, the increment cancelled. -/
def State.copyKillHead (s : State) (ch : Chan) (c : CopyCmd) : State :=
  let s := if c.state = .queued then s else s.copyUnbind c RunD.break
  (s.copyIncrement c).copyPop ch c cKILLED (if c.state = .queued then 0 else c.count)

/-- Deliver elements until the chunk ends, the command ends, or the source makes it wait; at the boundary or the wait a kill and
then the `cpabort`s that wait take effect (R237, R242, R282). A command that is delivered whole ends in a step of its own, its
stamp after its payload (R196, R235) (DEDUCED, log entry 5) (DEDUCED, log entry 15). -/
def copyRun (ch : Chan) (src : RunD) (stop : Nat) : Nat → State → CopyCmd → State
  | 0, s, c => s.copyPut ch c
  | fuel + 1, s, c =>
    if c.count = stop then
      (if c.killed then s.copyKillHead ch c else s.copyPut ch c)
    else
      match s.copyElem c src with
      | .wait => if c.killed then s.copyKillHead ch c else s.copyPut ch c
      | .over code => if c.killed then s.copyKillHead ch c else s.copyFinish ch c code
      | .fault e =>
        if c.killed then (s.noteErr e).copyKillHead ch c else (s.noteErr e).copyFault ch c e.cause
      | .done s c =>
        copyRun ch src stop fuel (s.modChan ch fun k => { k with mark := k.mark + 1 }) c

/-- The die on which the storage of source element e of a command lies; its own core's where that cannot be told. -/
def State.elemDie (s : State) (c : CopyCmd) (src : RunD) (e : Nat) : Nat :=
  let x := c.xl.reading src
  let va := src.byteAddr ((c.start + dimsRecord c.dims e) * src.w)
  match translate x.die s.pkg (s.getDie x.die).ranges x.ctx x.root va with
  | some t => homeDie (t.pa va.toNat)
  | none => s.cur.die

/-- The storage of a source element lies on another die than the core (R240). -/
def State.elemFar (s : State) (c : CopyCmd) (src : RunD) (e : Nat) : Bool := decide (s.elemDie c src e ≠ s.cur.die)

/-- The elements of the chunk that holds element e. -/
def CopyCmd.chunkOf (c : CopyCmd) (w e : Nat) : List Nat :=
  let k := 4096 / max 1 w
  (List.range (min c.n (e / k * k + k) - e / k * k)).map (· + e / k * k)

/-- Source element e lies below the source's MARK: its record can be on its way (R163, R234). -/
def CopyCmd.below (c : CopyCmd) (src : RunD) (e : Nat) : Bool :=
  decide (src.avail ((c.start + dimsRecord c.dims e) * src.w) src.w = .ready)

/-- Some record of the chunk crosses a link between dies, and with it the expander (R240). -/
def State.chunkFar (s : State) (c : CopyCmd) (src : RunD) (e : Nat) : Bool :=
  (c.chunkOf src.w e).any fun i => c.below src i && s.elemFar c src i

/-- Put an element's destination bytes to free values (R240, DESIGN CHOICE, log entry 1). -/
def State.scrambleElem (s : State) (c : CopyCmd) (w e : Nat) : State :=
  let free (n : Nat) : List Byte := (List.range n).map fun k => (Config.freeWord (s.fresh + k)).setWidth 8
  match c.f with
  | .rr =>
    match s.run c.dst with
    | none => s
    | some d =>
      if d.cap.toNat ≤ c.mark0 + e then s
      else
        match s.writeStream c.xl d none ((c.mark0 + e) * d.w) (free d.w) with
        | .ok (_, s) => s.bump d.w
        | .error _ => s
  | .rc => (s.chartWrite (c.dst.toNat + e * w) w (leNat (free w))).bump w
  | .rp =>
    let gb := groupBytes (decide (planeNb c.dst ≠ 0)) (planeNb c.dst)
    if e % 16 = 0 then (s.mapQuad fun q => q.planeWrite (bitsOf c.dst 20 0 + e / 16 * gb) (free gb)).bump gb else s

/-- The expander restores chunks in parallel lanes: bytes of chunks that have crossed a link and are not delivered may already
lie in the destination, so that they hold free values (R240); a record at or above the source's MARK crosses nothing. -/
def State.scramble (s : State) (c : CopyCmd) (src : RunD) : State :=
  (((List.range c.n).filter fun e => decide (c.count ≤ e) && c.below src e).filter fun e => s.chunkFar c src e).foldl
    (fun s e => s.scrambleElem c src.w e) s

/-- A chunk that fails to expand stops the command (R240), and the boundary it came over counts it (R327); which of those on its
way that is, is a free choice (DESIGN CHOICE, log entry 1). -/
def State.copyChunkFail (s : State) (ch : Chan) (c : CopyCmd) (src : RunD) : State :=
  let from' := (((c.chunkOf src.w c.count).find? fun e => c.below src e && s.elemFar c src e).map fun e => s.elemDie c src e).getD s.cur.die
  let way := s.pkg.wayLinks from' s.cur.die
  let l := (way[Config.freeChoice s.fresh % max 1 way.length]?).getD 8
  let s := (s.mapPkg fun p => p.modLink l fun k => { k with chunkF := min 65535 (k.chunkF + 1) }).bump 1
  (s.copyIncrement c).copyPut ch { c with state := .stopped, posted := true, retry := none }

/-- The chunk of a running command at its boundary, as it goes on: stopped by a kill or a `cpabort`, suspended on a hold (R239),
failed (R240), or delivered. -/
def State.copyChunkAt (s : State) (ch : Chan) (c : CopyCmd) (src : RunD) (fails : Bool) : State :=
  let k := 4096 / src.w
  if c.f = .rp ∧ c.count % k = 0 ∧ s.quad.held (stageOf (bitsOf c.dst 20 0)) then s.copyPut ch { c with state := .suspended }
  else
    let s := if c.count % k = 0 then s.scramble c src else s
    if fails ∧ c.count % k = 0 ∧ s.chunkFar c src c.count then s.copyChunkFail ch c src
    else copyRun ch src (min c.n (c.count / k * k + k)) (k + 1) s { c with state := .running }

/-- The channel delivers the next chunk (R238), or ends a command that is delivered whole (R235), where no `cpabort` comes first
(R237); a plane copy first looks at the stage's hold (R239) (DEDUCED, log entry 15). -/
def State.copyChunk (s : State) (ch : Chan) (fails : Bool) : State :=
  if s.abortDue ch then s.copySettle ch
  else
  match s.core.chans[ch].q with
  | [] => s
  | c :: _ =>
    if c.state ≠ .running ∧ c.state ≠ .suspended then s
    else if c.state = .running ∧ c.count = c.n then s.copyFinish ch c cOK
    else
      (match s.run c.src with
       | none => if c.killed then s.copyKillHead ch c else s.copyFault ch c .runfault
       | some src => s.copyChunkAt ch c src fails).copySettle ch

/-! ### Steering (R237) -/

/-- The status word of a sequence number (DEDUCED, log entry 47). -/
def Channel.stat (c : Channel) (seq : Nat) : Word :=
  match c.q.find? fun x => decide (x.seq = seq) with
  | some x =>
    match x.state with
    | .queued => copyStatus 0x80 0
    | .running => copyStatus 0x81 x.count
    | .suspended => copyStatus 0x82 x.count
    | .stopped => copyStatus cCHUNK x.count
  | none =>
    match c.ended.find? fun x => decide (x.1 = seq) with
    | some x => x.2
    | none => copyStatus 0xFF 0

/-- A control function in its beat (R237). `d` is the owner that receives the result (DEDUCED, log entry 47). -/
def State.copyControl (s : State) (o : Owner) (f : CpcFn) (d : SReg) (ch : Chan) (seq : Word) : State :=
  let c := s.core.chans[ch]
  match f with
  | .mark => s.postLate o (some c.mark)
  | .seq => s.postLate o (some c.seq)
  | .stat => s.postLate o (some (c.stat seq.toNat))
  | .retry =>
    match c.q with
    | x :: _ =>
      if x.state = .stopped then
        (s.ownerWrite o 0).copyPut ch { x with state := .running, retry := some (o, d) }
      else s.postLate o (some 2)
    | [] => s.postLate o (some 2)
  | .abort =>
    if c.q.isEmpty then s.postLate o (some 2)
    else s.modChan ch fun k => { k with aborts := k.aborts ++ [o] }

/-! ### Kills (R242) -/

/-- Kill every command of a channel that a predicate names: queued, suspended and stopped ones at once, and one that waits on its
source's MARK; one inside a chunk that can go on at its next kill point (R242, R282) (DEDUCED, log entry 15). -/
def State.copyKill (s : State) (ch : Chan) (p : Owner → Bool) : State :=
  let q := s.core.chans[ch].q
  let s := match q with
    | c :: _ =>
      if !p c.owner then s
      else if s.copyGoesOn c then s.copyPut ch { c with killed := true }
      else s.copyKillHead ch c
    | [] => s
  let dies (c : CopyCmd) : Bool := p c.owner && !c.killed
  let gone := s.core.chans[ch].q.filter dies
  let s := gone.foldl (fun s c => s.copyIncrement c) s
  s.modChan ch fun k =>
    { k with q := k.q.filter fun c => !dies c
             ended := ((gone.reverse.map fun c => (c.seq, copyStatus cKILLED 0)) ++ k.ended).take 8 }

end Sys2Proof.Machine
end

