-- ==== Sys2Proof/Machine/Sorter.lean ====
section
/-! DEFINITION. The Sorter of a quad (12_sort_merge_engine.md): control words (R213, R215), acceptance and start (R210 to
R215), the order of records and the combine (R216 to R221, R354), ends (R222, R223, R226), progress and aborts (R224,
R225), kills (R227). -/
namespace Sys2Proof.Machine

/-! ### The control word (R213) -/

def ctlComb (c : Word) : Nat := bitsOf c 35 32
def ctlIndexed (c : Word) : Bool := bitOf c 30
/-- Value field size in bytes. -/
def ctlVsz (c : Word) : Nat := if bitOf c 29 then 8 else 4
def ctlVord (c : Word) : Nat := bitsOf c 28 27
def ctlVoff (c : Word) : Nat := bitsOf c 26 21
/-- Key size in bytes. -/
def ctlKsz (c : Word) : Nat := if bitOf c 8 then 8 else 4
def ctlKord (c : Word) : Nat := bitsOf c 7 6
def ctlKoff (c : Word) : Nat := bitsOf c 5 0

def kordOf (n : Nat) : KOrd :=
  match n with
  | 0 => .u | 1 => .s | _ => .f

/-- COMB names a function with a value field (DEDUCED, log entry 108). -/
def combHasValue (n : Nat) : Bool := decide (3 ≤ n ∧ n ≤ 7)

/-- VL is in the range of a list command (R214). -/
def SrtFn.vlOk (f : SrtFn) (vl : Nat) : Bool :=
  match f with
  | .sort => decide (vl = 3)
  | .merge => decide (3 ≤ vl ∧ vl ≤ 18)
  | .join => decide (vl = 4)
  | .tag => decide (vl = 3)

/-- Key and value fields share no byte. -/
def fieldsApart (c : Word) : Bool :=
  decide (ctlKoff c + ctlKsz c ≤ ctlVoff c ∨ ctlVoff c + ctlVsz c ≤ ctlKoff c)

/-- The checks of R215 order 1 on the control word; VOFF, of the value field, counts only where the combine has one
(DEDUCED, log entry 108). -/
def ctlOk (f : SrtFn) (c : Word) : Bool :=
  let comb := ctlComb c
  decide (bitsOf c 63 36 = 0 ∧ bitsOf c 31 31 = 0 ∧ bitsOf c 20 9 = 0 ∧ comb ≤ 8 ∧ ctlVord c ≠ 3 ∧ ctlKord c ≠ 3) &&
  decide (comb = 3 → ctlVsz c = 4) && decide (comb = 4 → ctlVsz c = 8) &&
  decide ((comb = 5 ∨ comb = 6) → ctlVord c = 2 → ctlVsz c = 4) &&
  decide (ctlKoff c % ctlKsz c = 0) && (!combHasValue comb || (decide (ctlVoff c % ctlVsz c = 0) && fieldsApart c)) &&
  (match f with
   | .join => decide (comb = 0)
   | .tag => decide (comb = 0 ∧ ctlKsz c = 4)
   | _ => true) &&
  decide (ctlIndexed c = true → ctlKord c = 0) && decide (ctlKord c = 2 → ctlKsz c = 4)

/-- The key of a record as a number that orders as KORD says (R211). -/
def recKey (c : Word) (bs : List Byte) : Nat :=
  (kordOf (ctlKord c)).key (8 * ctlKsz c) (leNat ((bs.drop (ctlKoff c)).take (ctlKsz c)))

/-- The value field of a record. -/
def recVal (c : Word) (bs : List Byte) : Nat := leNat ((bs.drop (ctlVoff c)).take (ctlVsz c))

/-- A record with bytes replaced from an offset on. -/
def recPut (bs : List Byte) (off : Nat) (x : List Byte) : List Byte := bs.take off ++ x ++ bs.drop (off + x.length)

/-! ### The combine (R217) -/

/-- One step of a folding combine on value fields. -/
def combStep (c : Word) (a b : Nat) : Nat × FFlags :=
  let w := 8 * ctlVsz c
  match ctlComb c with
  | 3 => fAdd .f32 .rne a b
  | 4 => ((a + b) % 2 ^ 64, 0)
  | 5 => if ctlVord c = 2 then fMinMax .f32 true a b
         else (if (kordOf (ctlVord c)).key w a < (kordOf (ctlVord c)).key w b then b else a, 0)
  | 6 => if ctlVord c = 2 then fMinMax .f32 false a b
         else (if (kordOf (ctlVord c)).key w b < (kordOf (ctlVord c)).key w a then b else a, 0)
  | _ => (a, 0)

/-- The records a whole group of equal keys gives, in order, with the flags raised (R217, R218). -/
def combGroup (c : Word) (g : List (List Byte)) : List (List Byte) × FFlags :=
  match g with
  | [] => ([], 0)
  | g0 :: rest =>
    match ctlComb c with
    | 1 => ([g0], 0)
    | 2 => ([(g0 :: rest).getLast?.getD g0], 0)
    | 7 => ([recPut g0 (ctlVoff c) (leBytes (min (rest.length + 1) (2 ^ (8 * ctlVsz c) - 1)) (ctlVsz c))], 0)
    | n =>
      if combHasValue n then
        let r := rest.foldl (fun (acc : Nat × FFlags) x =>
          let y := combStep c acc.1 (recVal c x)
          (y.1, acc.2 ||| y.2)) (recVal c g0, 0)
        ([recPut g0 (ctlVoff c) (leBytes r.1 (ctlVsz c))], r.2)
      else (g0 :: rest, 0)

/-! ### The pass table and ends -/

def passStatus (code : Nat) (flags : FFlags) (count : Nat) : Word :=
  wordOf (code * 2 ^ 56 + flags.toNat * 2 ^ 48 + count % 2 ^ 48)

/-- Show a pass in the table (R224). -/
def Quad.showPass (q : Quad) (p : Pass) (status : Word) (done : Bool) : Quad :=
  { q with passTab := q.passTab.map fun e =>
      if e.seq = p.owner.seq then
        { e with status := status, nRead := p.nRead, nOut := p.nOut, nAux := p.nAux, done := done }
      else e }

/-- Room for a new entry: the oldest entry of a finished pass goes when 32 are there (R224). -/
def evictPass (t : List PassEnt) : List PassEnt :=
  if t.length < 32 then t
  else match t.find? (·.done) with
    | some e => t.filter fun x => decide (x.seq ≠ e.seq)
    | none => t

def State.dropPass (s : State) (p : Pass) : State :=
  s.mapQuad fun q => { q with passes := q.passes.filter fun x => decide (x.owner.seq ≠ p.owner.seq) }
def State.putPass (s : State) (p : Pass) : State :=
  s.mapQuad fun q => { q with passes := q.passes.map fun x => if x.owner.seq = p.owner.seq then p else x }

/-- Unbind a running pass: its outputs go as `f` says, its inputs lose a reader. -/
def State.passUnbind (s : State) (p : Pass) (f : RunD → RunD) : State :=
  if !p.running then s
  else
    s.mapPkg fun g =>
      let g := g.modRun p.out f
      let g := if p.aux = 0 then g else g.modRun p.aux f
      p.ins.foldl (fun g h => g.dropReader h) g

/-- Flags of the combine merge into the issuer's XST, on its hart or in its save area (R217, R222). -/
def State.ownerFlags (s : State) (o : Owner) (f : FFlags) : State :=
  if f = 0 then s
  else
    match (if o.ctx = 0 ∨ o.sup = true then some o.hart else s.hartOf o.ctx) with
    | some h => s.modHart h fun x => { x with xst := x.xst ||| f }
    | none =>
      match s.savedOf o.ctx with
      | some (_, v) => s.mapMem fun m => v.setWord m 0x70 (v.word m 0x70 ||| f.setWidth 64)
      | none => s

/-- Bytes of a working record: free values. -/
def freeRecord (fresh w : Nat) : List Byte := (List.range w).map fun k => (Config.freeWord (fresh + k)).setWidth 8

/-- A sort of more than 65,536 records that ends before it publishes any leaves free values in its working records, where it could
write them (R221, DESIGN CHOICE, log entry 1). -/
def State.sortSpoil (s : State) (p : Pass) : State :=
  let n := p.recs.length
  if p.f ≠ .sort ∨ n ≤ 65536 ∨ p.nOut ≠ 0 then s
  else
    match s.run p.out with
    | none => s
    | some r =>
      ((List.range (min r.cap.toNat (2 * n))).foldl (fun t k =>
        match t.writeStream ⟨p.owner.hart.die, p.tctx, p.root, p.user⟩ r none (k * r.w) (freeRecord (s.fresh + k * r.w) r.w) with
        | .ok (_, t) => t
        | .error _ => t) s).bump (2 * n * r.w)

/-- The `sabort`s that named a pass make their increments once it has ended (R225). -/
def State.abortsPost (s : State) (p : Pass) : State := p.aborts.foldl (fun s o => s.ownerPost o (some 0)) s

/-- A pass ends with a status (R222): OK seals, any other status unbinds to ALLOC; then s[D], the flags, the increment. -/
def State.passEnd (s : State) (p : Pass) (code : Nat) : State :=
  let st := passStatus code p.flags p.nOut
  let s := s.sortSpoil p
  let s := s.passUnbind p (if code = 0 then RunD.seal else RunD.unbindWrite)
  let s := s.ownerFlags p.owner p.flags
  let s := s.ownerPost p.owner (some st)
  ((s.mapQuad fun q => q.showPass p st true).dropPass p).abortsPost p

/-- A fault ends a pass (R226): no status, no flags; an engine fault with the index at which it stopped
(DEDUCED, log entry 50). -/
def State.passFault (s : State) (p : Pass) (c : Cause) (aux : Nat) : State :=
  let s := (s.sortSpoil p).passUnbind p RunD.unbindWrite
  let s := s.ownerFault p.owner c aux
  ((s.mapQuad fun q => q.showPass p (passStatus 0x88 p.flags p.nOut) true).dropPass p).abortsPost p

/-- A kill ends a pass (R227), an `sabort` that waits for the same boundary or not (R228). -/
def State.passKill (s : State) (p : Pass) : State :=
  let s := (s.sortSpoil p).passUnbind p RunD.break
  let s := s.ownerPost p.owner none
  ((s.mapQuad fun q => q.showPass p (passStatus 0x89 p.flags p.nOut) true).dropPass p).abortsPost p

def State.sorterKill (s : State) (who : Owner → Bool) : State :=
  (s.quad.passes.filter fun p => who p.owner).foldl State.passKill s

/-! ### Acceptance (R210, R212) -/

/-- A list command in its beat: nothing when the queue holds 16, else the pass accepted. Entries of the pass table whose output has
been released are gone (R224) (DEDUCED, log entry 36). -/
def State.sorterAccept (s : State) (x : VEntry) (f : SrtFn) (e : VEnv) (a : VReg) : Option State :=
  if 16 ≤ s.quad.passes.length then none
  else
    let hs := (List.range x.vl).map fun i => wordOf (vget e.v e.leff 64 a.val i)
    let o := s.ownerFor x
    let p : Pass :=
      { f := f, owner := o, ctl := e.scalar 0, out := hs.headD 0, aux := (hs[1]?).getD 0, ins := hs.drop 2
        running := false, pos := (hs.drop 2).map fun _ => 0, nRead := 0, nOut := 0, nAux := 0
        flags := 0, reading := true, recs := [], group := [], formed := [], aborts := [], tctx := s.hart.xlat.1, root := s.hart.xlat.2
        user := !x.sup, trs := hs.map fun _ => none }
    some (s.mapQuad fun q =>
      { q with
        passes := q.passes ++ [p]
        passTab := evictPass (q.passTab.filter fun t => (s.pkg.run t.handle).isSome) ++ [⟨o.seq, p.out, passStatus 0x80 0 0, 0, 0, 0, false⟩] })

/-! ### Start (R215) -/

def Pass.xl (p : Pass) : Xl := ⟨p.owner.hart.die, p.tctx, p.root, p.user⟩

/-- The command asks for an auxiliary run; it may name one. -/
def Pass.needsAux (p : Pass) : Bool :=
  match p.f with
  | .sort => decide (ctlComb p.ctl = 8)
  | .merge => decide (ctlComb p.ctl = 8)
  | _ => false
def Pass.mayAux (p : Pass) : Bool := p.needsAux || decide (p.f = .join)

/-- A run of keyed records: W of 8 to 64 bytes that hold the key, and the value where the combine has one (R211). -/
def keyedOk (c : Word) (value : Bool) (r : RunD) : Bool :=
  decide (8 ≤ r.w ∧ r.w ≤ 64 ∧ ctlKoff c + ctlKsz c ≤ r.w) && (!value || decide (ctlVoff c + ctlVsz c ≤ r.w))

/-- The width rules of order 4 (R211, R219 to R221). -/
def Pass.widthsOk (p : Pass) (out : RunD) (aux : Option RunD) (ins : List RunD) : Bool :=
  let v := combHasValue (ctlComb p.ctl)
  match p.f with
  | .join =>
    match ins with
    | [pr, t] =>
      keyedOk p.ctl false pr && keyedOk p.ctl false out && (ctlIndexed p.ctl || keyedOk p.ctl false t) &&
        decide (pr.w + t.w ≤ out.w) &&
        (match aux with
         | some m => decide (m.w = pr.w)
         | none => true)
    | _ => false
  | _ =>
    keyedOk p.ctl v out && ins.all (fun r => keyedOk p.ctl v r && decide (r.w = out.w)) &&
      (match aux with
       | some b => decide (b.w = 1)
       | none => true)

def isClosed (r : RunD) : Bool := decide (r.state = .sealed ∨ r.state = .broken ∨ r.state = .view)

/-- The writer fields of a Sorter output (R159) (DEDUCED, log entry 33). -/
def sorterWriter (h : HartId) : Writer := ⟨3, h.die, h.quad, 0, 0, 0, false⟩

/-- The first records' translations: output and auxiliary run for writing, inputs for reading (order 6). -/
def State.passChecks (s : State) (x : Xl) : List (RunD × Acc) → Except XErr (List (Option Tr))
  | [] => .ok []
  | (r, acc) :: rest =>
    match s.checkStream x r acc 0 with
    | .error e => .error e
    | .ok t =>
      match s.passChecks x rest with
      | .error e => .error e
      | .ok ts => .ok (t :: ts)

/-- Start a queued pass: the checks of orders 2 to 6, then the binds (R215). Where the first records of several runs fail, the output
decides, then the auxiliary run, then the inputs as the list has them (DEDUCED, log entry 112). -/
def State.passStart (s : State) (p : Pass) : State :=
  match s.run p.out, p.ins.mapM s.run, (if p.aux = 0 then some none else (s.run p.aux).map some) with
  | some out, some ins, some aux =>
    if p.needsAux && decide (p.aux = 0) then s.passFault p .runfault 0
    else
      let outs := out :: (match aux with
        | some a => [a]
        | none => [])
      let hs := p.out :: (if p.aux = 0 then p.ins else p.aux :: p.ins)
      if outs.any isClosed then s.passFault p .runend 0
      else if !decide hs.Nodup || (decide (p.aux ≠ 0) && !p.mayAux) ||
          outs.any (fun r => decide (r.state = .alloc ∧ r.mark ≠ 0)) || !p.widthsOk out aux ins then s.passEnd p 2
      else if outs.any (fun r => decide (r.state = .opened)) || ins.any (fun r => decide (r.rdrs = 511)) then s.passEnd p 1
      else
        match s.passChecks p.xl ((outs.map fun r => (r, Acc.write)) ++ ins.map fun r => (r, Acc.read)) with
        | .error e => s.passFault p e.cause 0
        | .ok ts =>
          let ts := if p.aux = 0 then ts.headD none :: none :: ts.drop 1 else ts
          let bind (r : RunD) : RunD := r.bindWrite (sorterWriter s.cur)
          let s := s.mapPkg fun g =>
            let g := g.modRun p.out bind
            let g := if p.aux = 0 then g else g.modRun p.aux bind
            p.ins.foldl (fun g h => g.modRun h RunD.addReader) g
          let p := { p with running := true, trs := ts }
          (s.mapQuad fun q =>
            { q with passTab := q.passTab.filter fun e => decide (e.handle ≠ p.out ∨ e.seq = p.owner.seq) }).putPass p
            |>.mapQuad fun q => q.showPass p (passStatus 0x81 0 0) false
  | _, _, _ => s.passFault p .runfault 0

/-! ### Moving records -/

/-- What one move of a pass leads to. -/
inductive Move where
  | wait
  | over (s : State) (p : Pass) (code : Nat)
  | fault (s : State) (p : Pass) (c : Cause) (aux : Nat)
  | moved (s : State) (p : Pass)

/-- Record n of an input: its bytes with the translation kept, or why there is none. -/
inductive RecRead where
  | wait | ended | broken
  | fault (e : XErr)
  | got (t : Option Tr) (bs : List Byte)

def State.readRec (s : State) (p : Pass) (h : Word) (k n : Nat) : RecRead :=
  match s.run h with
  | none => .fault .fault
  | some r =>
    match r.avail (n * r.w) r.w with
    | .wait => .wait
    | .ended => .ended
    | .broken => .broken
    | .ready =>
      match s.readStream p.xl r ((p.trs[k]?).join) (n * r.w) r.w with
      | .error e => .fault e
      | .ok (t, bs) => .got t bs

/-- Write record n of an output, k = 0, or of the auxiliary run, k = 1, and publish it. -/
def State.writeRec (s : State) (p : Pass) (h : Word) (k n : Nat) (bs : List Byte) : Except Cause (State × Pass) :=
  match s.run h with
  | none => .error .runfault
  | some r =>
    if r.cap.toNat ≤ n then .error .runfault
    else
      match s.writeStream p.xl r ((p.trs[k]?).join) (n * r.w) (bs ++ List.replicate (r.w - bs.length) 0) with
      | .error e => .error e.cause
      | .ok (t, s) => .ok (s.mapPkg fun g => g.publish h (n + 1), { p with trs := p.trs.set k t })

/-- Records that are to be written, under USER each with its boundary byte (R218). -/
def formRecords (user : Bool) : Bool → List (List Byte) → List (Bool × List Byte)
  | _, [] => []
  | first, bs :: rest =>
    (false, bs) :: (if user then [(true, [if first then 1 else 0])] else []) ++ formRecords user false rest

/-- Close the open group: combine it; what it gives is to be written. Its flags are raised only now, so that a group dropped before
counts none (DEDUCED, log entry 113). -/
def Pass.closeGroup (p : Pass) : Pass :=
  let g := combGroup p.ctl p.group
  { p with group := [], flags := p.flags ||| g.2, formed := formRecords (decide (ctlComb p.ctl = 8)) true g.1 }

/-- Write the record formed first: one record moves (R210). -/
def passWrite (s : State) (p : Pass) (aux : Bool) (bs : List Byte) (rest : List (Bool × List Byte)) : Move :=
  match (if aux then s.writeRec p p.aux 1 p.nAux bs else s.writeRec p p.out 0 p.nOut bs) with
  | .error c => .fault s p c (if aux then p.nAux else p.nOut)
  | .ok (s, p) =>
    .moved s (if aux then { p with formed := rest, nAux := p.nAux + 1 } else { p with formed := rest, nOut := p.nOut + 1 })

/-- Place the next record in the order of R216: without a combine it is to be written, with one it joins the open group or
closes it first (DEDUCED, log entry 113). -/
def Pass.place (p : Pass) (bs : List Byte) : Pass :=
  if ctlComb p.ctl = 0 then { p with formed := [(false, bs)] }
  else
    match p.group with
    | [] => { p with group := [bs] }
    | g0 :: _ =>
      if recKey p.ctl g0 = recKey p.ctl bs then { p with group := p.group ++ [bs] }
      else { p.closeGroup with group := [bs] }

/-- The end of the records: the last group is closed, and with nothing left to write the pass is OK. -/
def passFinish (s : State) (p : Pass) : Move := if p.group = [] then .over s p 0 else .moved s p.closeGroup

/-! #### `ssort` (R221) -/

/-- The working records of a large sort hold free values afterwards (R221, DESIGN CHOICE, log entry 1). -/
def State.sortScratch (s : State) (p : Pass) (n : Nat) : Except Cause State :=
  match s.run p.out with
  | none => .ok s
  | some r =>
    match s.writeStream p.xl r none 0 (freeRecord s.fresh (2 * n * r.w)) with
    | .error e => .error e.cause
    | .ok (_, s) => .ok (s.bump (2 * n * r.w))

/-- The input has ended with n records: sort them, or refuse them for want of room, CAP < 2n being found only now
(DEDUCED, log entry 106). -/
def State.sortReady (s : State) (p : Pass) : Move :=
  let n := p.recs.length
  let cap := ((s.run p.out).map fun r => r.cap.toNat).getD 0
  let p := { p with reading := false, recs := sortBy (recKey p.ctl) p.recs.reverse }
  if 65536 < n then
    (if cap < 2 * n then .over s p 2
     else match s.sortScratch p n with
       | .error c => .fault s p c 0
       | .ok s => .moved s p)
  else .moved s p

def State.sortMove (s : State) (p : Pass) : Move :=
  if p.reading then
    let n := p.recs.length
    let cap := ((s.run p.out).map fun r => r.cap.toNat).getD 0
    match s.readRec p (p.ins.headD 0) 2 n with
    | .wait => .wait
    | .ended => s.sortReady p
    | .broken => .over s p 5
    | .fault e => .fault (s.noteErr e) p e.cause n
    | .got t bs =>
      if n + 1 = 2 ^ 32 then .over s p 4
      else if cap < n + 1 then .over s p 2
      else .moved s { p with recs := bs :: p.recs, nRead := p.nRead + 1, trs := p.trs.set 2 t }
  else
    match p.recs with
    | [] => passFinish s p
    | bs :: rest => .moved s ({ p with recs := rest }.place bs)

/-! #### `smerge` (R216) -/

/-- The heads of the inputs from operand j on: (operand, record) of those that have one; or the wait, break, fault, or
descent in order that stops the merge, of several that of the lowest operand (DEDUCED, log entry 112). -/
inductive Heads where
  | wait | broken | order
  | fault (e : XErr) (aux : Nat)
  | heads (l : List (Nat × List Byte)) (trs : List (Option Tr))

/-- DEDUCED, log entry 112. -/
def State.mergeHeads (s : State) (p : Pass) : Nat → List (Word × Nat) → Heads
  | _, [] => .heads [] []
  | j, (h, pos) :: rest =>
    match s.readRec p h (j + 2) pos with
    | .wait => .wait
    | .broken => .broken
    | .fault c => .fault c pos
    | .ended =>
      match s.mergeHeads p (j + 1) rest with
      | .heads l ts => .heads l ((p.trs[j + 2]?).join :: ts)
      | o => o
    | .got t bs =>
      let below := if pos = 0 then false else
        match s.readRec p h (j + 2) (pos - 1) with
        | .got _ prev => decide (recKey p.ctl bs < recKey p.ctl prev)
        | _ => false
      if below then .order
      else
        match s.mergeHeads p (j + 1) rest with
        | .heads l ts => .heads ((j, bs) :: l) (t :: ts)
        | o => o

/-- The head with the least key, of the lowest operand among equals. -/
def leastHead (c : Word) : List (Nat × List Byte) → Option (Nat × List Byte)
  | [] => none
  | x :: xs =>
    match leastHead c xs with
    | none => some x
    | some y => if recKey c x.2 ≤ recKey c y.2 then some x else some y

def State.mergeMove (s : State) (p : Pass) : Move :=
  match s.mergeHeads p 0 (p.ins.zip p.pos) with
  | .wait => .wait
  | .broken => .over s p 5
  | .order => .over s p 3
  | .fault e a => .fault (s.noteErr e) p e.cause a
  | .heads l ts =>
    match leastHead p.ctl l with
    | none => passFinish s p
    | some (j, bs) =>
      .moved s ({ p with pos := p.pos.set j ((p.pos[j]?).getD 0 + 1), nRead := p.nRead + 1, trs := p.trs.take 2 ++ ts }.place bs)

/-! #### `stag` (R220) -/

def State.tagMove (s : State) (p : Pass) : Move :=
  match s.readRec p (p.ins.headD 0) 2 p.nRead with
  | .wait => .wait
  | .ended => .over s p 0
  | .broken => .over s p 5
  | .fault e => .fault (s.noteErr e) p e.cause p.nRead
  | .got t bs =>
    .moved s { p with nRead := p.nRead + 1, trs := p.trs.set 2 t
                      formed := [(false, recPut bs (ctlKoff p.ctl) (leBytes p.nRead 4))] }

/-! #### `sjoin` (R219) -/

def Pass.at (p : Pass) (k : Nat) : Nat := (p.pos[k]?).getD 0

/-- A probe with no match goes to the miss run, if there is one. -/
def Pass.miss (p : Pass) (bs : List Byte) : Pass := if p.aux = 0 then p else { p with formed := [(true, bs)] }

/-- A match: the probe and the table record, one after the other. -/
def Pass.matched (p : Pass) (bs ts : List Byte) : Pass := { p with formed := [(false, bs ++ ts)] }

/-- The next probe; equal keys scan the same table records again (DEDUCED, log entry 107). -/
def Pass.nextProbe (p : Pass) : Pass := { p with pos := [p.at 0 + 1, p.at 1, p.at 1, p.at 3, p.at 4] }

/-- The probe has been read. -/
def Pass.sawProbe (p : Pass) : Pass := { p with pos := [p.at 0, p.at 1, p.at 2, p.at 3, p.at 0 + 1], nRead := p.nRead + 1 }

/-- A table record has been read for the first time; read again for an equal probe it does not count
(DEDUCED, log entry 107). -/
def Pass.sawTable (p : Pass) : Pass := { p with pos := [p.at 0, p.at 1, p.at 2, p.at 2 + 1, p.at 4], nRead := p.nRead + 1 }

def joinKeyed (s : State) (p : Pass) (bs : List Byte) : Move :=
  let last : Move := .moved s (if p.at 2 = p.at 1 then p.nextProbe.miss bs else p.nextProbe)
  let h := (p.ins[1]?).getD 0
  match s.readRec p h 3 (p.at 2) with
  | .wait => .wait
  | .ended => last
  | .broken => .over s p 5
  | .fault e => .fault (s.noteErr e) p e.cause (p.at 2)
  | .got t ts =>
    let p := { p with trs := p.trs.set 3 t }
    let below := if p.at 2 = 0 then false else
      match s.readRec p h 3 (p.at 2 - 1) with
      | .got _ prev => decide (recKey p.ctl ts < recKey p.ctl prev)
      | _ => false
    if below then .over s p 3
    else if p.at 3 ≤ p.at 2 then .moved s p.sawTable
    else
      let kp := recKey p.ctl bs
      let kt := recKey p.ctl ts
      .moved s
        (if kt < kp then { p with pos := [p.at 0, p.at 2 + 1, p.at 2 + 1, p.at 3, p.at 4] }
         else if kt = kp then { p with pos := [p.at 0, p.at 1, p.at 2 + 1, p.at 3, p.at 4] }.matched bs ts
         else if p.at 2 = p.at 1 then p.nextProbe.miss bs
         else p.nextProbe)

def joinIndexed (s : State) (p : Pass) (bs : List Byte) : Move :=
  let k := leNat ((bs.drop (ctlKoff p.ctl)).take (ctlKsz p.ctl))
  match s.readRec p ((p.ins[1]?).getD 0) 3 k with
  | .wait => .wait
  | .ended => .moved s (p.nextProbe.miss bs)
  | .broken => .over s p 5
  | .fault e => .fault (s.noteErr e) p e.cause k
  | .got t ts => .moved s ({ p.nextProbe with nRead := p.nRead + 1, trs := p.trs.set 3 t }.matched bs ts)

def State.joinMove (s : State) (p : Pass) : Move :=
  let h := p.ins.headD 0
  match s.readRec p h 2 (p.at 0) with
  | .wait => .wait
  | .ended => .over s p 0
  | .broken => .over s p 5
  | .fault e => .fault (s.noteErr e) p e.cause (p.at 0)
  | .got t bs =>
    let p := { p with trs := p.trs.set 2 t }
    let below := if p.at 0 = 0 then false else
      match s.readRec p h 2 (p.at 0 - 1) with
      | .got _ prev => decide (recKey p.ctl bs < recKey p.ctl prev)
      | _ => false
    if below then .over s p 3
    else if p.at 4 ≤ p.at 0 then .moved s p.sawProbe
    else if ctlIndexed p.ctl then joinIndexed s p bs
    else joinKeyed s p bs

/-- One move of a pass: at most one record is read or written, one that is formed first (R210). -/
def State.passMove (s : State) (p : Pass) : Move :=
  match p.formed with
  | (aux, bs) :: rest => passWrite s p aux bs rest
  | [] =>
    match p.f with
    | .sort => s.sortMove p
    | .merge => s.mergeMove p
    | .tag => s.tagMove p
    | .join => s.joinMove p

/-! #### Chunks (R210) -/

/-- Records a pass has moved, reads and writes together. -/
def Pass.moves (p : Pass) : Nat := p.nRead + p.nOut + p.nAux

/-- A pass at a chunk boundary: its counters are shown (R224). -/
def State.passPause (s : State) (p : Pass) : State :=
  (s.putPass p).mapQuad fun q => q.showPass p (passStatus 0x81 p.flags p.nOut) false

/-- Move records until 4,096 of them have moved or a phase ends, the pass waits, or it ends (R210). `none` when it could move
nothing. -/
def passChunk : Nat → Bool → State → Pass → Option State
  | 0, _, s, p => some (s.passPause p)
  | fuel + 1, any, s, p =>
    match s.passMove p with
    | .moved s p' =>
      if p.moves / 4096 ≠ p'.moves / 4096 ∨ p.reading ≠ p'.reading then some (s.passPause p')
      else passChunk fuel true s p'
    | .over s p code => some (s.passEnd p code)
    | .fault s p c a => some (s.passFault p c a)
    | .wait =>
      if any then some (s.putPass p |>.mapQuad fun q => q.showPass p (passStatus 0x82 p.flags p.nOut) false) else none

/-- Moves that suffice for a chunk: between two records that count a pass looks at no more than its inputs hold. -/
def State.chunkFuel (s : State) (p : Pass) : Nat :=
  4097 * (2 + (p.ins.map fun h => ((s.run h).map fun r => r.mark.toNat).getD 0).sum)

/-- A pass can move no record now: it waits at a MARK (R163). -/
def State.passWaits (s : State) (p : Pass) : Bool := s.passMove p matches .wait

/-- The earliest pass of a list that can move a record is served (R210). -/
def servePass (s : State) : List Pass → State
  | [] => s
  | p :: ps =>
    if !p.running then servePass s ps
    else
      match passChunk (s.chunkFuel p) false s p with
      | some s => s
      | none => servePass (s.mapQuad fun q => q.showPass p (passStatus 0x82 p.flags p.nOut) false) ps

/-- The passes that an `sabort` has reached are queued, at a chunk boundary, or wait at a MARK, and end ABORTED (R225). -/
def State.sorterSettle (s : State) : State :=
  (s.quad.passes.filter fun p => !p.aborts.isEmpty).foldl (fun s p => s.passEnd p 6) s

/-- The engine's next chunk, at whose boundary the `sabort`s come first (R210, R225) (DEDUCED, log entry 5). -/
def State.sorterChunk (s : State) : State :=
  if s.quad.passes.any fun p => !p.aborts.isEmpty then s.sorterSettle else servePass s s.quad.passes

/-- The first pass that has not started starts, once every earlier pass waits at a MARK. -/
def State.sorterStart (s : State) : State :=
  match s.quad.passes.find? fun p => !p.running && p.aborts.isEmpty with
  | none => s
  | some p =>
    if (s.quad.passes.takeWhile fun x => x.running).all s.passWaits then s.passStart p else s

/-! ### Progress and aborts (R224, R225) -/

/-- Counter k of the pass table under a handle (DEDUCED, log entry 36). -/
def State.sorterCounter (s : State) (h k : Word) : Word :=
  match (if (s.run h).isSome then s.quad.passTab.find? fun e => decide (e.handle = h) else none) with
  | none => if k = 0 then passStatus 0xFF 0 0 else 0
  | some e =>
    if k = 0 then e.status else if k = 1 then wordOf e.nRead else if k = 2 then wordOf e.nOut
    else if k = 3 then wordOf e.nAux else 0

/-- The pass of a context, or of a hart without one, on an output handle: it follows the context where that is restored, and of
two passes that name one output it is the one accepted first (DEDUCED, log entry 114). -/
def State.ownPass (s : State) (o : Owner) (h : Word) : Option Pass :=
  s.quad.passes.find? fun p => decide (p.out = h ∧ p.owner.ctx = o.ctx ∧ (o.ctx ≠ 0 ∨ p.owner.hart = o.hart))

/-- `sabort`: the pass ends ABORTED, a queued one removed and a running one at its chunk boundary, and then come the result and the
increment, unless a cancel takes the pass first or comes to the same boundary (R225, R228)
(DEDUCED, log entry 114). -/
def State.sorterAbort (s : State) (o : Owner) (h : Word) : State :=
  match s.ownPass o h with
  | some p => s.putPass { p with aborts := p.aborts ++ [o] }
  | none => s.postLate o (some 2)

end Sys2Proof.Machine
end

