-- ==== Sys2Proof/Machine/Matrix.lean ====
section
/-! DEFINITION. The matrix array (14_matrix_unit.md): formats and their pairs (R247), descriptors and layouts (R249 to
R251), the group sums (R67, R68, R252), and the course of an operation (R253). -/
namespace Sys2Proof.Machine

/-! ### Formats (R56, R40, R247) -/

/-- A code that R56 reserves. -/
def fmtReserved (n : Nat) : Bool := decide ((0x0B ≤ n ∧ n ≤ 0x11) ∨ 0x19 ≤ n)

/-- The code width of a BFP format; 0 for any other. -/
def fmtBfp (n : Nat) : Nat := if 0x12 ≤ n ∧ n ≤ 0x18 then n - 0x10 else 0

/-- The pairs the array implements. -/
def fmtPair (a b : Nat) : Bool :=
  if a = 8 then decide (b = 8)
  else if fmtBfp a ≠ 0 then decide (b = 0x14 ∨ b = 0x18)
  else false

/-- The capability bit of a format, as a mask; none for a code outside R40's table. -/
def fmtCap (n : Nat) : Nat :=
  if n = 8 then 2 ^ 14 else if fmtBfp n = 0 then 0 else if fmtBfp n ≤ 4 then 2 ^ 15 else 2 ^ 16

/-! ### Descriptors (R250, R251) -/

def descBase (d : Word) : Nat := bitsOf d 20 0
def descPitch (d : Word) : Nat := bitsOf d 41 21

/-- K groups of an operation. -/
def kGroups (k : Nat) : Nat := (k + 15) / 16

/-- Bytes of a group of a format. -/
def fmtGroup (f : Nat) : Nat := if f = 8 then 40 else 2 * fmtBfp f

/-- A descriptor is in order and its bytes stay within the stage of BASE (R251 order 4). -/
def descOk (d : Word) (count length : Nat) : Bool :=
  decide (bitsOf d 63 42 = 0 ∧ descBase d % 64 = 0 ∧ descPitch d % 64 = 0 ∧
    descBase d % Config.stageBytes + (count - 1) * descPitch d + length ≤ Config.stageBytes)

/-- Bytes of the scales of a row: the BFP8 layout of one byte per group. -/
def scaleLen (k : Nat) : Nat := 16 * ((kGroups k + 15) / 16)

/-- Check 4 of R251 for the operands of an `mma`. -/
def mmaDescsOk (af bf mg ng kg : Nat) (descA scaleA descB scaleB : Word) : Bool :=
  decide (mg = 0 ∨ ng = 0 ∨ kg = 0) ||
    (descOk descA mg (kGroups kg * fmtGroup af) && descOk descB ng (kGroups kg * fmtGroup bf) &&
      (decide (af = 8) || descOk scaleA mg (scaleLen kg)) && (decide (bf = 8) || descOk scaleB ng (scaleLen kg)))

/-! ### Operands in the plane store (R249) -/

/-- Bit t of plane p of the group at a byte address. -/
def planeBit (m : Mem) (a p t : Nat) : Nat := (m.read (a + 2 * p + t / 8)).toNat / 2 ^ (t % 8) % 2

/-- The b-bit code of element t of a group. -/
def planeCode (m : Mem) (a b t : Nat) : Nat :=
  (List.range b).foldl (fun n p => n + planeBit m a p t * 2 ^ p) 0

/-- The scale byte of group g in a row's scale stream. -/
def scaleByte (m : Mem) (row g : Nat) : Nat := planeCode m (row + g / 16 * 16) 8 (g % 16)

/-- A BF16 operand as the array recovers it (R249, R68). -/
inductive BfOp where
  | zero
  | num (neg : Bool) (m : Nat) (e : Int)
  | inf (neg : Bool)
  | nan (signalling : Bool)
deriving DecidableEq, Repr

def bfOperand (m : Mem) (a t : Nat) : BfOp :=
  let s := asInt 9 (planeCode m a 9 t)
  let e := (m.read (a + 24 + t)).toNat
  if e = 0 then .zero
  else if e = 255 then
    (if s.natAbs = 128 then .inf (decide (s < 0)) else .nan (decide ((s.natAbs - 128) / 64 % 2 = 0)))
  else .num (decide (s < 0)) s.natAbs ((e : Int) - 127)

/-! ### The BF16 group sum (R67, R68) -/

/-- A product of two operands. -/
inductive BfProd where
  | zero
  | num (neg : Bool) (m : Nat) (e : Int)
  | inf (neg : Bool)
  | invalid
  | nan
deriving DecidableEq, Repr

def bfProd (a b : BfOp) : BfProd :=
  match a, b with
  | .nan _, _ => .nan
  | _, .nan _ => .nan
  | .zero, .inf _ => .invalid
  | .inf _, .zero => .invalid
  | .zero, _ => .zero
  | _, .zero => .zero
  | .inf n, .inf n' => .inf (n != n')
  | .inf n, .num n' _ _ => .inf (n != n')
  | .num n _ _, .inf n' => .inf (n != n')
  | .num n m e, .num n' m' e' => .num (n != n') (m * m') (e + e')

/-- One aligned product: its signed magnitude in the window and whether bits were lost (R67 step 5). -/
def bfAlign (emax : Int) : BfProd → Int × Bool
  | .num n m e =>
    let s := e - emax + 26
    let mag : Nat := if 0 ≤ s then m * 2 ^ s.toNat else m / 2 ^ (-s).toNat
    let lost := decide (s < 0) && decide (m % 2 ^ (-s).toNat ≠ 0)
    (if n then -(mag : Int) else mag, lost)
  | _ => (0, false)

/-- One rounding of c + W × 2^(emax − 40) to FP32, to nearest even, a tie broken to the larger magnitude when bits were
lost (R67 step 6). -/
def bfRound (c : Nat) (w emax : Int) (sticky : Bool) : Nat × FFlags :=
  match fVal .f32 c with
  | .fin n m e =>
    let (x, e0) := exactSum n m e (decide (w < 0)) w.natAbs (emax - 40)
    if x = 0 then (0, if sticky then fNX else 0)
    else
      let lead : Int := (Nat.log2 x.natAbs : Int) + e0
      let q : Int := max lead (-126) - 23
      let tie := decide (e0 < q) && decide (2 * (x.natAbs % 2 ^ (q - e0).toNat) = 2 ^ (q - e0).toNat)
      let (y, ey) := if sticky && tie then (if x < 0 then 4 * x - 1 else 4 * x + 1, e0 - 2) else (x, e0)
      let r := roundDyadic .f32 .rne y ey false
      (r.1, if sticky then r.2 ||| fNX else r.2)
  | _ => (c, 0)

/-- The group sum over the sixteen operand pairs (R67, R68) (DEDUCED, log entry 16). -/
def bfGroup (c : Nat) (ab : List (BfOp × BfOp)) : Nat × FFlags :=
  let ps := ab.map fun p => bfProd p.1 p.2
  let isN : BfOp → Bool := fun x => match x with
    | .nan _ => true | _ => false
  let isS : BfOp → Bool := fun x => match x with
    | .nan true => true | _ => false
  let anyNan := ab.any (fun p => isN p.1 || isN p.2) || isNaN .f32 c
  let anyS := ab.any (fun p => isS p.1 || isS p.2) || isSNaN .f32 c
  let pos := ps.contains (.inf false) || decide (c = infBits .f32 false)
  let neg := ps.contains (.inf true) || decide (c = infBits .f32 true)
  let bad := ps.contains .invalid || (pos && neg)
  if anyNan then (defNaN .f32, if anyS || bad then fNV else 0)
  else if bad then (defNaN .f32, fNV)
  else if pos then (infBits .f32 false, 0)
  else if neg then (infBits .f32 true, 0)
  else
    let es := ps.filterMap fun p => match p with
      | .num _ _ e => some e
      | _ => none
    match es with
    | [] => (c, 0)
    | e0 :: _ =>
      let emax := es.foldl max e0
      let al := ps.map (bfAlign emax)
      bfRound c ((al.map (·.1)).foldl (· + ·) 0) emax (al.any (·.2))

/-! ### The BFP group (R252) -/

def bfpGroupSum (c Ea Eb ba bb : Nat) (ab : List (Int × Int)) : Nat × FFlags :=
  if isNaN .f32 c || decide (Ea = 255) || decide (Eb = 255) then
    (defNaN .f32, if isSNaN .f32 c then fNV else 0)
  else
    let s := (ab.map fun p => p.1 * p.2).foldl (· + ·) 0
    if s = 0 then (c, 0)
    else
      match fVal .f32 c with
      | .fin n m e =>
        let es : Int := ((Ea : Int) - 127) + ((Eb : Int) - 127) - ((ba : Int) - 1) - ((bb : Int) - 1)
        let (x, e0) := exactSum n m e (decide (s < 0)) s.natAbs es
        roundDyadic .f32 .rne x e0 false
      | _ => (c, 0)

/-! ### An operation -/

/-- The elements of group g of a row or column that lie below Kg. -/
def mopTs (kg g : Nat) : List (Nat × Bool) := (List.range 16).map fun t => (t, decide (16 * g + t < kg))

/-- One group of one cell. -/
def mopGroup (m : Mem) (o : Mop) (c i j g : Nat) : Nat × FFlags :=
  let ra := descBase o.descA + i * descPitch o.descA + g * fmtGroup o.afmt
  let rb := descBase o.descB + j * descPitch o.descB + g * fmtGroup o.bfmt
  if o.afmt = 8 then
    bfGroup c ((mopTs o.kg g).map fun t =>
      if t.2 then (bfOperand m ra t.1, bfOperand m rb t.1) else (.zero, .zero))
  else
    let ba := fmtBfp o.afmt
    let bb := fmtBfp o.bfmt
    bfpGroupSum c (scaleByte m (descBase o.scaleA + i * descPitch o.scaleA) g)
      (scaleByte m (descBase o.scaleB + j * descPitch o.scaleB) g) ba bb
      ((mopTs o.kg g).map fun t =>
        if t.2 then (asInt ba (planeCode m ra ba t.1), asInt bb (planeCode m rb bb t.1)) else (0, 0))

/-- Whether the row or column of an operand reads a word marked poisoned (R310). -/
def rowPoisoned (marks : List Nat) (o : Mop) (isA : Bool) (k : Nat) : Bool :=
  let d := if isA then o.descA else o.descB
  let sc := if isA then o.scaleA else o.scaleB
  let f := if isA then o.afmt else o.bfmt
  anyPoison marks (descBase d + k * descPitch d) (kGroups o.kg * fmtGroup f) ||
    (decide (f ≠ 8) && anyPoison marks (descBase sc + k * descPitch sc) (scaleLen o.kg))

/-- One cell: its new value, its flags, and whether a poisoned word or cell made it the default NaN (R252, R310). -/
def mopCell (q : Quad) (o : Mop) (i j : Nat) : Nat × FFlags × Bool :=
  match o.f with
  | .mzero => (0, 0, false)
  | f =>
    let bad := (decide (f = .mma) && q.cellPoisoned o.tile.val i j) ||
      rowPoisoned q.planePoison o true i || rowPoisoned q.planePoison o false j
    if bad && decide (o.kg ≠ 0) then (defNaN .f32, 0, true)
    else
      let c := if f = .mmaz then 0 else q.cell o.tile.val i j
      let r := (List.range (kGroups o.kg)).foldl (fun (acc : Nat × FFlags) g =>
        let x := mopGroup q.plane o acc.1 i j g
        (x.1, acc.2 ||| x.2)) (c, 0)
      (r.1, r.2, false)

/-- An operation as a whole: the quad with its cells written, the flags raised, whether poison was met (R252, R253). -/
def mopRun (q : Quad) (o : Mop) : Quad × FFlags × Bool :=
  let wr := !(decide (o.f = .mma) && decide (o.kg = 0))
  let r := (List.range (o.mg * o.ng)).foldl (fun (acc : Quad × FFlags × Bool) k =>
    let i := k / o.ng
    let j := k % o.ng
    let r := mopCell q o i j
    ((if wr then acc.1.setCell o.tile.val i j r.1 else acc.1), acc.2.1 ||| r.2.1, acc.2.2 || r.2.2)) (q, 0, false)
  (r.1.clearWords o.tile.val fun i j => wr && decide (i < o.mg ∧ j < o.ng), r.2)

/-! ### The course of an operation (R253) -/

/-- The first operation becomes head and holds its stages. -/
def State.mopHead (s : State) : State :=
  match s.quad.mops with
  | o :: rest =>
    if o.state = .queued then s.mapQuad fun q => { q with mops := { o with state := .head } :: rest } else s
  | [] => s

/-- Stages into which a plane store that passed its start check, or a copy inside a chunk, is still writing. -/
def coreStageBusy (c : Core) (stage : Nat) : Bool :=
  (c.pipe.any fun u => u.passed && decide (u.ent.vl ≠ 0) &&
    match u.ent.op with
    | .vstp _ _ _ => decide (stageOf ((u.ent.sv[0]?).getD 0).toNat = stage)
    | _ => false) ||
  c.chans.toList.any fun k =>
    match k.q with
    | x :: _ => decide (x.state = .running ∧ x.f = .rp) &&
        decide (x.count % (if planeNb x.dst = 0 then 2048 else 4096) ≠ 0) &&
        decide (stageOf (bitsOf x.dst 20 0) = stage)
    | [] => false

/-- The head operation reads its operands once those writes are over. -/
def State.mopRead (s : State) : State :=
  match s.quad.mops with
  | o :: rest =>
    let busy := o.stages.any fun st =>
      (List.range 4).any fun c => coreStageBusy (s.getCore { s.cur with core := c, hid := 0 }) st
    if o.state = .head && !busy then s.mapQuad fun q => { q with mops := { o with state := .read } :: rest } else s
  | [] => s

/-- The head operation completes: cells, flags, release of its holds, increment. -/
def State.mopComplete (s : State) : State :=
  match s.quad.mops with
  | o :: rest =>
    if o.state = .read then
      let r := mopRun s.quad o
      let s := { s with quad := { r.1 with mops := rest } }
      let s := if r.2.2 then s.countPsn { s.cur with core := 4, hid := 0 } else s
      (s.ownerFlags o.owner r.2.1).ownerPost o.owner none
    else s
  | [] => s

/-- A cancel removes the operations queued behind the head, their increments cancelled (R255). -/
def State.mopKill (s : State) (who : Owner → Bool) : State :=
  match s.quad.mops with
  | o :: rest =>
    let gone := (if o.state = .queued then o :: rest else rest).filter fun x => who x.owner
    let kept := (if o.state = .queued then [] else [o]) ++
      (if o.state = .queued then o :: rest else rest).filter fun x => !who x.owner
    gone.foldl (fun s x => s.ownerPost x.owner none) (s.mapQuad fun q => { q with mops := kept })
  | [] => s

/-- An operation in flight names a tile that a mask disables (R248 `mdis`). -/
def Quad.mopUses (q : Quad) (mask : BitVec 8) : Bool := q.mops.any fun o => mask.getLsbD o.tile.val

end Sys2Proof.Machine
end

