-- ==== Sys2Proof/Machine/Queue.lean ====
section
/-! DEFINITION. The vector back end: the start of queue entries (R107 to R115, R291), the shared units (R116, R136), port
transfers (R181 to R187) and `vwait` (R195) to their completion, deferred traps and the stop of the queue at a trap (R288,
R289, R292). -/
namespace Sys2Proof.Machine

/-! ### Kinds of entries -/

/-- The shared unit an entry posts through (R116); `vwait` runs in the memory pipe (R195). -/
def VOp.unit (op : VOp) : Option SharedUnit :=
  match op with
  | .vld _ _ _ => some .pipe
  | .vst _ _ _ => some .pipe
  | .vstp _ _ _ => some .pipe
  | .vpt _ _ _ _ _ => some .pipe
  | .vwait _ _ _ => some .pipe
  | .vgather _ _ _ _ => some .net
  | .vslide _ _ _ _ => some .net
  | .vcompress _ _ _ => some .net
  | .vmvxs _ _ => some .net
  | .vmvsx _ _ => some .net
  | .vrev _ _ _ => some .net
  | .vred _ _ _ _ _ => some .net
  | .vsort _ _ _ => some .net
  | .vsortkv _ _ _ => some .net
  | .vmerge _ _ _ => some .net
  | .vtag _ _ _ => some .net
  | .vsegm _ _ => some .net
  | _ => none

def VOp.isBeacon (op : VOp) : Bool :=
  match op with
  | .vbld _ _ _ _ => true
  | .vbst _ _ _ _ => true
  | .vamaxe _ _ _ _ => true
  | _ => false

def VOp.isVct (op : VOp) : Bool :=
  match op with
  | .vbr _ _ => true
  | .vjoin _ => true
  | .vloop _ _ _ => true
  | _ => false

/-- A fault-only-first read, which holds the front until it completes (R184). -/
def VOp.isFf (op : VOp) : Bool :=
  match op with
  | .vpt f _ _ _ _ => f.isFf
  | _ => false

def VOp.isPortWrite (op : VOp) : Bool :=
  match op with
  | .vpt f _ _ _ _ => f.isWrite
  | _ => false

def VOp.isChartStore (op : VOp) : Bool :=
  match op with
  | .vst _ _ _ => true
  | _ => false

/-- An entry whose increment is made in its own beat. -/
def VOp.postsAtOnce (op : VOp) : Bool :=
  match op with
  | .cpctl _ _ _ => true
  | .sprog _ => true
  | .sabort _ => true
  | _ => false

/-- A Chart or plane-store access, checked at its start in the memory pipe (R145, R147). -/
def VOp.isVcm (op : VOp) : Bool :=
  match op with
  | .vld _ _ _ => true
  | .vst _ _ _ => true
  | .vstp _ _ _ => true
  | _ => false

/-- The instructions a ticketed instruction keeps out of the memory pipe (R191). -/
def VOp.usesPipe (op : VOp) : Bool := op.isBeacon || decide (op.unit = some .pipe)

/-! ### Geometry of an entry -/

structure Geo where
  sew : Nat
  g8 : Nat
  us : List VUse
  w : Nat
  n : Nat

/-- Bits of each lane's slice that a scale or a list operand covers. -/
def readBits (u : VUse) (x : VEntry) (leff : Nat) : Nat :=
  match u.kind with
  | .groups => 256
  | .scale => 8 * (((x.vl + max 1 (bsOf x.vcfg) - 1) / max 1 (bsOf x.vcfg) + leff - 1) / leff)
  | .list => 64 * ((x.vl + leff - 1) / leff)

/-- The operands an entry names (DEDUCED, log entry 48). -/
def VEntry.named (x : VEntry) (leff : Nat) : List VUse :=
  let sew := sewOf x.vcfg
  (x.op.uses sew (groupRegs (g8Of x.vcfg) sew sew)).map fun u => { u with bits := readBits u x leff }

/-- The operands an entry reads and writes: at VL = 0 only element 0 of `vmpopc` and `vmfirst`, and the mask of `vwait` (R105)
(DEDUCED, log entry 48). -/
def VEntry.uses (x : VEntry) (leff : Nat) : List VUse :=
  let sew := sewOf x.vcfg
  if x.vl = 0 then
    match x.op with
    | .vmpopc d _ _ => [wrV d sew]
    | .vmfirst d _ _ => [wrV d sew]
    | .vwait d _ _ => [wrM d]
    | _ => []
  else x.named leff

/-- The beats of R107. -/
def Hart.geo (h : Hart) (x : VEntry) : Geo :=
  let leff := max 1 h.leff
  let us := x.uses leff
  let w := widest us
  { sew := sewOf x.vcfg, g8 := g8Of x.vcfg, us := us, w := w
    n := match x.op with
      | .idle k => k
      | _ => beatsOf x.vl leff w }

/-! ### Traps found after issue -/

/-- A deferred trap (DEF = 1): cause, AUX, the entry it makes the head V, whether its increment is cancelled, DONE. -/
structure DefTrap where
  cause : Cause
  aux : Nat
  ent : VEntry
  can : Bool
  dones : List Nat

/-! ### Order among beacon accesses (R190, R191, R194) -/

/-- A vector entry of the focused hart in the queue or the pipe that is older than a number and of a kind; for what a handler
issues, what it finds frozen in the queue does not count (DEDUCED, log entry 73). -/
def State.olderEntry (s : State) (sup : Bool) (id : Nat) (p : VOp → Bool) : Bool :=
  (!(s.hart.queueFrozen && sup) && s.hart.vq.any fun x => decide (x.id < id) && p x.op) ||
    s.core.pipe.any fun u => decide (u.hid = s.cur.hid ∧ u.ent.id < id) && p u.ent.op

/-- An access of the user that waits in the frozen queue orders nothing that the handler issues (DEDUCED, log entry 73). -/
def State.frozenOut (s : State) (sup : Bool) (a : BOp) : Bool := s.hart.queueFrozen && sup && !a.sup && !a.started

/-- Every element of an access has performed; only its completion is to come (R198). -/
def BOp.performed (b : BOp) : Bool := b.started && b.elems.isEmpty && !(b.kind matches .fence _)

/-- A fence has nothing selected before it left to perform: accesses of its classes, port writes, Chart stores, scalar and
vector (R194) (DEDUCED, log entry 73). -/
def State.fenceOpen (s : State) (sup : Bool) (sel : BitVec 18) (id : Nat) : Bool :=
  !(s.hart.bops.any fun b => decide (b.id < id) && !s.frozenOut sup b && !b.performed &&
      (match b.kind with
       | .fence _ => false
       | _ => sel.getLsbD b.oc.val)) &&
    !(sel.getLsbD 16 && s.olderEntry sup id VOp.isPortWrite) &&
    !(sel.getLsbD 17 && (s.olderEntry sup id VOp.isChartStore || s.hart.stores.any fun x => decide (x.id < id)))

/-- An access may perform: no earlier access of its class is left to perform, no earlier ticketed one to complete (R191), and every
fence before it that selects its class is open; a fence of the user's holds back what a handler issues for what has begun
(DEDUCED, log entry 73). -/
def State.bopReady (s : State) (b : BOp) : Bool :=
  s.hart.bops.all fun a =>
    !decide (a.id < b.id) ||
      (match a.kind with
       | .fence sel => !sel.getLsbD b.oc.val || s.fenceOpen b.sup sel a.id
       | _ => s.frozenOut b.sup a || (!a.ticketed && (a.performed || decide (a.oc ≠ b.oc))))

/-- Drop the fences that hold nothing back any more. -/
def State.pruneFences (s : State) : State :=
  s.mapHart fun h => { h with bops := h.bops.filter fun b =>
    match b.kind with
    | .fence sel => !s.fenceOpen b.sup sel b.id
    | _ => true }

/-- A beacon word marked poisoned (R310) (DESIGN CHOICE, log entry 12). -/
def State.beaconPoisoned (s : State) (pa : Nat) : Bool := s.pkg.beaconPoison.contains (pa / 8)

/-- Flags of something the focused hart queued before a number have still to merge (R111). -/
def State.mergesBefore (s : State) (id : Nat) : Bool := s.mergesAt s.cur id

/-! ### The start of an entry -/

/-- What became of an attempt to start or to complete. -/
inductive Try where
  | blocked
  | moved (s : State)
  | trap (s : State) (d : DefTrap)

/-- Take the head off the queue; the next entry starts n beats after b. -/
def State.popEntry (s : State) (b n : Nat) : State :=
  s.mapHart fun h => { h with vq := h.vq.drop 1, beat := b + n }

/-- The tail of an entry's destinations is written: under TP, but never at VL = 0 (R104, R105)
(DEDUCED, log entry 48). -/
def VEntry.fillsTail (x : VEntry) : Bool := tpOf x.vcfg && decide (x.vl ≠ 0)

/-- Whether an entry writes position i of its vector or mask destination: it computes it, or fills it (R104). -/
def VEnv.writes (e : VEnv) (i : Nat) : Bool :=
  if i < e.vl then e.active i || (e.mp && e.fm.getLsbD i && !e.isDone i) else e.tp

/-- The 64-bit words of lost slices that an entry's destinations cover wholly are written again (R315). -/
def State.rewritten (s : State) (x : VEntry) : State :=
  if s.core.unwritten.isEmpty || decide (x.vl = 0) then s
  else
    let h := s.hart
    let e := h.env x h.v h.m
    let leff := max 1 h.leff
    let g := h.geo x
    let covers (u : VUse) (w : Nat × Nat × Nat) : Bool :=
      let first := (u.span g.g8 g.sew).1 + (if u.mask then 32 else 0)
      u.dst && decide (h.lane0 ≤ w.1 ∧ w.1 < h.lane0 + h.lanes ∧ first ≤ w.2.1 ∧ w.2.1 < first + (u.span g.g8 g.sew).2) &&
        (List.range (64 / max 1 u.w)).all fun j =>
          e.writes (((256 * (w.2.1 - first) + 64 * w.2.2) / max 1 u.w + j) * leff + (w.1 - h.lane0) % leff)
    s.mapCore fun c => { c with unwritten := c.unwritten.filter fun w => !(g.us.any fun u => covers u w) }

/-- The result of a fixed-latency entry lands: registers with their pending ranges (R108), flags at the write of the last
group (R111) (DEDUCED, log entry 90). -/
def State.landFixed (s : State) (x : VEntry) (g : Geo) (b : Nat) (racing : Bool) (r : FixedRes) : State :=
  let h0 := s.hart
  let before := (h0.v, h0.m)
  let tp := x.fillsTail
  let h := { h0 with v := r.v, m := r.m }
  let h := if racing then
      (Hart.mixWrites before h g.us g.w g.n g.g8 g.sew b s.fresh tp).noteRacedHolds before g.us g.w g.n g.g8 g.sew tp x.id
    else h
  let h := Hart.pendWrites before h g.us g.w g.n g.g8 g.sew tp b r.lat
  let h := h.mirrorWrites g.us g.g8 g.sew
  let f := Raised.flags r.raised
  let h := if f = 0 then h else
    { h with merges := h.merges ++
        [⟨x.id, b + g.n - 1 + r.lat, f, (Raised.lows r.raised).map fun o => (o.map (· + 1)).getD 0⟩] }
  (({ s with hart := h }.rewritten x).popEntry b (if h.hst.prot then g.n - 1 + r.lat else g.n)).bump (if racing then raceStride else 0)

/-- A tile-slice move in its first beat (R148): TILEOFF or a poisoned cell found deferred, else the move
(DEDUCED, log entry 13) (DEDUCED, log entry 49). -/
def State.startVts (s : State) (x : VEntry) (g : Geo) (b : Nat) (racing : Bool) (e : VEnv) (f : VtsFn) (d : VReg)
    (t : Tile) : Try :=
  let k := (e.scalar 0).toNat
  let nothing : FixedRes := { v := e.v0, m := e.m0, raised := [], lat := 6 }
  if x.vl = 0 then .moved (s.landFixed x g b false nothing)
  else if !s.quad.ten.getLsbD t.val then
    .trap s { cause := .tileoff, aux := 0, ent := x, can := false, dones := [] }
  else
    match (if f.isWrite then none else e.firstActive fun i =>
        s.quad.cellPoisoned t.val (f.at k i).1 (f.at k i).2) with
    | some i =>
      let r := tileMove f d t { e with vl := i, tp := false } s.quad
      let s := ({ s with quad := r.2 }.mapHart fun h => { h with v := r.1 }.mirrorWrites g.us g.g8 g.sew).countPsn s.cur
      .trap s { cause := .poison, aux := i, ent := x, can := false, dones := doneCounts s.hart.lanes e.leff i }
    | none =>
      let r := tileMove f d t e s.quad
      .moved ({ s with quad := r.2 }.landFixed x g b racing { v := r.1, m := e.m0, raised := [], lat := 6 })

/-- Continue at an address: after a transfer other than to the next word two redirect slots pass (R110). -/
def State.vctTo (s : State) (x : VEntry) (target : Word) : State :=
  let s := s.mapHart fun h => { h with pc := target, lastTransfer := if target = x.addr + 4 then none else some x.addr }
  if target = x.addr + 4 then s else ticks 2 s

/-- Positions below VL of a mask. -/
def belowVl (m : MBits) (vl : Nat) : MBits := m &&& lowMask vl

/-- `vbr` (R113). -/
def State.startVbr (s : State) (x : VEntry) (b : Nat) (mk : MBits) (off : BitVec 13) : Try :=
  let h := s.hart
  let target := x.addr + (off.signExtend 64) * 4
  let t := belowVl (h.fm &&& mk) x.vl
  let n := belowVl (h.fm &&& ~~~mk) x.vl
  if Config.fragEntries ≤ h.frags.length then
    .trap s { cause := .fragovf, aux := 0, ent := x, can := false, dones := [] }
  else
    let push (f : Frag) (fm : MBits) : State := (s.popEntry b 1).mapHart fun h => { h with frags := h.frags ++ [f], fm := fm }
    .moved (if t = 0 then (push ⟨t, target, h.fm, false⟩ h.fm).vctTo x (x.addr + 4)
      else if n = 0 then (push ⟨0, 0, h.fm, true⟩ h.fm).vctTo x target
      else (push ⟨t, target, h.fm, false⟩ n).vctTo x (x.addr + 4))

/-- `vjoin` (R114). -/
def State.startVjoin (s : State) (x : VEntry) (b : Nat) (off : BitVec 13) : Try :=
  let target := x.addr + (off.signExtend 64) * 4
  match s.hart.frags.getLast? with
  | none => .trap s { cause := .fragovf, aux := 0, ent := x, can := false, dones := [] }
  | some f =>
    let below := s.hart.frags.dropLast
    if !f.waiting && decide (f.mask ≠ 0) then
      .moved (((s.popEntry b 1).mapHart fun h =>
        { h with frags := below ++ [{ f with waiting := true }], fm := f.mask }).vctTo x f.resume)
    else .moved (((s.popEntry b 1).mapHart fun h => { h with frags := below, fm := f.restore }).vctTo x target)

/-- `vloop` (R115); what it writes is readable by the next entry (R110). -/
def State.startVloop (s : State) (x : VEntry) (g : Geo) (b : Nat) (racing : Bool) (e : VEnv) (a : VReg) (k : MReg)
    (off : BitVec 13) : Try :=
  let target := x.addr + (off.signExtend 64) * 4
  let on (i : Nat) : Bool := e.fm.getLsbD i && e.m[k].getLsbD i
  let v := (List.range x.vl).foldl (fun v i =>
    if on i then vput v e.leff e.sew a.val i (e.get e.sew a i - 1) else v) e.v0
  let mk := (List.range x.vl).foldl (fun m i => if on i && decide (e.get e.sew a i ≤ 1) then mset m i false else m) e.m0[k]
  let before := (s.hart.v, s.hart.m)
  let h := { s.hart with v := v, m := e.m0.set k mk }
  let h := if racing then
      (Hart.mixWrites before h g.us g.w g.n g.g8 g.sew b s.fresh false).noteRacedHolds before g.us g.w g.n g.g8 g.sew false x.id
    else h
  let again := (List.range x.vl).any fun i => e.fm.getLsbD i && mk.getLsbD i
  .moved (((({ s with hart := h.mirrorWrites g.us g.g8 g.sew }.rewritten x).popEntry b 1).bump (if racing then raceStride else 0)).vctTo x
    (if again then target else x.addr + 4))

/-- The registers a vector access delivers: what each active element received. -/
def State.bopRegs (s : State) (b : BOp) (x : VEntry) : VFile :=
  let e := s.hart.env x s.hart.v s.hart.m
  let fill (d : VReg) : VFile :=
    if x.vl = 0 then s.hart.v
    else e.fillV 64 d (fun i => if e.active i then (b.got.find? fun g => decide (g.1 = i)).map fun g => g.2.toNat else none) s.hart.v
  match b.kind with
  | .vload d => fill d
  | .vatomic d => fill d
  | _ => s.hart.v

/-- The registers with what a posting operation of the focused hart has formed for its destinations (R109): all of it for an
operation of the network, whose sources are there, and the elements that have performed for a beacon access; nothing for a transfer
of the memory pipe, whose values are read as it is served (DEDUCED, log entry 48). -/
def State.formedFiles (s : State) (id : Nat) : Option (VFile × MFile) :=
  match s.core.net.find? fun o => decide (o.hid = s.cur.hid ∧ o.ent.id = id) with
  | some o =>
    let fs := s.hart.postedFiles id s.fresh
    let r := moveRes o.ent.op (s.hart.env o.ent fs.1 fs.2)
    some (r.v, r.m)
  | none =>
    (s.hart.bops.find? fun o => decide (o.id = id)).bind fun o => o.ent.map fun x => (s.bopRegs o x, s.hart.m)

/-- Hold the registers of a posting entry from its start (R109, R136). After an unchecked race its sources are old or new,
element by element, and so is afterwards what stands in the parts of its destinations that race (DEDUCED, log entry 48). -/
def State.holdFor (s : State) (x : VEntry) (g : Geo) (b : Nat) (racing : Bool) : State :=
  let h := s.hart
  let us := x.named (max 1 h.leff)
  if !racing then s.mapHart fun h => h.holdRegs us g.g8 g.sew x.id (fun _ => []) fun _ => []
  else
    let old (u : VUse) : List VBits :=
      if u.src then
        let f := h.mixUse s.formedFiles g.w g.n g.g8 g.sew b x.id s.fresh (h.v, h.m) u
        (List.range (u.span g.g8 g.sew).2).map fun j =>
          if u.mask then f.2[ixM ((u.span g.g8 g.sew).1 + j)] else f.1[ixV ((u.span g.g8 g.sew).1 + j)]
      else []
    let raced (u : VUse) : List RaceSpan :=
      if u.dst then
        h.raceSpans u g.w g.n g.g8 g.sew x.fillsTail b ++
          (h.vholds.filter fun k => k.dest && k.hits u g.g8 g.sew).flatMap fun k => k.spans u g.w g.n g.g8 g.sew x.fillsTail
      else []
    (s.mapHart fun h => h.holdRegs us g.g8 g.sew x.id old raced).bump raceStride

/-- An entry joins its shared unit. -/
def State.toUnit (s : State) (u : SharedUnit) (o : UOp) : State :=
  s.mapCore fun c =>
    match u with
    | .pipe => { c with pipe := c.pipe ++ [o] }
    | .net => { c with net := c.net ++ [o] }

/-- The addresses of a vector beacon access: elements with their physical addresses; or, where an address fails a check
(R188) or a word that is read is poisoned (R310), the lowest active element, since none is done (R286) (DEDUCED, log entry 14)
(DEDUCED, log entry 28) (DEDUCED, log entry 98) (DESIGN CHOICE, log entry 104). -/
def State.beaconElems (s : State) (e : VEnv) (a : VReg) (bytes : Nat) (write read : Bool) : Except (Cause × Nat) (List BElem) :=
  let act := (List.range e.vl).filter fun i => e.active i
  let addr (i : Nat) : Option Nat := s.beaconAddr (wordOf (e.get 64 a i)) bytes write read
  let first := act.headD 0
  if act.any fun i => (addr i).isNone then .error (.beacon, first)
  else
    let es : List BElem := act.filterMap fun i => (addr i).map fun pa => ⟨i, pa, 0, 0⟩
    if read && es.any (fun b => s.beaconPoisoned b.pa) then .error (.poison, first) else .ok es

/-- A vector beacon access starts (R188, R189, R192): every address is checked before any element performs
(DEDUCED, log entry 14). -/
def State.startBeacon (s : State) (x : VEntry) (g : Geo) (b : Nat) (racing : Bool) (e : VEnv) (a : VReg) (bytes : Nat)
    (write read : Bool) : Try :=
  match (if x.vl = 0 then .ok [] else s.beaconElems e a bytes write read) with
  | .error (c, i) => .trap (s.countPoison c) { cause := c, aux := i, ent := x, can := true, dones := [] }
  | .ok es =>
    let s := s.mapHart fun h => { h with bops := h.bops.map fun o =>
      if o.id = x.id then { o with started := true, ent := some x, elems := es } else o }
    .moved ((s.holdFor x g b racing).popEntry b 1)

/-- One round of reads of the unmet words of a `vwait` (R195). -/
def State.vwaitRead (s : State) (o : UOp) : UOp :=
  { o with met := o.addrs.foldl (fun m b =>
      if !m.getLsbD b.idx && decide (0 ≤ (s.pkg.mem.word b.pa - b.val).toInt) then mset m b.idx true else m) o.met }

/-- A `vwait` starts in the memory pipe once its class has performed before it (R190), with its first round of reads
(DEDUCED, log entry 20) (DEDUCED, log entry 35). -/
def State.startVwait (s : State) (x : VEntry) (g : Geo) (b : Nat) (racing : Bool) (e : VEnv) (a : VReg) : Try :=
  let u : UOp := { hid := s.cur.hid, ent := x, left := 0, waited := 0, passed := false, blocked := false, addrs := []
                   met := 0, start := max b s.hart.slot, since := s.hart.clock, stored := 0 }
  let enter (u : UOp) : Try :=
    let s := s.mapHart fun h => { h with bops := h.bops.filter fun o => decide (o.id ≠ x.id) }
    .moved (((s.holdFor x g b racing).toUnit .pipe u).popEntry b 1)
  if x.vl = 0 then enter { u with passed := true }
  else if (s.hart.bops.find? fun o => decide (o.id = x.id)).any (fun o => !s.bopReady o) then .blocked
  else
    match s.beaconElems e a 8 false true with
    | .error (c, i) => .trap (s.countPoison c) { cause := c, aux := i, ent := x, can := true, dones := [] }
    | .ok es =>
      let eg := groupRegs e.g8 e.sew e.sew
      enter (s.vwaitRead { u with addrs := es.map fun k => { k with val := wordOf (e.get 64 (ixV (a.val + eg)) k.idx) } })

/-- An entry that writes vector or mask registers. -/
def VEntry.writesRegs (x : VEntry) : Bool := (x.named 1).any (·.dst)

/-- An entry of this hart that has not passed its last trap point holds the next start back: in protected mode each whose
write-back has still to be compared (R291); and so does a ticketed instruction (R191). -/
def State.heldBack (s : State) (op : VOp) : Bool :=
  (s.core.pipe.any fun u => decide (u.hid = s.cur.hid) && !u.passed) ||
    (s.hart.hst.prot &&
      ((s.core.pipe ++ s.core.net).any (fun u => decide (u.hid = s.cur.hid) && u.ent.writesRegs) ||
        s.hart.bops.any fun b => b.started && b.ent.any VEntry.writesRegs)) ||
    (op.usesPipe && s.hart.bops.any fun b => b.ticketed && b.started)

/-- The head entry may start in the present slot as far as its beat goes; one that posts in its own beat is seen to do so in
the slot after (R26). -/
def Hart.beatDue (h : Hart) (x : VEntry) : Bool :=
  decide (max h.beat x.slot + (if x.op.postsAtOnce then 1 else 0) ≤ h.slot ∧ h.frozen = 0)

/-- At another hart the head entry is of a kind, is due no later than here, and may start: its command reaches the engine
first (R210, R230). -/
def State.earlierAt (s : State) (p : VOp → Bool) (h : HartId) : Bool :=
  let t := s.focus h
  match t.hart.vq with
  | [] => false
  | x :: _ =>
    p x.op && !t.hart.queueFrozen && !t.heldBack x.op && t.hart.beatDue x && decide (t.hart.clock ≤ s.hart.clock)

/-- A hart of the core with a lower HID has a command for the same channel due (R230). -/
def State.copyFirst (s : State) (ch : Chan) : Bool :=
  (List.range s.cur.hid).any fun k =>
    s.earlierAt (fun op => match op with
      | .copy _ c _ => decide (c = ch)
      | _ => false) { s.cur with hid := k }

/-- A hart of a lower core of the quad, or of this core with a lower HID, has a list command due (R210). -/
def State.sorterFirst (s : State) : Bool :=
  (List.range (8 * s.cur.core + s.cur.hid)).any fun k =>
    s.earlierAt (fun op => match op with
      | .srt _ _ _ => true
      | _ => false) { s.cur with core := k / 8, hid := k % 8 }

/-- The effect of an entry that starts in beat b, its races decided, with the registers as it reads them; `vb` as a B operand narrower
than A reads them (R107) (DEDUCED, log entry 86). -/
def State.startWith (s : State) (x : VEntry) (g : Geo) (b : Nat) (racing : Bool) (files : VFile × MFile) (vb : VFile) : Try :=
  let e := { s.hart.env x files.1 files.2 with vb := vb }
  let o := s.ownerFor x
  match x.op with
  | .idle n => .moved (s.popEntry b n)
  | .vts f d t _ => s.startVts x g b racing e f d t
  | .vbr k off => s.startVbr x b files.2[k] off
  | .vjoin off => s.startVjoin x b off
  | .vloop a k off => s.startVloop x g b racing e a k off
  | .vbld _ _ a _ => s.startBeacon x g b racing e a 8 false true
  | .vbst _ _ a _ => s.startBeacon x g b racing e a 8 true false
  | .vamaxe _ a _ _ => s.startBeacon x g b racing e a 1 true true
  | .vwait _ a _ => s.startVwait x g b racing e a
  | .copy f ch a =>
    if s.copyFirst ch then .blocked
    else
      match s.copyCapture x f ch e a with
      | .full => .blocked
      | .illegal => .trap s { cause := .illegal, aux := 0, ent := x, can := true, dones := [] }
      | .accepted s => .moved (s.popEntry b 1)
  | .cpctl f d ch => .moved ((s.copyControl o f d ch (e.scalar 0)).popEntry b 1)
  | .srt f _ a =>
    if s.sorterFirst then .blocked
    else
      match s.sorterAccept x f e a with
      | none => .blocked
      | some s => .moved (s.popEntry b 1)
  | .sprog _ => .moved ((s.postLate o (some (s.sorterCounter (e.scalar 0) (e.scalar 1)))).popEntry b 1)
  | .sabort _ => .moved ((s.sorterAbort o (e.scalar 0)).popEntry b 1)
  | op =>
    match fixedRes op e with
    | some r => .moved (s.landFixed x g b racing r)
    | none =>
      match op.unit with
      | none => .moved (s.popEntry b 1)
      | some u =>
        .moved (((s.holdFor x g b racing).toUnit u
          { hid := s.cur.hid, ent := x, left := g.n, waited := 0, passed := decide (u = .net ∨ x.vl = 0), blocked := false
            addrs := [], met := 0, start := b, since := s.hart.clock, stored := 0 }).popEntry b 1)

/-- The head entry was due and could not start: an idle beat passes (R107, R291). -/
def State.idleBeat (s : State) : State :=
  match s.hart.vq with
  | [] => s
  | x :: _ =>
    if s.hart.queueFrozen || !s.hart.beatDue x then s else s.mapHart fun h => { h with beat := h.slot + 1 }

/-- The back end starts the head entry of the focused hart's queue (R107). In the course of a run it starts no earlier
than its beat; `force` is the stop of the queue, which lets it run on (DEDUCED, log entry 23). -/
def State.startEntry (s : State) (force : Bool) : Try :=
  let h := s.hart
  match h.vq with
  | [] => .blocked
  | x :: _ =>
    let x := { x with fm := h.fm }
    let b := max h.beat x.slot
    if h.queueFrozen || s.heldBack x.op || (!force && !h.beatDue x) then .blocked
    else
      let g := h.geo x
      match h.raceAt g.us g.w g.n g.g8 g.sew x.fillsTail b x.id with
      | none => s.startWith x g b false (h.v, h.m) h.v
      | some r =>
        if h.hst.rchk then
          .trap s { cause := .race, aux := r.1 + 64 * r.2, ent := x, can := x.tok.isSome, dones := [] }
        else
          let mixed (us : List VUse) : VFile × MFile := h.mixedFiles s.formedFiles us g.w g.n g.g8 g.sew b x.id s.fresh
          let files := mixed (g.us.filter fun u => !narrowUse g.us g.sew u)
          s.startWith x g b true files (if g.us.any (narrowUse g.us g.sew) then (mixed (g.us.filter (narrowUse g.us g.sew))).1 else files.1)

/-! ### The shared units (R116) -/

def Core.unit (c : Core) (u : SharedUnit) : List UOp :=
  match u with
  | .pipe => c.pipe
  | .net => c.net

def Core.setUnit (c : Core) (u : SharedUnit) (os : List UOp) : Core :=
  match u with
  | .pipe => { c with pipe := os }
  | .net => { c with net := os }

/-- The oldest operation of a hart in a unit. -/
def Core.oldest (c : Core) (u : SharedUnit) (hid : Nat) : Option UOp := (c.unit u).find? fun o => decide (o.hid = hid)

/-- The operations offered: each hart's oldest, while it has element groups left. -/
def Core.offered (c : Core) (u : SharedUnit) : List UOp :=
  (List.range 8).filterMap fun hid => (c.oldest u hid).filter fun o => decide (o.left ≠ 0)

/-- The operation served: one offered for 256 cycles unserved, longest first; else the fewest groups left, lower HID on
ties (R116). -/
def chooseOp (os : List UOp) : Option UOp :=
  match os.filter fun o => decide (256 ≤ o.waited) with
  | o :: rest => some (rest.foldl (fun a o => if a.waited < o.waited then o else a) o)
  | [] =>
    match os with
    | o :: rest => some (rest.foldl (fun a o => if o.left < a.left then o else a) o)
    | [] => none

def UOp.same (a b : UOp) : Bool := decide (a.hid = b.hid ∧ a.ent.id = b.ent.id)

def Core.putOp (c : Core) (u : SharedUnit) (o : UOp) : Core :=
  c.setUnit u ((c.unit u).map fun x => if x.same o then o else x)
def Core.dropOp (c : Core) (u : SharedUnit) (o : UOp) : Core := c.setUnit u ((c.unit u).filter fun x => !x.same o)

/-- The start check of a Chart or plane-store access (R145, R147, R310): the trap, if it fails. A failed Chart access has
done no element, so AUX is the lowest active one (R286) (DEDUCED, log entry 13) (DEDUCED, log entry 28)
(DEDUCED, log entry 49). -/
def State.vcmCheck (s : State) (x : VEntry) : Option (State × DefTrap) :=
  let g := s.hart.geo x
  let fs := s.hart.postedFiles x.id s.fresh
  let e := s.hart.env x fs.1 fs.2
  let bad (md : VcmMode) : Option DefTrap :=
    if chartOk md e s.chartSize then none
    else some { cause := .chart, aux := (e.firstActive fun _ => true).getD 0, ent := x, can := true, dones := [] }
  match x.op with
  | .vld md d _ =>
    match bad md with
    | some t => some (s, t)
    | none =>
      (chartPoisonAt md e s.core.chartPoison).map fun k =>
        let v := chartLoad md { e with tp := false } d s.core.chart k
        ((s.mapHart fun h => { h with v := v }.mirrorWrites g.us g.g8 g.sew).countPsn s.cur,
         { cause := .poison, aux := k, ent := x, can := true, dones := doneCounts s.hart.lanes e.leff k })
  | .vst md _ _ => (bad md).map fun t => (s, t)
  | .vstp _ _ _ =>
    if s.quad.held (stageOf (e.scalar 0).toNat) then
      some (s, { cause := .stageheld, aux := 0, ent := x, can := true, dones := [] })
    else none
  | _ => none

/-- A Chart or plane-store access passes its start check, or traps. -/
def State.passVcm (s : State) (o : UOp) : Try :=
  if o.passed || !o.ent.op.isVcm then .moved s
  else
    match (storesAll s).vcmCheck o.ent with
    | some (s, d) => .trap s d
    | none => .moved ((storesAll s).mapCore fun c => c.putOp .pipe { o with passed := true })

/-- The elements of a Chart store that perform in the element groups served so far (R107, R146). -/
def State.vstServed (s : State) (o : UOp) : Nat :=
  let g := s.hart.geo o.ent
  (g.n - o.left) * (max 1 s.hart.leff * (64 / max 1 g.w))

/-- A Chart store performs the elements of the groups served (R146, R198). -/
def State.vstServe (s : State) (o : UOp) (hi : Nat) : State :=
  match o.ent.op with
  | .vst md d _ =>
    if o.ent.vl = 0 then s
    else
      let fs := s.hart.postedFiles o.ent.id s.fresh
      (s.chartStore md (s.hart.env o.ent fs.1 fs.2) d o.stored hi).mapCore fun c => c.putOp .pipe { o with stored := hi }
  | _ => s

/-! ### Completion in a shared unit (R136) -/

/-- The last steps of a posting entry, in the order of R22 and R111: registers, scalar destination, flags, increment. -/
def State.finishPost (s : State) (x : VEntry) (new : VFile × MFile) (scalar : Option Word) (raised : Raised) : State :=
  let g := s.hart.geo x
  let raced := s.hart.vholds.any fun k => decide (k.id = x.id) && (!k.raced.isEmpty || !k.old.isEmpty)
  ((s.mapHart fun h =>
    let before := (h.v, h.m)
    let h := h.landPosted new x.id s.fresh
    let h := h.mirrorWrites g.us g.g8 g.sew
    let h := h.noteRacedHolds before (g.us.filter (·.dst)) g.w g.n g.g8 g.sew x.fillsTail x.id
    let h := match scalar with
      | some v => h.completeS x.id v
      | none => h.unmarkS x.id
    let h := h.freeRegs x.id
    let h := h.mergeFlags (Raised.flags raised) (Raised.lows raised)
    h.postEnd x.sup (x.tok.getD 0)).rewritten x).bump (if raced then raceStride else 0)

def State.filesOf (s : State) (x : VEntry) : VFile × MFile := s.hart.postedFiles x.id s.fresh

/-- An operation of the network completes. -/
def State.netFinish (s : State) (o : UOp) : State :=
  let fs := s.filesOf o.ent
  let r := moveRes o.ent.op (s.hart.env o.ent fs.1 fs.2)
  (s.finishPost o.ent (r.v, r.m) r.scalar r.raised).mapCore fun c => c.dropOp .net o

/-- A Chart or plane-store access that has passed its check completes (DEDUCED, log entry 86). -/
def State.vcmFinish (s : State) (o : UOp) : State :=
  let s := storesAll s
  let x := o.ent
  let fs := s.filesOf x
  let e := s.hart.env x fs.1 fs.2
  let here := (s.hart.v, s.hart.m)
  let s := s.mapCore fun c => c.dropOp .pipe o
  if x.vl = 0 then s.finishPost x here none []
  else
    match x.op with
    | .vld md d _ => s.finishPost x (chartLoad md e d s.core.chart x.vl, s.hart.m) none []
    | .vst md d _ => (s.chartStore md e d o.stored x.vl).finishPost x here none []
    | .vstp bfp d _ =>
      (s.mapQuad fun q => q.planeWrite (e.scalar 0).toNat (planeData bfp (planeB bfp x.sv) e d)).finishPost x here none []
    | _ => s.finishPost x here none []

/-- What became of a port transfer or a wait that was served. -/
inductive Served where
  | done (s : State)
  | waits (s : State) (o : UOp)
  | trap (s : State) (d : DefTrap)

/-- The result of a finished transfer: LAST, and for a fault-only-first read the trimmed VL before the increment (R180,
R183, R184). -/
def State.vptEnd (s : State) (o : UOp) (p : Port) (port : PortSt) (last : Nat) (v : VFile) (raised : Raised)
    (trim : Option Nat) : State :=
  let s := s.mapHart fun h =>
    { h with ports := h.ports.set p { port with last := last }
             vl := match trim with
               | some k => k
               | none => h.vl }
  (s.finishPost o.ent (v, s.hart.m) none raised).mapCore fun c => c.dropOp .pipe o

/-- A fault-only-first read that stops at element k traps where k is the first active element, of a narrow read where k is 0
(R184, R186). -/
def VptFn.ffTraps (f : VptFn) (k first : Nat) : Bool := if f.isNarrow then decide (k = 0) else decide (k ≤ first)

/-- Serve a port transfer: move what can be moved, then end, wait at MARK (R163), or trap (R182 to R187)
(DEDUCED, log entry 18). LAST of a transfer that finishes counts its active elements, of a narrow one too
(DEDUCED, log entry 100). -/
def State.vptServe (s : State) (o : UOp) (f : VptFn) (d : VReg) (p : Port) (bv : VReg) : Served :=
  let x := o.ent
  let port := s.hart.ports[p]
  let fs := s.filesOf x
  let e := s.hart.env x fs.1 fs.2
  let whole := { e with dones := [] }
  if x.vl = 0 then .done (s.vptEnd o p port 0 s.hart.v [] none)
  else
    let first := (whole.firstActive fun _ => true).getD 0
    let fault (s : State) (c : Cause) (i k : Nat) : Served :=
      .trap (s.countPoison c) { cause := c, aux := i, ent := x, can := true, dones := doneCounts s.hart.lanes e.leff k }
    match s.run port.handle with
    | none => fault s .runfault ((e.firstActive fun _ => true).getD 0) 0
    | some r =>
      let t := portTransfer s (s.xl x.sup) r f e d bv port
      let s := t.s
      -- records completed are published (R162, R185)
      let s := if f.isWrite then
          s.mapPkg fun g => g.publish port.handle (max (r.mark.toNat) (t.port.pos / r.w)) else s
      let moved (s : State) : State :=
        s.mapHart fun h => { h with ports := h.ports.set p t.port, v := t.v }.mirrorWrites (s.hart.geo x).us (g8Of x.vcfg) e.sew
      let partway (s : State) : State :=
        (moved s).mapHart fun h => h.mergeFlags (Raised.flags t.raised) (Raised.lows t.raised)
      match t.stop with
      | .finished =>
        .done (s.vptEnd o p t.port (((List.range x.vl).filter fun i => whole.active i).length) t.v t.raised none)
      | .wait _ =>
        .waits (moved s) { o with blocked := true, ent := { x with dones := doneCounts s.hart.lanes e.leff t.k } }
      | .fault err i =>
        if f.isFf then
          (if f.ffTraps t.k first then fault (s.noteErr err) err.cause i 0
           else .done ((s.noteErr err).vptEnd o p t.port t.k (e.tailFrom t.k d t.v) t.raised (some t.k)))
        else fault ((partway s).noteErr err) err.cause i t.k
      | .ended broken _ =>
        let port' := { t.port with atEnd := t.port.atEnd || !broken, broken := t.port.broken || broken }
        .done (s.vptEnd o p port' t.k (e.tailFrom t.k d t.v) t.raised (if f.isFf then some t.k else none))

/-- A port write that has more than one record or block of codes left writes the next one and publishes what that completes (R162,
R185, R196); the port follows, with LAST and flags, when the transfer finishes. Nothing where the step meets a fault
(DEDUCED, log entry 18). -/
def State.vptAhead (s : State) (o : UOp) : Option State :=
  match o.ent.op with
  | .vpt f d p bv _ =>
    let fs := s.filesOf o.ent
    let e := s.hart.env o.ent fs.1 fs.2
    let hi := if f.isNarrow then (o.stored / max 1 e.bs + 1) * max 1 e.bs else o.stored + 1
    let port := s.hart.ports[p]
    if !f.isWrite || decide (o.ent.vl ≤ hi) then none
    else
      (s.run port.handle).bind fun r =>
        let t := portTransfer s (s.xl o.ent.sup) r f { e with vl := hi } d bv port
        match t.stop with
        | .finished =>
          some ((t.s.mapPkg fun g => g.publish port.handle (max r.mark.toNat (t.port.pos / r.w))).mapCore fun c =>
            c.putOp .pipe { o with stored := hi })
        | _ => none
  | _ => none

/-- Bits of the active elements of a `vwait` not yet met. -/
def UOp.unmet (o : UOp) : MBits := o.addrs.foldl (fun m b => if o.met.getLsbD b.idx then m else mset m b.idx true) 0

/-- A `vwait` writes its unmet mask and completes (R195). -/
def State.vwaitEnd (s : State) (o : UOp) (d : MReg) : State :=
  (s.finishPost o.ent (s.hart.v, s.hart.m.set d o.unmet) none []).mapCore fun c => c.dropOp .pipe o

/-- DONE of a stopped `vwait`: in each lane group the leading elements that are met or not active
(DEDUCED, log entry 20). -/
def State.vwaitDones (s : State) (o : UOp) : List Nat :=
  let leff := max 1 s.hart.leff
  (List.range (s.hart.lanes / 4)).map fun j =>
    doneRank leff (((List.range o.ent.vl).filter fun i => decide (i % leff / 4 = j)).takeWhile fun i => !o.unmet.getLsbD i)

/-- Complete an operation of the memory pipe, its element groups all served. -/
def State.pipeFinish (s : State) (o : UOp) : Served :=
  match o.ent.op with
  | .vpt f d p b _ => s.vptServe o f d p b
  | .vwait d _ _ => if o.unmet = 0 then .done (s.vwaitEnd o d) else .waits s o
  | _ =>
    match s.passVcm o with
    | .trap s d => .trap s d
    | _ => .done (s.vcmFinish o)

/-- The operation of the focused hart that began first, of those in its units. -/
def State.nextBegun (s : State) : Option (SharedUnit × UOp) :=
  match s.core.oldest .pipe s.cur.hid, s.core.oldest .net s.cur.hid with
  | some p, some n => if p.ent.id < n.ent.id then some (.pipe, p) else some (.net, n)
  | some p, none => some (.pipe, p)
  | none, some n => some (.net, n)
  | none, none => none

/-- The entries of the focused hart that began before a number finish (R289, R292). -/
def finishOlder (id : Nat) : Nat → State → State
  | 0, s => s
  | n + 1, s =>
    match s.nextBegun with
    | none => s
    | some (u, o) =>
      if id ≤ o.ent.id then s
      else
        match u with
        | .net => finishOlder id n (s.netFinish { o with left := 0 })
        | .pipe =>
          match s.pipeFinish { o with left := 0, blocked := false } with
          | .done s => finishOlder id n s
          | _ => s

/-- Take the trap of a queue entry (R285, R288, R289): fixed-latency operations land, the entries before it that have begun finish,
it becomes the head V with QF = 1, its increment is made as cancelled where it has one, and what it held is released
(DEDUCED, log entry 22). -/
def State.takeDeferred (s : State) (d : DefTrap) : State :=
  let s := landAll (inflBound s.hart + 1) s
  let s := finishOlder d.ent.id (s.core.pipe.length + s.core.net.length) s
  let s := s.mapCore fun c =>
    { c with pipe := c.pipe.filter fun u => !decide (u.hid = s.cur.hid ∧ u.ent.id = d.ent.id)
             net := c.net.filter fun u => !decide (u.hid = s.cur.hid ∧ u.ent.id = d.ent.id) }
  let s := s.mapHart fun h =>
    let h := h.freeRegs d.ent.id
    let h := if d.can then (h.unmarkS d.ent.id).postEnd d.ent.sup (d.ent.tok.getD 0) else h
    { h with vq := d.ent :: h.vq.filter (fun x => decide (x.id ≠ d.ent.id))
             bops := h.bops.map fun b => if b.id = d.ent.id then { b with started := false, ent := none, elems := [], got := [] } else b }
  enterTrap
    { cause := d.cause, aux := d.aux, tk := if d.can then (d.ent.tok.getD 0).val else 0, can := d.can, qf := true
      eng := false, dfd := true, pc := d.ent.addr, src := s.hart.pc, dones := d.dones } s

/-- A cycle of a unit: one operation advances by one element group; a Chart or plane-store access makes its start check in
its first. -/
def State.unitCycle (s : State) (u : SharedUnit) : State :=
  let os := s.core.offered u
  match chooseOp os with
  | none => s
  | some o =>
    let s := s.mapCore fun c => c.setUnit u ((c.unit u).map fun x =>
      if x.same o then { x with left := x.left - 1, waited := 0 }
      else if os.any (fun y => y.same x) then { x with waited := x.waited + 1 } else x)
    let here := s.cur
    let s := s.focus { here with hid := o.hid }
    let o := { o with left := o.left - 1, waited := 0 }
    (match s.passVcm o with
     | .blocked => s
     | .moved s => s.vstServe { o with passed := true } (s.vstServed o)
     | .trap s d => s.takeDeferred d).focus here

/-- The focused hart's oldest operation in a unit completes, once all its groups are served, the flags of everything queued
before it have merged (R111), and the slot of its start has passed. -/
def State.unitComplete (s : State) (u : SharedUnit) : State :=
  match s.core.oldest u s.cur.hid with
  | none => s
  | some o =>
    if o.left ≠ 0 ∨ o.blocked = true ∨ s.mergesBefore o.ent.id = true ∨ s.hart.slot ≤ o.start then s
    else
      match u with
      | .net => s.netFinish o
      | .pipe =>
        match s.vptAhead o with
        | some s => s
        | none =>
          match s.pipeFinish o with
          | .done s => s.pruneFences
          | .waits s o => s.mapCore fun c => c.putOp .pipe o
          | .trap s d => s.takeDeferred d

/-- Whether a transfer that waits at MARK can move: the bytes of its next element are there, the run has ended, or it
fails (R163). -/
def State.vptMoves (s : State) (x : VEntry) (f : VptFn) (d : VReg) (p : Port) (b : VReg) : Bool :=
  let fs := s.filesOf x
  let e := s.hart.env x fs.1 fs.2
  let port := s.hart.ports[p]
  match s.run port.handle with
  | none => true
  | some r =>
    match (portTransfer s (s.xl x.sup) r f e d b port).stop with
    | .wait i => decide ((e.firstActive fun _ => true).getD i < i)
    | _ => true

/-- A waiting port read goes on once it can (R163). -/
def State.portResume (s : State) : State :=
  match s.core.oldest .pipe s.cur.hid with
  | none => s
  | some o =>
    match o.ent.op with
    | .vpt f d p b _ =>
      if o.blocked && s.vptMoves o.ent f d p b then s.mapCore fun c => c.putOp .pipe { o with blocked := false } else s
    | _ => s

/-- A waiting `vwait` reads its unmet words again; at a time-out of 0 there is but the round of its start (R195). -/
def State.vwaitAgain (s : State) : State :=
  match s.core.oldest .pipe s.cur.hid with
  | none => s
  | some o =>
    match o.ent.op with
    | .vwait _ _ _ => if (o.ent.sv[0]?).getD 0 = 0 then s else s.mapCore fun c => c.putOp .pipe (s.vwaitRead o)
    | _ => s

/-- The time-out of a `vwait`: a last round of reads, which at a time-out of 0 was its first, then the unmet mask (R195)
(DEDUCED, log entry 20). -/
def State.vwaitExpire (s : State) : State :=
  match s.core.oldest .pipe s.cur.hid with
  | none => s
  | some o =>
    match o.ent.op with
    | .vwait d _ _ =>
      let limit := ((o.ent.sv[0]?).getD 0).toNat
      if decide (o.since + limit ≤ s.hart.clock) && !s.mergesBefore o.ent.id then
        (s.vwaitEnd (if limit = 0 then o else s.vwaitRead o) d).pruneFences
      else s
    | _ => s

/-! ### Beacon accesses perform (R188 to R192, R198) -/

/-- The new word of an atomic on a word (R192). -/
def AtmFn.eval (f : AtmFn) (old val cmp : Word) : Word :=
  match f with
  | .add => old + val
  | .max => if old.toInt < val.toInt then val else old
  | .min => if val.toInt < old.toInt then val else old
  | .swp => val
  | .cas => if old = cmp then val else old
  | .maxe => wordOf (foldMaxE (old.toNat % 256) (val.toNat % 256))
  | .mine => wordOf (foldMinE (old.toNat % 256) (val.toNat % 256))

def AtmFn.isByte (f : AtmFn) : Bool := decide (f = .maxe ∨ f = .mine)

/-- One atomic performs: the old value, and memory with the new one. -/
def State.atomicAt (s : State) (f : AtmFn) (pa : Nat) (val cmp : Word) : State × Word :=
  if f.isByte then
    let old : Word := (s.pkg.mem.read pa).setWidth 64
    (s.mapMem fun m => m.write pa ((f.eval old val cmp).setWidth 8), old)
  else
    let old := s.pkg.mem.word pa
    (s.beaconWrite pa (f.eval old val cmp), old)

/-- One element performs. A ticketed element draws the next ticket (R191). -/
def State.bopElem (s : State) (b : BOp) (k : BElem) : State × Option Word :=
  let s := if b.ticketed then s.mapPkg fun p => { p with ticket := p.ticket + 1 } else s
  let get (r : VReg) : Word :=
    match b.ent with
    | some x => let fs := s.filesOf x; wordOf (vget fs.1 (max 1 s.hart.leff) 64 r.val k.idx)
    | none => 0
  match b.kind with
  | .load _ => (s, some (s.pkg.mem.word k.pa))
  | .vload _ => (s, some (s.pkg.mem.word k.pa))
  | .store => (s.beaconWrite k.pa k.val, none)
  | .vstore =>
    match b.ent.map VEntry.op with
    | some (VOp.vbst _ d _ _) => (s.beaconWrite k.pa (get d), none)
    | _ => (s, none)
  | .atomic f _ => let r := s.atomicAt f k.pa k.val k.cmp; (r.1, some r.2)
  | .vatomic _ =>
    match b.ent.map VEntry.op with
    | some (VOp.vamaxe _ _ v _) => let r := s.atomicAt .maxe k.pa (get v) 0; (r.1, some r.2)
    | _ => (s, none)
  | .vwait => (s, none)
  | .fence _ => (s, none)

/-- An access all of whose elements have performed completes: results, then the increment (R22). -/
def State.bopFinish (s : State) (b : BOp) : State :=
  let s' := match b.ent with
    | some x => s.finishPost x (s.bopRegs b x, s.hart.m) none []
    | none =>
      s.mapHart fun h =>
        let h := match (b.got.map Prod.snd)[0]? with
          | some v => h.completeS b.id v
          | none => h.unmarkS b.id
        match b.tok with
        | some t => h.postEnd b.sup t
        | none => h
  (s'.mapHart fun h => { h with bops := h.bops.filter fun o => decide (o.id ≠ b.id) }).pruneFences

def BKind.isAtomic (k : BKind) : Bool :=
  match k with
  | .atomic _ _ => true
  | .vatomic _ => true
  | _ => false

/-- An issued access is held back: before it has performed by the order of R190 to R194, after that by flags still to merge
(R111). -/
def State.bopHeld (s : State) (b : BOp) : Bool :=
  if b.performed then b.ent.isSome && s.mergesBefore b.id else !s.bopReady b

/-- The next element of an issued access performs, or, all of them having performed, it completes (R198, R22)
(DEDUCED, log entry 5). -/
def State.bopAdvance (s : State) (b : BOp) : State :=
  match b.elems with
  | [] => s.bopFinish b
  | e :: es =>
    let r := s.bopElem b e
    let b := { b with elems := es, got := match r.2 with
      | some v => b.got ++ [(e.idx, v)]
      | none => b.got }
    (r.1.mapHart fun h => { h with bops := h.bops.map fun o => if o.id = b.id then b else o }).pruneFences

/-- The next element of the k-th issued access of the focused hart performs; once all have performed, the access completes.
Nothing happens while the order of R190 to R194 holds it back (DEDUCED, log entry 5) (DEDUCED, log entry 14). -/
def State.bopStep (s : State) (k : Nat) (atomic : Bool) : State :=
  match s.hart.bops[k]? with
  | none => s
  | some b =>
    if !b.started || decide (b.kind.isAtomic ≠ atomic) then s
    else if s.bopHeld b then s
    else s.bopAdvance b

/-! ### Stopping the queue (R288, R289) -/

/-- Outcome of stopping a queue: everything done; an older deferred trap; an entry that waits, the new head V, with its
DONE counters; or an entry that must wait for an engine first. -/
inductive Drain where
  | done (s : State)
  | trap (s : State) (d : DefTrap)
  | waits (s : State) (dones : List Nat)
  | stuck (s : State)

/-- A waiting operation leaves the pipe and becomes the head V; its increment is still to come. -/
def State.stopWaiting (s : State) (o : UOp) : Drain :=
  let dones := match o.ent.op with
    | .vwait _ _ _ => s.vwaitDones o
    | _ => o.ent.dones
  let s := s.mapCore fun c => c.dropOp .pipe o
  .waits (s.mapHart fun h => { h.freeRegs o.ent.id with vq := { o.ent with dones := dones } :: h.vq }) dones

/-- Run the queue and the units of the focused hart until nothing is left or the queue stops
(DEDUCED, log entry 30). -/
def drain : Nat → State → Drain
  | 0, s => .stuck s
  | fuel + 1, s =>
    let s := landAll (inflBound s.hart + 1) s
    match s.nextBegun with
    | some (.pipe, o) =>
      let o := { o with left := 0, blocked := false }
      (match s.pipeFinish o with
       | .done s => drain fuel s
       | .waits s o => s.stopWaiting o
       | .trap s d => .trap s d)
    | some (.net, o) => drain fuel (s.netFinish { o with left := 0 })
    | none =>
      if s.hart.vq.isEmpty then .done s
      else
        match s.startEntry true with
        | .blocked => .stuck s
        | .moved s => drain fuel s
        | .trap s d => .trap s d

/-- Enough turns for everything in the queue and the units. -/
def State.drainFuel (s : State) : Nat := 2 * (s.hart.vq.length + s.core.pipe.length + s.core.net.length) + 2

/-- The DONE counters a record already holds (DEDUCED, log entry 21). -/
def Hart.recordDones (h : Hart) : List Nat := h.trlg.toList.map fun w => bitsOf w 13 0

/-- The trap of a posting word that fails a check at issue makes the word's increment as cancelled (R28). -/
def State.cancelAtIssue (s : State) (t : TrapRec) : State :=
  if t.can && !t.dfd then
    s.mapHart fun h =>
      let k : Tok := ⟨t.tk % 16, Nat.mod_lt _ (by decide)⟩
      h.setToken h.hst.mode k ⟨(h.token h.hst.mode k).cnt + 1, (h.token h.hst.mode k).out⟩
  else s

/-- Take a trap (R288): fixed-latency operations land, the queue stops, an older deferred trap of the queue goes before it
(R290), and the record is written. While an entry must wait for an engine the front holds and tries again
(DEDUCED, log entry 21) (DEDUCED, log entry 30). -/
def trapAt (t : TrapRec) (s : State) : State :=
  let s := landAll (inflBound s.hart + 1) s
  if s.hart.queueFrozen then enterTrap { t with qf := true, dones := s.hart.recordDones } (s.cancelAtIssue t)
  else
    match drain s.drainFuel s with
    | .done s => enterTrap t (s.cancelAtIssue t)
    | .trap s d => s.takeDeferred d
    | .waits s ds => enterTrap { t with qf := true, dones := ds } (s.cancelAtIssue t)
    | .stuck s => s.hold

end Sys2Proof.Machine
end

