-- ==== Sys2Proof/Machine/Issue.lean ====
section
/-! DEFINITION. What every issuing word goes through: the checks 5 to 7 of R42 (the decoder makes 1 to 4), the race check of
its scalar registers (R27), and for queue entries the operand checks and the queue itself (R102, R107, R119). -/
namespace Sys2Proof.Machine

/-! ### Checks 5 to 7 (R42) -/

/-- What R39 to R42 ask of a function: of every list one capability bit; the helm core, or any core but it; supervisor
mode. -/
structure Need where
  caps : List (List Nat)
  helm : Option Bool := none
  priv : Bool := false
deriving DecidableEq, Repr

def Need.bit (k : Nat) : Need := { caps := [[k]] }
/-- A vector class, which the helm core refuses. -/
def Need.vec (k : Nat) : Need := { caps := [[k]], helm := some false }
def Need.privileged : Need := { caps := [[0]], priv := true }

/-- The mask check 7 looks at: the task's declared use, in supervisor mode the core's capability mask
(DESIGN CHOICE, log entry 45). -/
def State.useMask (s : State) : BitVec 64 :=
  if s.hart.hst.mode then s.pkg.capOf s.cur else (s.hart.ctx.map (·.use)).getD 0

def Need.covered (n : Need) (mask : BitVec 64) : Bool := n.caps.all fun any => any.any fun k => mask.getLsbD k

/-- The first of the checks 5 to 7 that fails. -/
def State.wordCheck (s : State) (n : Need) : Option Cause :=
  if n.helm.any (fun b => b != s.hart.hst.helm) then some .illegal
  else if n.priv && !s.hart.hst.mode then some .priv
  else if !n.covered s.useMask then some .undeclared
  else none

/-- A trap of the issuing word (R43, R285). -/
def State.trapHere (s : State) (c : Cause) (aux : Nat := 0) : State := trapAt (TrapRec.atIssue c aux s.hart.pc) s

/-- A trap of a posting word whose own check fails at issue: where it posts, its increment is made as cancelled (R28, R181,
R188) (DEDUCED, log entry 31). -/
def State.trapPost (s : State) (c : Cause) (tok : Option Tok) : State :=
  match tok with
  | some tk => trapAt { TrapRec.atIssue c 0 s.hart.pc with tk := tk.val, can := true } s
  | none => s.trapHere c

/-- The checks of an issuing word, in order: 5 to 7 of R42, then the race check of its sources and destinations (R27); then
its own effect. After an unchecked race the free values drawn are not drawn again (DEDUCED, log entry 7). -/
def issue (n : Need) (srcs dsts : List SReg) (body : State → State) (s : State) : State :=
  match s.wordCheck n with
  | some c => s.trapHere c
  | none =>
    match (srcs ++ dsts).find? s.hart.pendingReg with
    | some r => if s.hart.hst.rchk then s.trapHere .race r.val else (body s).bump 64
    | none => body s

/-! ### Shapes of scalar instructions -/

/-- A result of fixed latency in a scalar register. -/
def issueReg (n : Need) (srcs : List SReg) (d : SReg) (lat : Nat) (f : State → Word) (s : State) : State :=
  issue n srcs [d] (fun s => (s.writeReg d (f s) lat).advance) s

/-- The same with flags (R89). -/
def issueFp (n : Need) (srcs : List SReg) (d : SReg) (lat : Nat) (f : State → Word × FFlags) (s : State) : State :=
  issue n srcs [d] (fun s => ((s.writeReg d (f s).1 lat).raise (f s).2 lat).advance) s

/-- A conditional transfer relative to its own address (R38, R76). -/
def issueBranch (srcs : List SReg) (off : BitVec 13) (taken : State → Bool) (s : State) : State :=
  issue (Need.bit 0) srcs [] (fun s =>
    if taken s then s.jump (s.hart.pc + (off.signExtend 64) * 4) else s.advance) s

/-- Whether a hart has as many posting operations outstanding as it may have (R18). -/
def Hart.full (h : Hart) : Bool := decide (Config.maxPosts ≤ h.outstanding)

/-- The bank of the registers and tokens the hart's mode uses for a posting operation. -/
def Hart.sup (h : Hart) : Bool := h.hst.mode

/-- Mark the scalar destination of a posting operation (R22). A racing unchecked write leaves one of the two values (R27):
either the earlier write is dropped, or the operation writes nothing (DEDUCED, log entry 6). -/
def State.markDest (s : State) (d : SReg) (id : Nat) : State :=
  let sup := inSupBank s.hart.hst.mode d
  if d = 0 then s
  else if s.hart.pendingReg d && !Config.freeBit (s.fresh + 32 + d.val) then s
  else
    s.mapHart fun h =>
      Hart.markS
        { h with infl := h.infl.filter fun x => !decide (x.dest = .sreg sup d)
                 pendS := h.pendS.filter fun p => !decide (p.1 = sup ∧ p.2.1 = d) } sup d id

/-- The issue of a posting operation that is not a queue entry: at the limit of R18 the hart freezes, else its token and
its destination are marked and `start` gets the operation's number. -/
def State.post (s : State) (tk : Tok) (d : Option SReg) (start : Nat → State → State) : State :=
  if s.hart.full then s.freeze
  else
    let id := s.fresh + 64
    let s := match d with
      | some d => s.markDest d id
      | none => s
    ((start id (s.mapHart fun h => h.postBegin h.sup tk)).bump 65).advance

/-! ### Queue entries (R102, R107) -/

/-- The entry an instruction makes, with what it captures at issue. -/
def State.entry (s : State) (op : VOp) (sv : List Word) (tok : Option Tok) : VEntry :=
  let h := s.hart
  { id := s.fresh + 64, op := op, word := s.issuedWord, addr := h.pc, vl := h.vl, vcfg := h.vcfg, cap := h.vcap, rm := h.fcr, sv := sv, tok := tok
    sup := h.sup, slot := h.slot, dones := [], fm := h.fm }

/-- A beacon access in the queue takes its place in the order of its class when it issues (R190). -/
def VOp.bop (op : VOp) (x : VEntry) : List BOp :=
  let mk (k : BKind) (oc : OClass) (t : Bool) : List BOp :=
    [{ id := x.id, kind := k, addr := x.addr, tok := x.tok, sup := x.sup, oc := oc, ticketed := t, started := false
       ent := none, elems := [], got := [] }]
  match op with
  | .vbld sc d _ oc => mk (.vload d) oc sc
  | .vbst sc _ _ oc => mk .vstore oc sc
  | .vamaxe d _ _ oc => mk (.vatomic d) oc false
  | .vwait _ _ oc => mk .vwait oc false
  | _ => []

/-- Put an entry at the end of the queue. -/
def State.push (s : State) (op : VOp) (sv : List Word) (tok : Option Tok) : State :=
  let x := s.entry op sv tok
  let s := match op.sdest with
    | some d => s.markDest d x.id
    | none => s
  (s.mapHart fun h =>
    let h := match tok with
      | some t => h.postBegin h.sup t
      | none => h
    { h with vq := h.vq ++ [x], bops := h.bops ++ op.bop x }).bump 65

/-- Entering the queue: refused while a handler holds the queue frozen (R289); at the limit of posting operations the hart
freezes (R18); while the queue is full the front stops (R107). `k` slots pass (DEDUCED, log entry 32). -/
def State.enqueue (s : State) (op : VOp) (sv : List Word) (tok : Option Tok) (k : Nat) : State :=
  if s.hart.queueFrozen then s.trapHere .illegal
  else if tok.isSome && s.hart.full then s.freeze
  else if Config.queueEntries ≤ s.hart.vq.length then s.hold
  else ticks (k - 1) (s.push op sv tok).advance

/-- An instruction whose increment counts as cancelled when one of its checks at issue fails (R181); another word refused at issue posts
nothing (DEDUCED, log entry 31). -/
def VOp.cancels (op : VOp) : Bool :=
  match op with
  | .vpt _ _ _ _ _ => true
  | _ => false

/-- A vector instruction: the checks of R42, its scalar registers, R101 and R119, and the instruction's own checks at issue;
then the queue (DEDUCED, log entry 31). -/
def issueVector (n : Need) (srcs : List SReg) (op : VOp) (tok : Option Tok) (own : State → Option Cause) (s : State) : State :=
  issue n srcs op.sdest.toList (fun s =>
    if !op.operandsOk s.hart.vcfg then s.trapPost .illegal (if op.cancels then tok else none)
    else
      match own s with
      | some c => s.trapPost c (if op.cancels then tok else none)
      | none => s.enqueue op (srcs.map s.src) tok 1) s

/-- The scalar register of a B operand. -/
def bRegs (b : VSrc) : List SReg :=
  match b with
  | .scal r => [r]
  | _ => []

end Sys2Proof.Machine
end

