-- ==== Sys2Proof/Machine/Scalar.lean ====
section
/-! DEFINITION. The scalar classes SOP, SIM, SUI, SBR, SJ, SJR, SCM and SLL (04_scalar_instructions.md). -/
namespace Sys2Proof.Machine

/-- What a meaning answers. -/
abbrev Out := Host.Outcome State Fault Refusal

/-! ### SOP (R71 to R73) -/

/-- The functions of SOP with two sources. -/
inductive SopFn where
  | add | sub | and | or | xor | andn | sll | srl | sra | ror
  | slt | sltu | seq | min | max | minu | maxu
  | mul | mulh | mulhu | mulhsu
deriving DecidableEq, Repr

/-- The w-bit result of a function on w-bit operands (R71, R73). -/
def SopFn.eval (f : SopFn) (w a b : Nat) : Nat :=
  match f with
  | .add => (a + b) % 2 ^ w
  | .sub => wrapNat w ((a : Int) - b)
  | .and => a &&& b
  | .or => a ||| b
  | .xor => a ^^^ b
  | .andn => a &&& (2 ^ w - 1 - b)
  | .sll => a * 2 ^ (b % w) % 2 ^ w
  | .srl => a / 2 ^ (b % w)
  | .sra => wrapNat w (asInt w a / (2 ^ (b % w) : Nat))
  | .ror => (a / 2 ^ (b % w) + a * 2 ^ (w - b % w)) % 2 ^ w
  | .slt => if asInt w a < asInt w b then 1 else 0
  | .sltu => if a < b then 1 else 0
  | .seq => if a = b then 1 else 0
  | .min => if asInt w b < asInt w a then b else a
  | .max => if asInt w a < asInt w b then b else a
  | .minu => Nat.min a b
  | .maxu => Nat.max a b
  | .mul => a * b % 2 ^ w
  | .mulh => wrapNat w (asInt w a * asInt w b / (2 ^ w : Nat))
  | .mulhu => a * b / 2 ^ w
  | .mulhsu => wrapNat w (asInt w a * b / (2 ^ w : Nat))

/-- A SOP result as s[D] takes it: sign-extended from the operand size (R71). -/
def sop (f : SopFn) (z : Size) (a b : Word) : Word :=
  sextTo64 z.bits (wordOf (f.eval z.bits (a.toNat % 2 ^ z.bits) (b.toNat % 2 ^ z.bits)))

/-- A SOP instruction with two register sources. -/
def sopReg (f : SopFn) (bit lat : Nat) (z : Size) (d a b : SReg) (s : State) : State :=
  issueReg (Need.bit bit) [a, b] d lat (fun s => sop f z (s.src a) (s.src b)) s

/-- An immediate shift (R72). -/
def sopShift (f : SopFn) (z : Size) (d a : SReg) (amt : Fin 64) (s : State) : State :=
  issueReg (Need.bit 0) [a] d 1 (fun s => sop f z (s.src a) (wordOf amt.val)) s

/-- `add` (R71): a + b. -/
def execAdd (z : Size) (d a b : SReg) (s : State) : Out := .next (sopReg .add 0 1 z d a b s)
/-- `sub` (R71): a − b. -/
def execSub (z : Size) (d a b : SReg) (s : State) : Out := .next (sopReg .sub 0 1 z d a b s)
/-- `and` (R71): a AND b. -/
def execAnd (z : Size) (d a b : SReg) (s : State) : Out := .next (sopReg .and 0 1 z d a b s)
/-- `or` (R71): a OR b. -/
def execOr (z : Size) (d a b : SReg) (s : State) : Out := .next (sopReg .or 0 1 z d a b s)
/-- `xor` (R71): a XOR b. -/
def execXor (z : Size) (d a b : SReg) (s : State) : Out := .next (sopReg .xor 0 1 z d a b s)
/-- `andn` (R71): a AND NOT b. -/
def execAndn (z : Size) (d a b : SReg) (s : State) : Out := .next (sopReg .andn 0 1 z d a b s)
/-- `sll` (R71): left shift. -/
def execSll (z : Size) (d a b : SReg) (s : State) : Out := .next (sopReg .sll 0 1 z d a b s)
/-- `srl` (R71): logical right shift. -/
def execSrl (z : Size) (d a b : SReg) (s : State) : Out := .next (sopReg .srl 0 1 z d a b s)
/-- `sra` (R71): arithmetic right shift. -/
def execSra (z : Size) (d a b : SReg) (s : State) : Out := .next (sopReg .sra 0 1 z d a b s)
/-- `ror` (R71): rotation right. -/
def execRor (z : Size) (d a b : SReg) (s : State) : Out := .next (sopReg .ror 0 1 z d a b s)
/-- `slt` (R71): signed below. -/
def execSlt (z : Size) (d a b : SReg) (s : State) : Out := .next (sopReg .slt 0 1 z d a b s)
/-- `sltu` (R71): unsigned below. -/
def execSltu (z : Size) (d a b : SReg) (s : State) : Out := .next (sopReg .sltu 0 1 z d a b s)
/-- `seq` (R71): equal. -/
def execSeq (z : Size) (d a b : SReg) (s : State) : Out := .next (sopReg .seq 0 1 z d a b s)
/-- `min` (R71): signed minimum. -/
def execMin (z : Size) (d a b : SReg) (s : State) : Out := .next (sopReg .min 0 1 z d a b s)
/-- `max` (R71): signed maximum. -/
def execMax (z : Size) (d a b : SReg) (s : State) : Out := .next (sopReg .max 0 1 z d a b s)
/-- `minu` (R71): unsigned minimum. -/
def execMinu (z : Size) (d a b : SReg) (s : State) : Out := .next (sopReg .minu 0 1 z d a b s)
/-- `maxu` (R71): unsigned maximum. -/
def execMaxu (z : Size) (d a b : SReg) (s : State) : Out := .next (sopReg .maxu 0 1 z d a b s)
/-- `sel` (R71): a if the old s[D] is not zero, else b; all three are read at issue. -/
def execSel (z : Size) (d a b : SReg) (s : State) : Out :=
  .next (issueReg (Need.bit 0) [a, b, d] d 1
    (fun s => sextTo64 z.bits (if s.src d ≠ 0 then s.src a else s.src b)) s)
/-- `mul` (R73): the low half of the product. -/
def execMul (z : Size) (d a b : SReg) (s : State) : Out := .next (sopReg .mul 1 3 z d a b s)
/-- `mulh` (R73): the high half, signed. -/
def execMulh (z : Size) (d a b : SReg) (s : State) : Out := .next (sopReg .mulh 1 3 z d a b s)
/-- `mulhu` (R73): the high half, unsigned. -/
def execMulhu (z : Size) (d a b : SReg) (s : State) : Out := .next (sopReg .mulhu 1 3 z d a b s)
/-- `mulhsu` (R73): the high half, signed by unsigned. -/
def execMulhsu (z : Size) (d a b : SReg) (s : State) : Out := .next (sopReg .mulhsu 1 3 z d a b s)
/-- `slli` (R72). -/
def execSlli (z : Size) (d a : SReg) (amt : Fin 64) (s : State) : Out := .next (sopShift .sll z d a amt s)
/-- `srli` (R72). -/
def execSrli (z : Size) (d a : SReg) (amt : Fin 64) (s : State) : Out := .next (sopShift .srl z d a amt s)
/-- `srai` (R72). -/
def execSrai (z : Size) (d a : SReg) (amt : Fin 64) (s : State) : Out := .next (sopShift .sra z d a amt s)
/-- `rori` (R72). -/
def execRori (z : Size) (d a : SReg) (amt : Fin 64) (s : State) : Out := .next (sopShift .ror z d a amt s)

/-! ### SIM and SUI (R74, R75) -/

/-- `addi` (R74). -/
def execAddi (d a : SReg) (imm : BitVec 14) (s : State) : Out :=
  .next (issueReg (Need.bit 0) [a] d 1 (fun s => s.src a + imm.signExtend 64) s)
/-- `andi` (R74). -/
def execAndi (d a : SReg) (imm : BitVec 14) (s : State) : Out :=
  .next (issueReg (Need.bit 0) [a] d 1 (fun s => s.src a &&& imm.signExtend 64) s)
/-- `ori` (R74). -/
def execOri (d a : SReg) (imm : BitVec 14) (s : State) : Out :=
  .next (issueReg (Need.bit 0) [a] d 1 (fun s => s.src a ||| imm.signExtend 64) s)
/-- `xori` (R74). -/
def execXori (d a : SReg) (imm : BitVec 14) (s : State) : Out :=
  .next (issueReg (Need.bit 0) [a] d 1 (fun s => s.src a ^^^ imm.signExtend 64) s)
/-- `lhi` (R75). -/
def execLhi (d : SReg) (imm : BitVec 19) (s : State) : Out :=
  .next (issueReg (Need.bit 0) [] d 1 (fun _ => imm.signExtend 64 <<< 14) s)
/-- `adpc` (R75). -/
def execAdpc (d : SReg) (imm : BitVec 19) (s : State) : Out :=
  .next (issueReg (Need.bit 0) [] d 1 (fun s => s.hart.pc + (imm.signExtend 64 <<< 14)) s)

/-! ### Control transfers (R76 to R78) -/

/-- `beq` (R76). -/
def execBeq (a b : SReg) (off : BitVec 13) (s : State) : Out :=
  .next (issueBranch [a, b] off (fun s => decide (s.src a = s.src b)) s)
/-- `bne` (R76). -/
def execBne (a b : SReg) (off : BitVec 13) (s : State) : Out :=
  .next (issueBranch [a, b] off (fun s => decide (s.src a ≠ s.src b)) s)
/-- `blt` (R76). -/
def execBlt (a b : SReg) (off : BitVec 13) (s : State) : Out :=
  .next (issueBranch [a, b] off (fun s => decide ((s.src a).toInt < (s.src b).toInt)) s)
/-- `bge` (R76). -/
def execBge (a b : SReg) (off : BitVec 13) (s : State) : Out :=
  .next (issueBranch [a, b] off (fun s => decide ((s.src b).toInt ≤ (s.src a).toInt)) s)
/-- `bltu` (R76). -/
def execBltu (a b : SReg) (off : BitVec 13) (s : State) : Out :=
  .next (issueBranch [a, b] off (fun s => decide ((s.src a).toNat < (s.src b).toNat)) s)
/-- `bgeu` (R76). -/
def execBgeu (a b : SReg) (off : BitVec 13) (s : State) : Out :=
  .next (issueBranch [a, b] off (fun s => decide ((s.src b).toNat ≤ (s.src a).toNat)) s)
/-- `j` (R77). -/
def execJ (off : BitVec 25) (s : State) : Out :=
  .next (issue (Need.bit 0) [] [] (fun s => s.jump (s.hart.pc + (off.signExtend 64) * 4)) s)
/-- `call` (R77): the link goes to s31. -/
def execCall (off : BitVec 25) (s : State) : Out :=
  .next (issue (Need.bit 0) [] [31] (fun s =>
    (s.writeReg 31 (s.hart.pc + 4) 1).jump (s.hart.pc + (off.signExtend 64) * 4)) s)
/-- `jr` (R78): a target that is not a multiple of 4 traps FETCH at the `jr`, with no link. -/
def execJr (d a : SReg) (s : State) : Out :=
  .next (issue (Need.bit 0) [a] [d] (fun s =>
    let target := s.src a
    if target.toNat % 4 ≠ 0 then s.trapHere .fetch 3
    else (s.writeReg d (s.hart.pc + 4) 1).jump target) s)

/-! ### Chart loads and stores (SCM, R80, R81) -/

/-- The Chart address of an access of n bytes: the sum does not wrap into range, and the access is aligned and within the
Chart (R14, R81). -/
def State.chartEa (s : State) (base : Word) (off : BitVec 12) (n : Nat) : Option Nat :=
  let ea : Int := (base.toNat : Int) + off.toInt
  if 0 ≤ ea ∧ ea.toNat % n = 0 ∧ ea.toNat + n ≤ s.chartSize then some ea.toNat else none

/-- The bank of a Chart address (R13). -/
def chartBank (a : Nat) : Nat := a / 8 % 32

/-- A hart of lower HID reaches the bank of an address in the same cycle and is served first (R16)
(DEDUCED, log entry 92). -/
def State.bankTaken (s : State) (ea : Nat) : Bool :=
  s.core.banks.any fun x => decide (x.1 < s.cur.hid ∧ x.2.1 = s.hart.clock ∧ x.2.2 = chartBank ea)

/-- The focused hart reaches the bank of an address in the present cycle. -/
def State.useBank (s : State) (ea : Nat) : State :=
  s.mapCore fun c =>
    { c with banks := (s.cur.hid, s.hart.clock, chartBank ea) :: c.banks.filter fun x => decide (x.1 ≠ s.cur.hid) }

/-- A scalar Chart load issues: its result is readable four slots on, and it reads its bytes from the bank at any moment until then,
in program order (R15, R198) (DEDUCED, log entry 97). After an unchecked race either its result or the earlier one is dropped, as
`State.writeReg` says. -/
def State.loadChart (s : State) (d : SReg) (ea n : Nat) (signed : Bool) : State :=
  let l : ChartLoad := ⟨s.fresh + 64, ea, n, signed, inSupBank s.hart.hst.mode d, d, s.hart.slot + 4⟩
  let s' := s.writeReg d 0 4
  (if d = 0 ∨ (s.hart.pendingReg d && !Config.freeBit (s.fresh + 32 + d.val)) = true then s'
   else s'.mapHart fun h => { h with loads := h.loads ++ [l] }).bump 65

/-- A Chart load with its extension; a taken bank freezes the hart for a cycle (R16), a poisoned word traps precisely (R310). -/
def chartRead (z : Size) (d a : SReg) (off : BitVec 12) (signed : Bool) (s : State) : State :=
  issue (Need.bit 0) [a] [d] (fun s =>
    let n := z.bits / 8
    match s.chartEa (s.src a) off n with
    | none => s.trapHere .chart
    | some ea =>
      if s.bankTaken ea then s.freeze
      else if anyPoison s.ownChart.chartPoison ea n then (s.countPoison .poison).trapHere .poison
      else ((s.useBank ea).loadChart d ea n signed).advance) s

/-- `ldc` (R80, R81): zero-extended (DEDUCED, log entry 24). -/
def execLdc (z : Size) (d a : SReg) (off : BitVec 12) (s : State) : Out := .next (chartRead z d a off false s)
/-- `ldcs` (R80, R81): sign-extended. -/
def execLdcs (z : Size) (d a : SReg) (off : BitVec 12) (s : State) : Out := .next (chartRead z d a off true s)
/-- A scalar Chart store issues; it performs in the fourth slot after, or in an earlier write-back event (R198)
(DEDUCED, log entry 97). -/
def State.storeChart (s : State) (ea n v : Nat) : State :=
  (s.mapHart fun h => { h with stores := h.stores ++ [⟨s.fresh + 64, ea, n, v, h.slot + 4⟩] }).bump 65

/-- `stc` (R80, R81): the low bytes of s[D]. -/
def execStc (z : Size) (d a : SReg) (off : BitVec 12) (s : State) : Out :=
  .next (issue (Need.bit 0) [a, d] [] (fun s =>
    let n := z.bits / 8
    match s.chartEa (s.src a) off n with
    | none => s.trapHere .chart
    | some ea => if s.bankTaken ea then s.freeze else ((s.useBank ea).storeChart ea n (s.src d).toNat).advance) s)

/-! ### The divider (SLL, R82, R83) -/

/-- Quotient and remainder of a width, signed or unsigned, with the fixed results for a zero divisor and for overflow. -/
def divide (w : Nat) (signed : Bool) (a b : Nat) : Nat × Nat :=
  if b = 0 then (2 ^ w - 1, a)
  else if signed then
    (wrapNat w ((asInt w a).tdiv (asInt w b)), wrapNat w ((asInt w a).tmod (asInt w b)))
  else (a / b, a % b)

/-- A division's result, sign-extended from its width. -/
def divWord (w : Nat) (signed rem : Bool) (a b : Word) : Word :=
  let r := divide w signed (a.toNat % 2 ^ w) (b.toNat % 2 ^ w)
  sextTo64 w (wordOf (if rem then r.2 else r.1))

/-- An operation enters the core's divider; its result is formed from the operands read at issue. -/
def issueDiv (bit : Nat) (srcs : List SReg) (d : SReg) (tk : Tok) (f : State → Word × FFlags) (s : State) : State :=
  issue (Need.bit bit) srcs [d] (fun s =>
    let r := f s
    s.post tk (some d) fun id s =>
      s.mapCore fun c => { c with divider := c.divider ++ [⟨s.cur.hid, s.hart.sup, tk, d, id, r.1, r.2⟩] }) s

/-- `div` (R82). -/
def execDiv (d a b : SReg) (tk : Tok) (s : State) : Out :=
  .next (issueDiv 1 [a, b] d tk (fun s => (divWord 64 true false (s.src a) (s.src b), 0)) s)
/-- `divu` (R82). -/
def execDivu (d a b : SReg) (tk : Tok) (s : State) : Out :=
  .next (issueDiv 1 [a, b] d tk (fun s => (divWord 64 false false (s.src a) (s.src b), 0)) s)
/-- `rem` (R82). -/
def execRem (d a b : SReg) (tk : Tok) (s : State) : Out :=
  .next (issueDiv 1 [a, b] d tk (fun s => (divWord 64 true true (s.src a) (s.src b), 0)) s)
/-- `remu` (R82). -/
def execRemu (d a b : SReg) (tk : Tok) (s : State) : Out :=
  .next (issueDiv 1 [a, b] d tk (fun s => (divWord 64 false true (s.src a) (s.src b), 0)) s)
/-- `divw` (R82). -/
def execDivw (d a b : SReg) (tk : Tok) (s : State) : Out :=
  .next (issueDiv 1 [a, b] d tk (fun s => (divWord 32 true false (s.src a) (s.src b), 0)) s)
/-- `divuw` (R82). -/
def execDivuw (d a b : SReg) (tk : Tok) (s : State) : Out :=
  .next (issueDiv 1 [a, b] d tk (fun s => (divWord 32 false false (s.src a) (s.src b), 0)) s)
/-- `remw` (R82). -/
def execRemw (d a b : SReg) (tk : Tok) (s : State) : Out :=
  .next (issueDiv 1 [a, b] d tk (fun s => (divWord 32 true true (s.src a) (s.src b), 0)) s)
/-- `remuw` (R82). -/
def execRemuw (d a b : SReg) (tk : Tok) (s : State) : Out :=
  .next (issueDiv 1 [a, b] d tk (fun s => (divWord 32 false true (s.src a) (s.src b), 0)) s)
/-- `isqrt` (R82). -/
def execIsqrt (d a : SReg) (tk : Tok) (s : State) : Out :=
  .next (issueDiv 1 [a] d tk (fun s => (wordOf (isqrt (s.src a).toNat), 0)) s)
/-- `fsqrt` (R82): rounded in FCR.RM, zero-extended, the only one that raises flags. -/
def execFsqrt (d a : SReg) (tk : Tok) (s : State) : Out :=
  .next (issueDiv 2 [a] d tk (fun s =>
    let r := fSqrt s.hart.fcr ((s.src a).toNat % 2 ^ 32)
    (wordOf r.1, r.2)) s)

/-- The divider's oldest operation completes (R22, R83): result, flags, increment. -/
def State.divComplete (s : State) : State :=
  match s.core.divider with
  | [] => s
  | o :: rest =>
    (s.mapCore fun c => { c with divider := rest }).modHart { s.cur with hid := o.hid } fun h =>
      let h := h.completeS o.id o.val
      { h with xst := h.xst ||| o.flags }.postEnd o.sup o.tok

end Sys2Proof.Machine
end

