-- ==== Sys2Proof/Machine/ScalarFp.lean ====
section
/-! DEFINITION. Scalar floating point (SFP, R84 to R89), control registers (SCR, R90 to R92), and timing and tokens (TIM,
R93, R24 to R26). -/
namespace Sys2Proof.Machine

/-! ### SFP -/

/-- The FP32 value of a scalar register (R84). -/
def State.f32 (s : State) (r : SReg) : Nat := (s.src r).toNat % 2 ^ 32

def outFp (r : Nat × FFlags) : Word × FFlags := (wordOf r.1, r.2)

/-- An arithmetic function of two sources, latency 4 (R85). -/
def fpArith (d a b : SReg) (f : Rm → Nat → Nat → Nat × FFlags) (s : State) : State :=
  issueFp (Need.bit 2) [a, b] d 4 (fun s => outFp (f s.hart.fcr (s.f32 a) (s.f32 b))) s

/-- A fused multiply-add, the NaN order A, B, D (R85). -/
def fpFused (d a b : SReg) (negA negD : Bool) (s : State) : State :=
  issueFp (Need.bit 2) [a, b, d] d 4 (fun s =>
    let x := if negA then negBits .f32 (s.f32 a) else s.f32 a
    let z := if negD then negBits .f32 (s.f32 d) else s.f32 d
    outFp (fFma .f32 s.hart.fcr x (s.f32 b) z [x, s.f32 b, z])) s

/-- A compare, minimum, maximum or sign function, latency 2 (R86). -/
def fpTest (d a b : SReg) (f : Nat → Nat → Nat × FFlags) (s : State) : State :=
  issueFp (Need.bit 2) [a, b] d 2 (fun s => outFp (f (s.f32 a) (s.f32 b))) s

/-- A conversion, latency 3 (R88). -/
def fpConv (d a : SReg) (f : Rm → Word → Nat × FFlags) (s : State) : State :=
  issueFp (Need.bit 2) [a] d 3 (fun s => outFp (f s.hart.fcr (s.src a))) s

/-- `fadd` (R85). -/
def execFadd (d a b : SReg) (s : State) : Out := .next (fpArith d a b (fun rm x y => fAdd .f32 rm x y) s)
/-- `fsub` (R85). -/
def execFsub (d a b : SReg) (s : State) : Out := .next (fpArith d a b (fun rm x y => fAdd .f32 rm x (negBits .f32 y)) s)
/-- `fmul` (R85). -/
def execFmul (d a b : SReg) (s : State) : Out := .next (fpArith d a b (fun rm x y => fMul .f32 rm x y) s)
/-- `fmadd` (R85): a × b + d. -/
def execFmadd (d a b : SReg) (s : State) : Out := .next (fpFused d a b false false s)
/-- `fmsub` (R85): a × b − d. -/
def execFmsub (d a b : SReg) (s : State) : Out := .next (fpFused d a b false true s)
/-- `fnmsub` (R85): −a × b + d. -/
def execFnmsub (d a b : SReg) (s : State) : Out := .next (fpFused d a b true false s)
/-- `feq` (R86). -/
def execFeq (d a b : SReg) (s : State) : Out := .next (fpTest d a b (fun x y => ((fEq .f32 x y).toNat, nvQuiet .f32 x y)) s)
/-- `flt` (R86). -/
def execFlt (d a b : SReg) (s : State) : Out := .next (fpTest d a b (fun x y => ((fLt .f32 x y).toNat, nvOrdered .f32 x y)) s)
/-- `fle` (R86). -/
def execFle (d a b : SReg) (s : State) : Out := .next (fpTest d a b (fun x y => ((fLe .f32 x y).toNat, nvOrdered .f32 x y)) s)
/-- `fmin` (R86). -/
def execFmin (d a b : SReg) (s : State) : Out := .next (fpTest d a b (fun x y => fMinMax .f32 false x y) s)
/-- `fmax` (R86). -/
def execFmax (d a b : SReg) (s : State) : Out := .next (fpTest d a b (fun x y => fMinMax .f32 true x y) s)
/-- `fsgnj` (R86). -/
def execFsgnj (d a b : SReg) (s : State) : Out := .next (fpTest d a b (fun x y => (withSign .f32 x (fSign .f32 y), 0)) s)
/-- `fsgnjn` (R86). -/
def execFsgnjn (d a b : SReg) (s : State) : Out := .next (fpTest d a b (fun x y => (withSign .f32 x (!fSign .f32 y), 0)) s)
/-- `fsgnjx` (R86). -/
def execFsgnjx (d a b : SReg) (s : State) : Out := .next (fpTest d a b (fun x y => (withSign .f32 x (fSign .f32 x != fSign .f32 y), 0)) s)
/-- `fclass` (R87). -/
def execFclass (d a : SReg) (s : State) : Out :=
  .next (issueFp (Need.bit 2) [a] d 2 (fun s => (wordOf (fClass .f32 (s.f32 a)), 0)) s)
/-- `cvtfs` (R88). -/
def execCvtfs (d a : SReg) (s : State) : Out := .next (fpConv d a (fun rm x => f32ToInt rm 64 true (x.toNat % 2 ^ 32)) s)
/-- `cvtfu` (R88). -/
def execCvtfu (d a : SReg) (s : State) : Out := .next (fpConv d a (fun rm x => f32ToInt rm 64 false (x.toNat % 2 ^ 32)) s)
/-- `cvtfsz` (R88). -/
def execCvtfsz (d a : SReg) (s : State) : Out := .next (fpConv d a (fun _ x => f32ToInt .rtz 64 true (x.toNat % 2 ^ 32)) s)
/-- `cvtfuz` (R88). -/
def execCvtfuz (d a : SReg) (s : State) : Out := .next (fpConv d a (fun _ x => f32ToInt .rtz 64 false (x.toNat % 2 ^ 32)) s)
/-- `cvtsf` (R88). -/
def execCvtsf (d a : SReg) (s : State) : Out := .next (fpConv d a (fun rm x => intToF .f32 rm x.toInt) s)
/-- `cvtuf` (R88). -/
def execCvtuf (d a : SReg) (s : State) : Out := .next (fpConv d a (fun rm x => intToF .f32 rm x.toNat) s)
/-- `cvtfh` (R88). -/
def execCvtfh (d a : SReg) (s : State) : Out := .next (fpConv d a (fun rm x => f32ToBf rm (x.toNat % 2 ^ 32)) s)
/-- `cvthf` (R88). -/
def execCvthf (d a : SReg) (s : State) : Out := .next (fpConv d a (fun _ x => (bfToF32 (x.toNat % 2 ^ 16), 0)) s)

/-! ### SCR -/

/-- The trap registers are privileged (R41). -/
def isTrapReg (c : CReg) : Bool :=
  match c with
  | .trpc => true
  | .trcause => true
  | .trfrom => true
  | .trlg _ => true
  | _ => false

/-- An SCR function (R91): the old value goes to s[D], readable two slots on; a write takes effect two slots on (R92). The
new value is formed from the register as it stands at issue. -/
def issueCreg (srcs : List SReg) (d : SReg) (c : CReg) (new : State → Word → Option Word) (s : State) : State :=
  issue { caps := [[0]], priv := isTrapReg c } srcs [d] (fun s =>
    let old := s.hart.creg c
    let s' := s.writeReg d old 2
    let r : State := match new s old with
      | some v => s'.mapHart fun h => { h with infl := h.infl ++ [{ dest := .creg c, val := v, ready := h.slot + 2, flags := 0 }] }
      | none => s'
    r.advance) s

/-- `crr` (R91). -/
def execCrr (d : SReg) (c : CReg) (s : State) : Out := .next (issueCreg [] d c (fun _ _ => none) s)
/-- `crw` (R91). -/
def execCrw (d : SReg) (c : CReg) (a : SReg) (s : State) : Out := .next (issueCreg [a] d c (fun s _ => some (s.src a)) s)
/-- `crset` (R91) (DEDUCED, log entry 11). -/
def execCrset (d : SReg) (c : CReg) (a : SReg) (s : State) : Out :=
  .next (issueCreg [a] d c (fun s old => some (old ||| s.src a)) s)
/-- `crclr` (R91) (DEDUCED, log entry 11). -/
def execCrclr (d : SReg) (c : CReg) (a : SReg) (s : State) : Out :=
  .next (issueCreg [a] d c (fun s old => some (old &&& ~~~(s.src a))) s)

/-! ### TIM -/

/-- n slots, which pass in the back end too as idle beats (R107); the helm core has no vector queue (R244)
(DEDUCED, log entry 32). -/
def issueIdle (n : Nat) (s : State) : State :=
  issue (Need.bit 0) [] [] (fun s =>
    if s.hart.hst.helm then ticks (n - 1) s.advance else s.enqueue (.idle n) [] none n) s

/-- `nop` (R93). -/
def execNop (s : State) : Out := .next (issueIdle 1 s)
/-- `dly n` (R93), CNT holding n − 1. -/
def execDly (cnt : Fin 64) (s : State) : Out := .next (issueIdle (cnt.val + 1) s)

/-- The threshold test of R24. -/
def Token.reached (t : Token) (threshold : BitVec 32) : Bool := decide (0 ≤ (t.cnt - threshold).toInt)

/-- The token a hart's mode names. -/
def Hart.tok (h : Hart) (t : Tok) : Token := h.token h.hst.mode t

/-- A slot of a `tkw` that waits against a threshold (R24). -/
def State.tkwSlot (s : State) (tk : Tok) (thr : BitVec 32) : State :=
  if (s.hart.tok tk).reached thr then (s.mapHart fun h => { h with hold := .none }).advance else s.hold

/-- `tkw` with a threshold (R24): every cycle it waits is a slot; s[A] is read once, at its issue (R93). -/
def execTkwThreshold (tk : Tok) (a : SReg) (s : State) : Out :=
  .next (issue (Need.bit 0) [a] [] (fun s =>
    let thr : BitVec 32 := (s.src a).setWidth 32
    if (s.hart.tok tk).reached thr then s.advance else (s.mapHart fun h => { h with hold := .tkw tk thr }).hold) s)
/-- `tkw` in its drain form (R24). -/
def execTkwDrain (tk : Tok) (s : State) : Out :=
  .next (issue (Need.bit 0) [] [] (fun s => if (s.hart.tok tk).out = 0 then s.advance else s.hold) s)
/-- `tkr` (R26). -/
def execTkr (d : SReg) (tk : Tok) (s : State) : Out :=
  .next (issueReg (Need.bit 0) [] d 1 (fun s => (s.hart.tok tk).cnt.setWidth 64) s)
/-- `tkc` (R26): operations outstanding keep running. -/
def execTkc (tk : Tok) (a : SReg) (s : State) : Out :=
  .next (issue (Need.bit 0) [a] [] (fun s =>
    (s.mapHart fun h => h.setToken h.hst.mode tk ⟨(s.src a).setWidth 32, (h.tok tk).out⟩).advance) s)

end Sys2Proof.Machine
end

