-- ==== Sys2Proof/Machine/Lanes.lean ====
section
/-! DEFINITION. The lanes of a core (R95, R299, R300, R314, R316): strip boundaries, the LNE functions (R308) and `vsetvl`
with `vcfg` (R132, R133). -/
namespace Sys2Proof.Machine

/-! ### Remapping (R300, R314) -/

/-- SPLIT as L codes it (R95, R299). -/
def splitOf (l : Nat) : Fin 4 := if 32 ≤ l then 0 else if 16 ≤ l then 1 else if 8 ≤ l then 2 else 3

/-- Elements below n of every aligned group of registers move from geometry `l` to geometry `l'`; all else reads zero. -/
def remapV (vcfg : BitVec 9) (l l' n : Nat) (v : VFile) : VFile :=
  let size := max 1 (g8Of vcfg / 8)
  let sew := sewOf vcfg
  (List.range (32 / size)).foldl (fun acc k =>
    (List.range n).foldl (fun acc i => vput acc l' sew (k * size) i (vget v l sew (k * size) i)) acc)
    (Vector.replicate 32 0)

/-- Element positions of a register group at a geometry, caps apart. -/
def groupCap (vcfg : BitVec 9) (l : Nat) : Nat := 256 / sewOf vcfg * l * max 1 (g8Of vcfg / 8)

/-- The registers with the mirror lanes as the main lanes, in protected mode (R314). -/
def Hart.mirrored (h : Hart) (l : Nat) (v : VFile) : VFile := if h.hst.prot then v.map (mirrorBits l) else v

/-- The state of a hart at n elements kept: registers moved, masks cut. -/
def Hart.remap (h : Hart) (l l' n : Nat) : Hart :=
  { h with
    v := h.mirrored l' (remapV h.vcfg l l' n h.v), m := h.m.map (· &&& lowMask n), fm := h.fm &&& lowMask n
    frags := h.frags.map fun f => { f with mask := f.mask &&& lowMask n, restore := f.restore &&& lowMask n } }

/-- A mask whose bits lie in lanes of geometry `l`, read in geometry 2 l with nothing in the upper lanes
(DEDUCED, log entry 25). -/
def widenMask (l : Nat) (m : MBits) : MBits :=
  (List.range (256 * l)).foldl (fun x j => if m.getLsbD j then mset x (j / l * (2 * l) + j % l) true else x) 0

/-- The lowest HID of the core that owns no lanes. -/
def State.freeHid (s : State) : Option Nat := (List.range 8).find? fun k => decide ((s.getHart { s.cur with hid := k }).lanes = 0)

/-- A pending reclaim takes effect (R299, R300): the upper half of the lanes becomes a free hart. -/
def State.reclaim (s : State) : State :=
  let h := s.hart
  if !h.reclPend then s
  else
    match s.freeHid with
    | none => s
    | some k =>
      let half := h.lanes / 2
      let l := h.leff
      let l' := l / 2
      let s := s.mapHart fun h =>
        { h.remap l l' (vlmaxOf l' h.vcfg h.vcap) with
          lanes := half, gave := k :: h.gave, reclPend := false, hst := { h.hst with split := splitOf half } }
      let new := { s.cur with hid := k }
      s.putHart new { Hart.reset new with
        lanes := half, lane0 := h.lane0 + half, hst := { (Hart.reset new).hst with split := splitOf half } }

/-- A pending return takes effect: the lanes of the free hart come back, and nothing is lost (R299)
(DEDUCED, log entry 29). -/
def State.takeBack (s : State) : State :=
  let h := s.hart
  if !h.givePend then s
  else
    match h.gave with
    | [] => s
    | k :: rest =>
      let l := h.leff
      let s := s.mapHart fun h =>
        { h with
          v := h.mirrored (2 * l) (remapV h.vcfg l (2 * l) (groupCap h.vcfg l) h.v), lanes := 2 * h.lanes, gave := rest, givePend := false
          hst := { h.hst with split := splitOf (2 * h.lanes) } }
      s.modHart { s.cur with hid := k } fun h => { h with lanes := 0, leaving := false }

/-- A pending change of protected mode takes effect (R314). Setting it remaps the elements below the new VLMAX and fills
the mirror lanes; clearing it leaves the main lanes as they are, and the mirror lanes read zero
(DEDUCED, log entry 25). -/
def State.mirrorChange (s : State) : State :=
  match s.hart.mirrorPend with
  | none => s
  | some true =>
    if s.hart.hst.prot then s.mapHart fun h => { h with mirrorPend := none }
    else
      s.mapHart fun h =>
        let l' := h.lanes / 2
        let h := h.remap h.lanes l' (vlmaxOf l' h.vcfg h.vcap)
        { h with v := h.v.map (mirrorBits l'), mirrorPend := none, hst := { h.hst with prot := true } }
  | some false =>
    if !s.hart.hst.prot then s.mapHart fun h => { h with mirrorPend := none }
    else
      s.mapHart fun h =>
        let l' := h.lanes / 2
        { h with
          v := h.v.map fun x => BitVec.ofNat 8192 (x.toNat % 2 ^ (256 * l')), m := h.m.map (widenMask l')
          mirrorPend := none, hst := { h.hst with prot := false } }

/-- A pending sparing of one of the hart's lanes takes effect (R316); SPARE of the capability table shows it (R318). -/
def State.spareNow (s : State) (lane : Nat) : State :=
  let a := capAddr s.cur.die s.cur.quad s.cur.core 3
  (s.mapCore fun c => { c with spare := some lane, sparePend := none }).mapMem fun m =>
    m.setWord a (wordOf (bitsOf (m.word a) 15 8 * 256 + 128 + lane % 32))

def State.spareHere (s : State) : State :=
  match s.core.sparePend with
  | some lane => if s.hart.ownsLane lane then s.spareNow lane else s
  | none => s

/-- Something waits for the hart's next strip boundary (R133). -/
def State.boundaryPending (s : State) : Bool :=
  s.hart.reclPend || s.hart.givePend || s.hart.mirrorPend.isSome || (s.core.sparePend.any s.hart.ownsLane)

/-- The queue has finished its beats and its posting instructions (R133). -/
def State.queueQuiet (s : State) : Bool :=
  s.hart.vq.isEmpty && decide (s.hart.beat ≤ s.hart.slot) && s.hart.merges.isEmpty && s.hart.vpend.all (fun p => decide (p.ready ≤ s.hart.slot)) &&
    (s.core.oldest .pipe s.cur.hid).isNone && (s.core.oldest .net s.cur.hid).isNone &&
    s.hart.bops.all fun b => b.ent.isNone

/-- The strip boundary of a `vsetvl` (R133). -/
def State.boundary (s : State) : State := s.reclaim.takeBack.mirrorChange.spareHere

/-! ### VCF (R132) -/

/-- `vsetvl`: pending changes of the lanes take effect first, once the queue is quiet. -/
def execVsetvl (d a : SReg) (s : State) : Out :=
  .next (issue (Need.vec 3) [a] [d] (fun s =>
    if s.boundaryPending && !s.queueQuiet then s.hold
    else
      let avl := (s.src a).toNat
      let s := if s.boundaryPending then s.boundary else s
      let vl := min avl s.hart.vlmax
      ((s.mapHart fun h => { h with vl := vl }).writeReg d (wordOf vl) 1).advance) s)

/-- `vcfg`: a reserved bit or code traps ILLEGAL (R98, R132). -/
def execVcfg (d a b : SReg) (s : State) : Out :=
  .next (issue (Need.vec 3) [a, b] [d] (fun s =>
    let x := s.src a
    let y := s.src b
    let vcfg : BitVec 9 := x.setWidth 9
    if bitsOf x 63 9 ≠ 0 ∨ bitsOf y 63 14 ≠ 0 ∨ vcfgOk vcfg = false then s.trapHere .illegal
    else
      let cap := bitsOf y 13 0
      let vl := min s.hart.vl (vlmaxOf s.hart.leff vcfg cap)
      ((s.mapHart fun h => { h with vcfg := vcfg, vcap := cap, vl := vl }).writeReg d (wordOf vl) 1).advance) s)

/-! ### LNE (R308) -/

/-- The statuses of R305. -/
def stOK : Word := 0
def stBUSY : Word := 1
def stINVAL : Word := 2

/-- A privileged function that answers a word: s[D] is readable in the next slot (R305), and further slots may be held (R355). -/
def issuePriv (n : Need) (srcs : List SReg) (d : SReg) (f : State → State × Word) (s : State) : State :=
  issue n srcs [d] (fun s => let r := f s; (r.1.writeReg d r.2 1).answered) s

/-- A hart of the issuing core. -/
def State.coreHart (s : State) (k : Nat) : Hart := s.getHart { s.cur with hid := k }

/-- Whether a reclaim of a hart is possible, a free HID apart (R299). -/
def Hart.reclaimable (h : Hart) : Bool :=
  h.hst.recl && !h.hst.helm && decide (if h.hst.prot then 16 ≤ h.lanes else 8 ≤ h.lanes)

/-- `lrecl`: marks a reclaim as pending. -/
def execLrecl (d a : SReg) (s : State) : Out :=
  .next (issuePriv Need.privileged [a] d (fun s =>
    let k := bitsOf (s.src a) 2 0
    let h := s.coreHart k
    if !h.reclaimable then (s, stINVAL)
    else if h.reclPend || s.freeHid.isNone then (s, stBUSY)
    else (s.modHart { s.cur with hid := k } fun h => { h with reclPend := true }, stOK)) s)

/-- A hart is free: it holds no context and no handler runs on it. -/
def Hart.idle (h : Hart) : Bool := h.ctx.isNone && !h.hst.mode

/-- A free hart on which nothing that a handler issued is still to complete: a task or a context can take its place (R22)
(DEDUCED, log entry 115). -/
def State.idleAt (s : State) (h : HartId) : Bool := (s.getHart h).idle && s.ownDone h

/-- `lgive`: marks the return of lanes as pending; nothing starts on their hart any more (DEDUCED, log entry 29). -/
def execLgive (d a : SReg) (s : State) : Out :=
  .next (issuePriv Need.privileged [a] d (fun s =>
    let k := bitsOf (s.src a) 2 0
    let h := s.coreHart k
    match h.gave with
    | [] => (s, stINVAL)
    | g :: _ =>
      let other := s.coreHart g
      if !s.idleAt { s.cur with hid := g } || decide (other.lanes ≠ h.lanes) then (s, stBUSY)
      else
        ((s.modHart { s.cur with hid := k } fun h => { h with givePend := true }).modHart { s.cur with hid := g } fun h =>
          { h with leaving := true }, stOK)) s)

/-- Whether some hart of the core owns a lane. -/
def State.laneOwner (s : State) (lane : Nat) : Option Nat := (List.range 8).find? fun k => (s.coreHart k).ownsLane lane

/-- `lspare`: a lane without an owner takes the spare at once (R316). -/
def execLspare (d a : SReg) (s : State) : Out :=
  .next (issuePriv Need.privileged [a] d (fun s =>
    let lane := bitsOf (s.src a) 4 0
    if s.core.spare.isSome || s.core.sparePend.isSome then (s, stBUSY)
    else if (s.laneOwner lane).isNone then (s.spareNow lane, stOK)
    else (s.mapCore fun c => { c with sparePend := some lane }, stOK)) s)

/-- `lmir`: protected mode changes at the hart's next `vsetvl`; it needs capability bit 23 in place of bit 0 (R39, R40). -/
def execLmir (d a : SReg) (s : State) : Out :=
  .next (issuePriv { caps := [[23]], priv := true } [a] d (fun s =>
    let k := bitsOf (s.src a) 2 0
    let on := bitOf (s.src a) 8
    if on && decide ((s.coreHart k).lanes ≤ 4) then (s, stINVAL)
    else (s.modHart { s.cur with hid := k } fun h => { h with mirrorPend := some on }, stOK)) s)

/-- A slice of the lane is lost and not all of its words have been written again, or a sounding found its storage at fault
(R315). -/
def Core.laneLost (c : Core) (lane : Nat) : Bool := (c.unwritten.any fun w => decide (w.1 = lane)) || c.faulty.getLsbD lane

/-- The status of a core lane (R308 `lstat`). -/
def State.laneStatus (s : State) (lane : Nat) : Word :=
  let owner := s.laneOwner lane
  let h := owner.map s.coreHart
  let mirror := h.any fun h => h.hst.prot && decide (h.lane0 + h.lanes / 2 ≤ lane)
  let free := match h with
    | some h => h.idle
    | none => true
  wordOf (128 * (decide (s.core.spare = some lane)).toNat + 64 * (s.core.laneLost lane).toNat + 32 * mirror.toNat
    + 4 * owner.getD 0 + 2 * free.toNat)

/-- `lstat`. -/
def execLstat (d a : SReg) (s : State) : Out :=
  .next (issuePriv Need.privileged [a] d (fun s => (s, s.laneStatus (bitsOf (s.src a) 4 0))) s)

end Sys2Proof.Machine
end

