-- ==== Sys2Proof/Machine/VecArith.lean ====
section
/-! DEFINITION. The arithmetic vector classes VIN, VFA, VFM, VCV and VCP (06_vector_arithmetic.md): every instruction
enters the queue; what its entry does is in VArith.lean. -/
namespace Sys2Proof.Machine

/-- A vector instruction of fixed latency whose B operand may be a scalar register. -/
def vecB (bit : Nat) (b : VSrc) (op : VOp) (s : State) : State := issueVector (Need.vec bit) (bRegs b) op none (fun _ => none) s

/-- A vector instruction of fixed latency without scalar operands. -/
def vec (bit : Nat) (op : VOp) (s : State) : State := issueVector (Need.vec bit) [] op none (fun _ => none) s

/-! ### VIN (R123) -/

/-- `vadd` (R123). -/
def execVadd (d : VReg) (a : VReg) (b : VSrc) (m : MSel) (s : State) : Out :=
  .next (vecB 3 b (.vin .add d a b m) s)
/-- `vsub` (R123). -/
def execVsub (d : VReg) (a : VReg) (b : VSrc) (m : MSel) (s : State) : Out :=
  .next (vecB 3 b (.vin .sub d a b m) s)
/-- `vrsub` (R123). -/
def execVrsub (d : VReg) (a : VReg) (b : VSrc) (m : MSel) (s : State) : Out :=
  .next (vecB 3 b (.vin .rsub d a b m) s)
/-- `vand` (R123). -/
def execVand (d : VReg) (a : VReg) (b : VSrc) (m : MSel) (s : State) : Out :=
  .next (vecB 3 b (.vin .and d a b m) s)
/-- `vor` (R123). -/
def execVor (d : VReg) (a : VReg) (b : VSrc) (m : MSel) (s : State) : Out :=
  .next (vecB 3 b (.vin .or d a b m) s)
/-- `vxor` (R123). -/
def execVxor (d : VReg) (a : VReg) (b : VSrc) (m : MSel) (s : State) : Out :=
  .next (vecB 3 b (.vin .xor d a b m) s)
/-- `vsll` (R123). -/
def execVsll (d : VReg) (a : VReg) (b : VSrc) (m : MSel) (s : State) : Out :=
  .next (vecB 3 b (.vin .sll d a b m) s)
/-- `vsrl` (R123). -/
def execVsrl (d : VReg) (a : VReg) (b : VSrc) (m : MSel) (s : State) : Out :=
  .next (vecB 3 b (.vin .srl d a b m) s)
/-- `vsra` (R123). -/
def execVsra (d : VReg) (a : VReg) (b : VSrc) (m : MSel) (s : State) : Out :=
  .next (vecB 3 b (.vin .sra d a b m) s)
/-- `vmul` (R123). -/
def execVmul (d : VReg) (a : VReg) (b : VSrc) (m : MSel) (s : State) : Out :=
  .next (vecB 3 b (.vin .mul d a b m) s)
/-- `vmulh` (R123). -/
def execVmulh (d : VReg) (a : VReg) (b : VSrc) (m : MSel) (s : State) : Out :=
  .next (vecB 3 b (.vin .mulh d a b m) s)
/-- `vmulhu` (R123). -/
def execVmulhu (d : VReg) (a : VReg) (b : VSrc) (m : MSel) (s : State) : Out :=
  .next (vecB 3 b (.vin .mulhu d a b m) s)
/-- `vmulhsu` (R123). -/
def execVmulhsu (d : VReg) (a : VReg) (b : VSrc) (m : MSel) (s : State) : Out :=
  .next (vecB 3 b (.vin .mulhsu d a b m) s)
/-- `vmacc` (R123). -/
def execVmacc (d : VReg) (a : VReg) (b : VSrc) (m : MSel) (s : State) : Out :=
  .next (vecB 3 b (.vin .macc d a b m) s)
/-- `vmin` (R123). -/
def execVmin (d : VReg) (a : VReg) (b : VSrc) (m : MSel) (s : State) : Out :=
  .next (vecB 3 b (.vin .min d a b m) s)
/-- `vmax` (R123). -/
def execVmax (d : VReg) (a : VReg) (b : VSrc) (m : MSel) (s : State) : Out :=
  .next (vecB 3 b (.vin .max d a b m) s)
/-- `vminu` (R123). -/
def execVminu (d : VReg) (a : VReg) (b : VSrc) (m : MSel) (s : State) : Out :=
  .next (vecB 3 b (.vin .minu d a b m) s)
/-- `vmaxu` (R123). -/
def execVmaxu (d : VReg) (a : VReg) (b : VSrc) (m : MSel) (s : State) : Out :=
  .next (vecB 3 b (.vin .maxu d a b m) s)
/-- `vsadd` (R123). -/
def execVsadd (d : VReg) (a : VReg) (b : VSrc) (m : MSel) (s : State) : Out :=
  .next (vecB 3 b (.vin .sadd d a b m) s)
/-- `vsaddu` (R123). -/
def execVsaddu (d : VReg) (a : VReg) (b : VSrc) (m : MSel) (s : State) : Out :=
  .next (vecB 3 b (.vin .saddu d a b m) s)
/-- `vssub` (R123). -/
def execVssub (d : VReg) (a : VReg) (b : VSrc) (m : MSel) (s : State) : Out :=
  .next (vecB 3 b (.vin .ssub d a b m) s)
/-- `vssubu` (R123). -/
def execVssubu (d : VReg) (a : VReg) (b : VSrc) (m : MSel) (s : State) : Out :=
  .next (vecB 3 b (.vin .ssubu d a b m) s)
/-- `vwadd` (R123). -/
def execVwadd (d : VReg) (a : VReg) (b : VSrc) (m : MSel) (s : State) : Out :=
  .next (vecB 3 b (.vin .wadd d a b m) s)
/-- `vwaddu` (R123). -/
def execVwaddu (d : VReg) (a : VReg) (b : VSrc) (m : MSel) (s : State) : Out :=
  .next (vecB 3 b (.vin .waddu d a b m) s)
/-- `vwsub` (R123). -/
def execVwsub (d : VReg) (a : VReg) (b : VSrc) (m : MSel) (s : State) : Out :=
  .next (vecB 3 b (.vin .wsub d a b m) s)
/-- `vwsubu` (R123). -/
def execVwsubu (d : VReg) (a : VReg) (b : VSrc) (m : MSel) (s : State) : Out :=
  .next (vecB 3 b (.vin .wsubu d a b m) s)
/-- `vwmul` (R123). -/
def execVwmul (d : VReg) (a : VReg) (b : VSrc) (m : MSel) (s : State) : Out :=
  .next (vecB 3 b (.vin .wmul d a b m) s)
/-- `vwmulu` (R123). -/
def execVwmulu (d : VReg) (a : VReg) (b : VSrc) (m : MSel) (s : State) : Out :=
  .next (vecB 3 b (.vin .wmulu d a b m) s)
/-- `vnsra` (R123). -/
def execVnsra (d : VReg) (a : VReg) (b : VSrc) (m : MSel) (s : State) : Out :=
  .next (vecB 3 b (.vin .nsra d a b m) s)
/-- `vnclip` (R123). -/
def execVnclip (d : VReg) (a : VReg) (b : VSrc) (m : MSel) (s : State) : Out :=
  .next (vecB 3 b (.vin .nclip d a b m) s)
/-- `vmv` (R123); A is not used. -/
def execVmv (d : VReg) (b : VSrc) (m : MSel) (s : State) : Out := .next (vecB 3 b (.vin .mv d 0 b m) s)

/-! ### VFA (R124, R125) -/

/-- `vfadd` (R124). -/
def execVfadd (d : VReg) (a : VReg) (b : VSrc) (m : MSel) (s : State) : Out :=
  .next (vecB 4 b (.vfa .add .f32 d a b m) s)
/-- `vfsub` (R124). -/
def execVfsub (d : VReg) (a : VReg) (b : VSrc) (m : MSel) (s : State) : Out :=
  .next (vecB 4 b (.vfa .sub .f32 d a b m) s)
/-- `vfrsub` (R124). -/
def execVfrsub (d : VReg) (a : VReg) (b : VSrc) (m : MSel) (s : State) : Out :=
  .next (vecB 4 b (.vfa .rsub .f32 d a b m) s)
/-- `vfmul` (R124). -/
def execVfmul (d : VReg) (a : VReg) (b : VSrc) (m : MSel) (s : State) : Out :=
  .next (vecB 5 b (.vfa .mul .f32 d a b m) s)
/-- `vfmin` (R124). -/
def execVfmin (d : VReg) (a : VReg) (b : VSrc) (m : MSel) (s : State) : Out :=
  .next (vecB 4 b (.vfa .min .f32 d a b m) s)
/-- `vfmax` (R124). -/
def execVfmax (d : VReg) (a : VReg) (b : VSrc) (m : MSel) (s : State) : Out :=
  .next (vecB 4 b (.vfa .max .f32 d a b m) s)
/-- `vfsgnj` (R124). -/
def execVfsgnj (d : VReg) (a : VReg) (b : VSrc) (m : MSel) (s : State) : Out :=
  .next (vecB 4 b (.vfa .sgnj .f32 d a b m) s)
/-- `vfsgnjn` (R124). -/
def execVfsgnjn (d : VReg) (a : VReg) (b : VSrc) (m : MSel) (s : State) : Out :=
  .next (vecB 4 b (.vfa .sgnjn .f32 d a b m) s)
/-- `vfsgnjx` (R124). -/
def execVfsgnjx (d : VReg) (a : VReg) (b : VSrc) (m : MSel) (s : State) : Out :=
  .next (vecB 4 b (.vfa .sgnjx .f32 d a b m) s)
/-- `vfclass` (R124). -/
def execVfclass (d : VReg) (a : VReg) (m : MSel) (s : State) : Out := .next (vec 4 (.vfclass .f32 d a m) s)
/-- `vfaddBf` (R124). -/
def execVfaddBf (d : VReg) (a : VReg) (b : VSrc) (m : MSel) (s : State) : Out :=
  .next (vecB 6 b (.vfa .add .bf16 d a b m) s)
/-- `vfsubBf` (R124). -/
def execVfsubBf (d : VReg) (a : VReg) (b : VSrc) (m : MSel) (s : State) : Out :=
  .next (vecB 6 b (.vfa .sub .bf16 d a b m) s)
/-- `vfrsubBf` (R124). -/
def execVfrsubBf (d : VReg) (a : VReg) (b : VSrc) (m : MSel) (s : State) : Out :=
  .next (vecB 6 b (.vfa .rsub .bf16 d a b m) s)
/-- `vfmulBf` (R124). -/
def execVfmulBf (d : VReg) (a : VReg) (b : VSrc) (m : MSel) (s : State) : Out :=
  .next (vecB 6 b (.vfa .mul .bf16 d a b m) s)
/-- `vfminBf` (R124). -/
def execVfminBf (d : VReg) (a : VReg) (b : VSrc) (m : MSel) (s : State) : Out :=
  .next (vecB 6 b (.vfa .min .bf16 d a b m) s)
/-- `vfmaxBf` (R124). -/
def execVfmaxBf (d : VReg) (a : VReg) (b : VSrc) (m : MSel) (s : State) : Out :=
  .next (vecB 6 b (.vfa .max .bf16 d a b m) s)
/-- `vfsgnjBf` (R124). -/
def execVfsgnjBf (d : VReg) (a : VReg) (b : VSrc) (m : MSel) (s : State) : Out :=
  .next (vecB 6 b (.vfa .sgnj .bf16 d a b m) s)
/-- `vfsgnjnBf` (R124). -/
def execVfsgnjnBf (d : VReg) (a : VReg) (b : VSrc) (m : MSel) (s : State) : Out :=
  .next (vecB 6 b (.vfa .sgnjn .bf16 d a b m) s)
/-- `vfsgnjxBf` (R124). -/
def execVfsgnjxBf (d : VReg) (a : VReg) (b : VSrc) (m : MSel) (s : State) : Out :=
  .next (vecB 6 b (.vfa .sgnjx .bf16 d a b m) s)
/-- `vfclassBf` (R124). -/
def execVfclassBf (d : VReg) (a : VReg) (m : MSel) (s : State) : Out := .next (vec 6 (.vfclass .bf16 d a m) s)
/-- `vfwaddBf` (R125). -/
def execVfwaddBf (d : VReg) (a : VReg) (b : VSrc) (m : MSel) (s : State) : Out :=
  .next (vecB 6 b (.vfw .add d a b m) s)
/-- `vfwsubBf` (R125). -/
def execVfwsubBf (d : VReg) (a : VReg) (b : VSrc) (m : MSel) (s : State) : Out :=
  .next (vecB 6 b (.vfw .sub d a b m) s)
/-- `vfwmulBf` (R125). -/
def execVfwmulBf (d : VReg) (a : VReg) (b : VSrc) (m : MSel) (s : State) : Out :=
  .next (vecB 6 b (.vfw .mul d a b m) s)
/-- `vfwaddWbf` (R125). -/
def execVfwaddWbf (d : VReg) (a : VReg) (b : VSrc) (m : MSel) (s : State) : Out :=
  .next (vecB 6 b (.vfw .addw d a b m) s)
/-- `vfwsubWbf` (R125). -/
def execVfwsubWbf (d : VReg) (a : VReg) (b : VSrc) (m : MSel) (s : State) : Out :=
  .next (vecB 6 b (.vfw .subw d a b m) s)

/-! ### VFM (R126) -/

/-- `vfmacc` (R126). -/
def execVfmacc (d : VReg) (a : VReg) (b : VSrc) (m : MSel) (s : State) : Out :=
  .next (vecB 5 b (.vfm .macc .f32 d a b m) s)
/-- `vfnmacc` (R126). -/
def execVfnmacc (d : VReg) (a : VReg) (b : VSrc) (m : MSel) (s : State) : Out :=
  .next (vecB 5 b (.vfm .nmacc .f32 d a b m) s)
/-- `vfmsac` (R126). -/
def execVfmsac (d : VReg) (a : VReg) (b : VSrc) (m : MSel) (s : State) : Out :=
  .next (vecB 5 b (.vfm .msac .f32 d a b m) s)
/-- `vfnmsac` (R126). -/
def execVfnmsac (d : VReg) (a : VReg) (b : VSrc) (m : MSel) (s : State) : Out :=
  .next (vecB 5 b (.vfm .nmsac .f32 d a b m) s)
/-- `vfmadd` (R126). -/
def execVfmadd (d : VReg) (a : VReg) (b : VSrc) (m : MSel) (s : State) : Out :=
  .next (vecB 5 b (.vfm .madd .f32 d a b m) s)
/-- `vfmaccBf` (R126). -/
def execVfmaccBf (d : VReg) (a : VReg) (b : VSrc) (m : MSel) (s : State) : Out :=
  .next (vecB 6 b (.vfm .macc .bf16 d a b m) s)
/-- `vfnmaccBf` (R126). -/
def execVfnmaccBf (d : VReg) (a : VReg) (b : VSrc) (m : MSel) (s : State) : Out :=
  .next (vecB 6 b (.vfm .nmacc .bf16 d a b m) s)
/-- `vfmsacBf` (R126). -/
def execVfmsacBf (d : VReg) (a : VReg) (b : VSrc) (m : MSel) (s : State) : Out :=
  .next (vecB 6 b (.vfm .msac .bf16 d a b m) s)
/-- `vfnmsacBf` (R126). -/
def execVfnmsacBf (d : VReg) (a : VReg) (b : VSrc) (m : MSel) (s : State) : Out :=
  .next (vecB 6 b (.vfm .nmsac .bf16 d a b m) s)
/-- `vfmaddBf` (R126). -/
def execVfmaddBf (d : VReg) (a : VReg) (b : VSrc) (m : MSel) (s : State) : Out :=
  .next (vecB 6 b (.vfm .madd .bf16 d a b m) s)
/-- `vfwmaccBf` (R126). -/
def execVfwmaccBf (d : VReg) (a : VReg) (b : VSrc) (m : MSel) (s : State) : Out :=
  .next (vecB 6 b (.vfm .macc .wide d a b m) s)
/-- `vfwnmaccBf` (R126). -/
def execVfwnmaccBf (d : VReg) (a : VReg) (b : VSrc) (m : MSel) (s : State) : Out :=
  .next (vecB 6 b (.vfm .nmacc .wide d a b m) s)
/-- `vfwmsacBf` (R126). -/
def execVfwmsacBf (d : VReg) (a : VReg) (b : VSrc) (m : MSel) (s : State) : Out :=
  .next (vecB 6 b (.vfm .msac .wide d a b m) s)
/-- `vfwnmsacBf` (R126). -/
def execVfwnmsacBf (d : VReg) (a : VReg) (b : VSrc) (m : MSel) (s : State) : Out :=
  .next (vecB 6 b (.vfm .nmsac .wide d a b m) s)

/-! ### VCV (R127) -/

/-- `vfcvtXF` (R127). -/
def execVfcvtXF (d : VReg) (a : VReg) (m : MSel) (s : State) : Out := .next (vec 7 (.vcv .xF d a m) s)
/-- `vfcvtXuF` (R127). -/
def execVfcvtXuF (d : VReg) (a : VReg) (m : MSel) (s : State) : Out := .next (vec 7 (.vcv .xuF d a m) s)
/-- `vfcvtRtzXF` (R127). -/
def execVfcvtRtzXF (d : VReg) (a : VReg) (m : MSel) (s : State) : Out := .next (vec 7 (.vcv .rtzXF d a m) s)
/-- `vfcvtRtzXuF` (R127). -/
def execVfcvtRtzXuF (d : VReg) (a : VReg) (m : MSel) (s : State) : Out := .next (vec 7 (.vcv .rtzXuF d a m) s)
/-- `vfcvtFX` (R127). -/
def execVfcvtFX (d : VReg) (a : VReg) (m : MSel) (s : State) : Out := .next (vec 7 (.vcv .fX d a m) s)
/-- `vfcvtFXu` (R127). -/
def execVfcvtFXu (d : VReg) (a : VReg) (m : MSel) (s : State) : Out := .next (vec 7 (.vcv .fXu d a m) s)
/-- `vfcvtXBf` (R127). -/
def execVfcvtXBf (d : VReg) (a : VReg) (m : MSel) (s : State) : Out := .next (vec 7 (.vcv .xBf d a m) s)
/-- `vfcvtBfX` (R127). -/
def execVfcvtBfX (d : VReg) (a : VReg) (m : MSel) (s : State) : Out := .next (vec 7 (.vcv .bfX d a m) s)
/-- `vfwcvtFBf` (R127). -/
def execVfwcvtFBf (d : VReg) (a : VReg) (m : MSel) (s : State) : Out := .next (vec 7 (.vcv .wFBf d a m) s)
/-- `vfwcvtXF` (R127). -/
def execVfwcvtXF (d : VReg) (a : VReg) (m : MSel) (s : State) : Out := .next (vec 7 (.vcv .wXF d a m) s)
/-- `vfwcvtFX` (R127). -/
def execVfwcvtFX (d : VReg) (a : VReg) (m : MSel) (s : State) : Out := .next (vec 7 (.vcv .wFX d a m) s)
/-- `vfncvtBfF` (R127). -/
def execVfncvtBfF (d : VReg) (a : VReg) (m : MSel) (s : State) : Out := .next (vec 7 (.vcv .nBfF d a m) s)
/-- `vfncvtXF` (R127). -/
def execVfncvtXF (d : VReg) (a : VReg) (m : MSel) (s : State) : Out := .next (vec 7 (.vcv .nXF d a m) s)
/-- `vfncvtXuF` (R127). -/
def execVfncvtXuF (d : VReg) (a : VReg) (m : MSel) (s : State) : Out := .next (vec 7 (.vcv .nXuF d a m) s)
/-- `vfncvtFX` (R127). -/
def execVfncvtFX (d : VReg) (a : VReg) (m : MSel) (s : State) : Out := .next (vec 7 (.vcv .nFX d a m) s)
/-- `vsext2` (R127). -/
def execVsext2 (d : VReg) (a : VReg) (m : MSel) (s : State) : Out := .next (vec 7 (.vcv .sext2 d a m) s)
/-- `vzext2` (R127). -/
def execVzext2 (d : VReg) (a : VReg) (m : MSel) (s : State) : Out := .next (vec 7 (.vcv .zext2 d a m) s)
/-- `vsext4` (R127). -/
def execVsext4 (d : VReg) (a : VReg) (m : MSel) (s : State) : Out := .next (vec 7 (.vcv .sext4 d a m) s)
/-- `vzext4` (R127). -/
def execVzext4 (d : VReg) (a : VReg) (m : MSel) (s : State) : Out := .next (vec 7 (.vcv .zext4 d a m) s)
/-- `vsext8` (R127). -/
def execVsext8 (d : VReg) (a : VReg) (m : MSel) (s : State) : Out := .next (vec 7 (.vcv .sext8 d a m) s)
/-- `vzext8` (R127). -/
def execVzext8 (d : VReg) (a : VReg) (m : MSel) (s : State) : Out := .next (vec 7 (.vcv .zext8 d a m) s)

/-! ### VCP (R128) -/

/-- `vmseq` (R128). -/
def execVmseq (d : MReg) (a : VReg) (b : VSrc) (m : MSel) (s : State) : Out :=
  .next (vecB 3 b (.vcpi .eq d a b m) s)
/-- `vmsne` (R128). -/
def execVmsne (d : MReg) (a : VReg) (b : VSrc) (m : MSel) (s : State) : Out :=
  .next (vecB 3 b (.vcpi .ne d a b m) s)
/-- `vmslt` (R128). -/
def execVmslt (d : MReg) (a : VReg) (b : VSrc) (m : MSel) (s : State) : Out :=
  .next (vecB 3 b (.vcpi .lt d a b m) s)
/-- `vmsltu` (R128). -/
def execVmsltu (d : MReg) (a : VReg) (b : VSrc) (m : MSel) (s : State) : Out :=
  .next (vecB 3 b (.vcpi .ltu d a b m) s)
/-- `vmsle` (R128). -/
def execVmsle (d : MReg) (a : VReg) (b : VSrc) (m : MSel) (s : State) : Out :=
  .next (vecB 3 b (.vcpi .le d a b m) s)
/-- `vmsleu` (R128). -/
def execVmsleu (d : MReg) (a : VReg) (b : VSrc) (m : MSel) (s : State) : Out :=
  .next (vecB 3 b (.vcpi .leu d a b m) s)
/-- `vmsgt` (R128). -/
def execVmsgt (d : MReg) (a : VReg) (b : VSrc) (m : MSel) (s : State) : Out :=
  .next (vecB 3 b (.vcpi .gt d a b m) s)
/-- `vmsgtu` (R128). -/
def execVmsgtu (d : MReg) (a : VReg) (b : VSrc) (m : MSel) (s : State) : Out :=
  .next (vecB 3 b (.vcpi .gtu d a b m) s)
/-- `vmfeq` (R128). -/
def execVmfeq (d : MReg) (a : VReg) (b : VSrc) (m : MSel) (s : State) : Out :=
  .next (vecB 4 b (.vcpf .eq .f32 d a b m) s)
/-- `vmfne` (R128). -/
def execVmfne (d : MReg) (a : VReg) (b : VSrc) (m : MSel) (s : State) : Out :=
  .next (vecB 4 b (.vcpf .ne .f32 d a b m) s)
/-- `vmflt` (R128). -/
def execVmflt (d : MReg) (a : VReg) (b : VSrc) (m : MSel) (s : State) : Out :=
  .next (vecB 4 b (.vcpf .lt .f32 d a b m) s)
/-- `vmfle` (R128). -/
def execVmfle (d : MReg) (a : VReg) (b : VSrc) (m : MSel) (s : State) : Out :=
  .next (vecB 4 b (.vcpf .le .f32 d a b m) s)
/-- `vmfgt` (R128). -/
def execVmfgt (d : MReg) (a : VReg) (b : VSrc) (m : MSel) (s : State) : Out :=
  .next (vecB 4 b (.vcpf .gt .f32 d a b m) s)
/-- `vmfge` (R128). -/
def execVmfge (d : MReg) (a : VReg) (b : VSrc) (m : MSel) (s : State) : Out :=
  .next (vecB 4 b (.vcpf .ge .f32 d a b m) s)
/-- `vmfeqBf` (R128). -/
def execVmfeqBf (d : MReg) (a : VReg) (b : VSrc) (m : MSel) (s : State) : Out :=
  .next (vecB 4 b (.vcpf .eq .bf16 d a b m) s)
/-- `vmfneBf` (R128). -/
def execVmfneBf (d : MReg) (a : VReg) (b : VSrc) (m : MSel) (s : State) : Out :=
  .next (vecB 4 b (.vcpf .ne .bf16 d a b m) s)
/-- `vmfltBf` (R128). -/
def execVmfltBf (d : MReg) (a : VReg) (b : VSrc) (m : MSel) (s : State) : Out :=
  .next (vecB 4 b (.vcpf .lt .bf16 d a b m) s)
/-- `vmfleBf` (R128). -/
def execVmfleBf (d : MReg) (a : VReg) (b : VSrc) (m : MSel) (s : State) : Out :=
  .next (vecB 4 b (.vcpf .le .bf16 d a b m) s)
/-- `vmfgtBf` (R128). -/
def execVmfgtBf (d : MReg) (a : VReg) (b : VSrc) (m : MSel) (s : State) : Out :=
  .next (vecB 4 b (.vcpf .gt .bf16 d a b m) s)
/-- `vmfgeBf` (R128). -/
def execVmfgeBf (d : MReg) (a : VReg) (b : VSrc) (m : MSel) (s : State) : Out :=
  .next (vecB 4 b (.vcpf .ge .bf16 d a b m) s)

end Sys2Proof.Machine
end

