-- ==== Sys2Proof/Machine/VecMove.lean ====
section
/-! DEFINITION. The classes of 07_vector_control_and_permute.md and the reductions: VMK, VPM, VRD, VSO, VCT, VCM and VTS.
Every instruction enters the queue; what its entry does is in VArith.lean, VMove.lean, VMem.lean and Queue.lean. -/
namespace Sys2Proof.Machine

/-- A posting vector instruction (R136). -/
def vecP (bit : Nat) (srcs : List SReg) (op : VOp) (tk : Tok) (s : State) : State :=
  issueVector (Need.vec bit) srcs op (some tk) (fun _ => none) s

/-! ### VMK (R134, R135) -/

/-- `vmand` (R134). -/
def execVmand (d a b : MReg) (m : MSel) (s : State) : Out := .next (vec 3 (.vmk2 .and d a b m) s)
/-- `vmor` (R134). -/
def execVmor (d a b : MReg) (m : MSel) (s : State) : Out := .next (vec 3 (.vmk2 .or d a b m) s)
/-- `vmxor` (R134). -/
def execVmxor (d a b : MReg) (m : MSel) (s : State) : Out := .next (vec 3 (.vmk2 .xor d a b m) s)
/-- `vmandn` (R134). -/
def execVmandn (d a b : MReg) (m : MSel) (s : State) : Out := .next (vec 3 (.vmk2 .andn d a b m) s)
/-- `vmorn` (R134). -/
def execVmorn (d a b : MReg) (m : MSel) (s : State) : Out := .next (vec 3 (.vmk2 .orn d a b m) s)
/-- `vmnand` (R134). -/
def execVmnand (d a b : MReg) (m : MSel) (s : State) : Out := .next (vec 3 (.vmk2 .nand d a b m) s)
/-- `vmnor` (R134). -/
def execVmnor (d a b : MReg) (m : MSel) (s : State) : Out := .next (vec 3 (.vmk2 .nor d a b m) s)
/-- `vmxnor` (R134). -/
def execVmxnor (d a b : MReg) (m : MSel) (s : State) : Out := .next (vec 3 (.vmk2 .xnor d a b m) s)
/-- `vmsbf` (R134). -/
def execVmsbf (d a : MReg) (m : MSel) (s : State) : Out := .next (vec 3 (.vmk1 .sbf d a m) s)
/-- `vmsif` (R134). -/
def execVmsif (d a : MReg) (m : MSel) (s : State) : Out := .next (vec 3 (.vmk1 .sif d a m) s)
/-- `vmsof` (R134). -/
def execVmsof (d a : MReg) (m : MSel) (s : State) : Out := .next (vec 3 (.vmk1 .sof d a m) s)
/-- `viota` (R134, R135). -/
def execViota (d : VReg) (a : MReg) (m : MSel) (s : State) : Out := .next (vec 3 (.viota d a m) s)
/-- `vmpopc` (R134, R135). -/
def execVmpopc (d : VReg) (a : MReg) (m : MSel) (s : State) : Out := .next (vec 3 (.vmpopc d a m) s)
/-- `vmfirst` (R134, R135). -/
def execVmfirst (d : VReg) (a : MReg) (m : MSel) (s : State) : Out := .next (vec 3 (.vmfirst d a m) s)
/-- `vid` (R134, R135). -/
def execVid (d : VReg) (m : MSel) (s : State) : Out := .next (vec 3 (.vid d m) s)

/-! ### VPM (R137, R138) -/

/-- `vrgather` (R137). -/
def execVrgather (d a b : VReg) (m : MSel) (tk : Tok) (s : State) : Out := .next (vecP 9 [] (.vgather d a b m) tk s)
/-- `vrgatherx` (R137). -/
def execVrgatherx (d a : VReg) (b : SReg) (m : MSel) (tk : Tok) (s : State) : Out :=
  .next (vecP 9 [b] (.vslide .gatherx d a m) tk s)
/-- `vslideup` (R137). -/
def execVslideup (d a : VReg) (b : SReg) (m : MSel) (tk : Tok) (s : State) : Out :=
  .next (vecP 9 [b] (.vslide .up d a m) tk s)
/-- `vslidedown` (R137). -/
def execVslidedown (d a : VReg) (b : SReg) (m : MSel) (tk : Tok) (s : State) : Out :=
  .next (vecP 9 [b] (.vslide .down d a m) tk s)
/-- `vslide1up` (R137). -/
def execVslide1up (d a : VReg) (b : SReg) (m : MSel) (tk : Tok) (s : State) : Out :=
  .next (vecP 9 [b] (.vslide .up1 d a m) tk s)
/-- `vslide1down` (R137). -/
def execVslide1down (d a : VReg) (b : SReg) (m : MSel) (tk : Tok) (s : State) : Out :=
  .next (vecP 9 [b] (.vslide .down1 d a m) tk s)
/-- `vcompress` (R138). -/
def execVcompress (d a : VReg) (b : MReg) (tk : Tok) (s : State) : Out := .next (vecP 9 [] (.vcompress d a b) tk s)
/-- `vmvxs` (R138). -/
def execVmvxs (d : SReg) (a : VReg) (b : SReg) (tk : Tok) (s : State) : Out := .next (vecP 9 [b] (.vmvxs d a) tk s)
/-- `vmvsx` (R138). -/
def execVmvsx (d : VReg) (a : SReg) (m : MSel) (tk : Tok) (s : State) : Out := .next (vecP 9 [a] (.vmvsx d m) tk s)
/-- `vrev` (R137). -/
def execVrev (d a : VReg) (m : MSel) (tk : Tok) (s : State) : Out := .next (vecP 9 [] (.vrev d a m) tk s)

/-! ### VRD (R129, R130) -/

/-- `vredo.fsum` (R129). -/
def execVredoFsum (d : SReg) (a : VReg) (b : SReg) (m : MSel) (tk : Tok) (s : State) : Out :=
  .next (vecP 8 [b] (.vred false .fsum d a m) tk s)
/-- `vredo.fmax` (R129). -/
def execVredoFmax (d : SReg) (a : VReg) (b : SReg) (m : MSel) (tk : Tok) (s : State) : Out :=
  .next (vecP 8 [b] (.vred false .fmax d a m) tk s)
/-- `vredo.fmin` (R129). -/
def execVredoFmin (d : SReg) (a : VReg) (b : SReg) (m : MSel) (tk : Tok) (s : State) : Out :=
  .next (vecP 8 [b] (.vred false .fmin d a m) tk s)
/-- `vredo.bfsum` (R129). -/
def execVredoBfsum (d : SReg) (a : VReg) (b : SReg) (m : MSel) (tk : Tok) (s : State) : Out :=
  .next (vecP 8 [b] (.vred false .bfsum d a m) tk s)
/-- `vredo.sum` (R129). -/
def execVredoSum (d : SReg) (a : VReg) (b : SReg) (m : MSel) (tk : Tok) (s : State) : Out :=
  .next (vecP 8 [b] (.vred false .sum d a m) tk s)
/-- `vredo.max` (R129). -/
def execVredoMax (d : SReg) (a : VReg) (b : SReg) (m : MSel) (tk : Tok) (s : State) : Out :=
  .next (vecP 8 [b] (.vred false .max d a m) tk s)
/-- `vredo.min` (R129). -/
def execVredoMin (d : SReg) (a : VReg) (b : SReg) (m : MSel) (tk : Tok) (s : State) : Out :=
  .next (vecP 8 [b] (.vred false .min d a m) tk s)
/-- `vredo.minu` (R129). -/
def execVredoMinu (d : SReg) (a : VReg) (b : SReg) (m : MSel) (tk : Tok) (s : State) : Out :=
  .next (vecP 8 [b] (.vred false .minu d a m) tk s)
/-- `vredt.fsum` (R129). -/
def execVredtFsum (d : SReg) (a : VReg) (b : SReg) (m : MSel) (tk : Tok) (s : State) : Out :=
  .next (vecP 8 [b] (.vred true .fsum d a m) tk s)
/-- `vredt.fmax` (R129). -/
def execVredtFmax (d : SReg) (a : VReg) (b : SReg) (m : MSel) (tk : Tok) (s : State) : Out :=
  .next (vecP 8 [b] (.vred true .fmax d a m) tk s)
/-- `vredt.fmin` (R129). -/
def execVredtFmin (d : SReg) (a : VReg) (b : SReg) (m : MSel) (tk : Tok) (s : State) : Out :=
  .next (vecP 8 [b] (.vred true .fmin d a m) tk s)
/-- `vredt.bfsum` (R129). -/
def execVredtBfsum (d : SReg) (a : VReg) (b : SReg) (m : MSel) (tk : Tok) (s : State) : Out :=
  .next (vecP 8 [b] (.vred true .bfsum d a m) tk s)
/-- `vredt.sum` (R129). -/
def execVredtSum (d : SReg) (a : VReg) (b : SReg) (m : MSel) (tk : Tok) (s : State) : Out :=
  .next (vecP 8 [b] (.vred true .sum d a m) tk s)
/-- `vredt.max` (R129). -/
def execVredtMax (d : SReg) (a : VReg) (b : SReg) (m : MSel) (tk : Tok) (s : State) : Out :=
  .next (vecP 8 [b] (.vred true .max d a m) tk s)
/-- `vredt.min` (R129). -/
def execVredtMin (d : SReg) (a : VReg) (b : SReg) (m : MSel) (tk : Tok) (s : State) : Out :=
  .next (vecP 8 [b] (.vred true .min d a m) tk s)
/-- `vredt.maxu` (R129). -/
def execVredtMaxu (d : SReg) (a : VReg) (b : SReg) (m : MSel) (tk : Tok) (s : State) : Out :=
  .next (vecP 8 [b] (.vred true .maxu d a m) tk s)

/-! ### VSO (R139 to R141) -/

/-- `vsortu` (R141). -/
def execVsortu (d a : VReg) (tk : Tok) (s : State) : Out := .next (vecP 10 [] (.vsort .u d a) tk s)
/-- `vsorts` (R141). -/
def execVsorts (d a : VReg) (tk : Tok) (s : State) : Out := .next (vecP 10 [] (.vsort .s d a) tk s)
/-- `vsortf` (R141). -/
def execVsortf (d a : VReg) (tk : Tok) (s : State) : Out := .next (vecP 10 [] (.vsort .f d a) tk s)
/-- `vsortkvu` (R141). -/
def execVsortkvu (d a : VReg) (tk : Tok) (s : State) : Out := .next (vecP 10 [] (.vsortkv .u d a) tk s)
/-- `vsortkvs` (R141). -/
def execVsortkvs (d a : VReg) (tk : Tok) (s : State) : Out := .next (vecP 10 [] (.vsortkv .s d a) tk s)
/-- `vsortkvf` (R141). -/
def execVsortkvf (d a : VReg) (tk : Tok) (s : State) : Out := .next (vecP 10 [] (.vsortkv .f d a) tk s)
/-- `vmergeu` (R141). -/
def execVmergeu (d a : VReg) (b : SReg) (tk : Tok) (s : State) : Out :=
  .next (vecP 10 [b] (.vmerge .u d a) tk s)
/-- `vmerges` (R141). -/
def execVmerges (d a : VReg) (b : SReg) (tk : Tok) (s : State) : Out :=
  .next (vecP 10 [b] (.vmerge .s d a) tk s)
/-- `vmergef` (R141). -/
def execVmergef (d a : VReg) (b : SReg) (tk : Tok) (s : State) : Out :=
  .next (vecP 10 [b] (.vmerge .f d a) tk s)
/-- `vtag` (R141). -/
def execVtag (d a : VReg) (b : SReg) (m : MSel) (tk : Tok) (s : State) : Out := .next (vecP 10 [b] (.vtag d a m) tk s)
/-- `vsegm` (R141). -/
def execVsegm (d : MReg) (a : VReg) (tk : Tok) (s : State) : Out := .next (vecP 10 [] (.vsegm d a) tk s)

/-! ### VCT (R110, R113 to R115, R143): the front holds until the back end answers -/

/-- `vbr`. -/
def execVbr (k : MReg) (off : BitVec 13) (s : State) : Out := .next (vec 3 (.vbr k off) s)
/-- `vjoin`. -/
def execVjoin (off : BitVec 13) (s : State) : Out := .next (vec 3 (.vjoin off) s)
/-- `vloop`. -/
def execVloop (a : VReg) (k : MReg) (off : BitVec 13) (s : State) : Out := .next (vec 3 (.vloop a k off) s)

/-! ### VCM (R144 to R147) -/

/-- `vldc` (R144). -/
def execVldc (d : VReg) (a : SReg) (m : MSel) (tk : Tok) (s : State) : Out :=
  .next (vecP 3 [a] (.vld .unit d m) tk s)
/-- `vldcs` (R144). -/
def execVldcs (d : VReg) (a b : SReg) (m : MSel) (tk : Tok) (s : State) : Out :=
  .next (vecP 3 [a, b] (.vld (.stride b) d m) tk s)
/-- `vldcx` (R144). -/
def execVldcx (d : VReg) (a : SReg) (b : VReg) (m : MSel) (tk : Tok) (s : State) : Out :=
  .next (vecP 3 [a] (.vld (.index b) d m) tk s)
/-- `vstc` (R144). -/
def execVstc (d : VReg) (a : SReg) (m : MSel) (tk : Tok) (s : State) : Out :=
  .next (vecP 3 [a] (.vst .unit d m) tk s)
/-- `vstcs` (R144). -/
def execVstcs (d : VReg) (a b : SReg) (m : MSel) (tk : Tok) (s : State) : Out :=
  .next (vecP 3 [a, b] (.vst (.stride b) d m) tk s)
/-- `vstcx` (R144). -/
def execVstcx (d : VReg) (a : SReg) (b : VReg) (m : MSel) (tk : Tok) (s : State) : Out :=
  .next (vecP 3 [a] (.vst (.index b) d m) tk s)
/-- A plane store with its checks at issue (R147). -/
def planeStore (bfp : Bool) (srcs : List SReg) (d : VReg) (m : MSel) (tk : Tok) (s : State) : State :=
  issueVector (Need.vec 3) srcs (.vstp bfp d m) (some tk)
    (fun s => if planeOk bfp (srcs.map s.src) s.hart.vl then none else some .illegal) s
/-- `vstp` (R147). -/
def execVstp (d : VReg) (a : SReg) (m : MSel) (tk : Tok) (s : State) : Out := .next (planeStore false [a] d m tk s)
/-- `vstpb` (R147). -/
def execVstpb (d : VReg) (a b : SReg) (m : MSel) (tk : Tok) (s : State) : Out := .next (planeStore true [a, b] d m tk s)

/-! ### VTS (R148) -/

/-- A tile-slice move with its checks at issue. -/
def tileSlice (f : VtsFn) (d : VReg) (a : Tile) (b : SReg) (m : MSel) (s : State) : State :=
  issueVector (Need.vec 3) [b] (.vts f d a m) none
    (fun s => if 64 < s.hart.vl ∨ 64 ≤ (s.src b).toNat then some .illegal else none) s

/-- `vtrdr` (R148). -/
def execVtrdr (d : VReg) (a : Tile) (b : SReg) (m : MSel) (s : State) : Out := .next (tileSlice .rdr d a b m s)
/-- `vtrdc` (R148). -/
def execVtrdc (d : VReg) (a : Tile) (b : SReg) (m : MSel) (s : State) : Out := .next (tileSlice .rdc d a b m s)
/-- `vtrdrz` (R148). -/
def execVtrdrz (d : VReg) (a : Tile) (b : SReg) (m : MSel) (s : State) : Out := .next (tileSlice .rdrz d a b m s)
/-- `vtrdcz` (R148). -/
def execVtrdcz (d : VReg) (a : Tile) (b : SReg) (m : MSel) (s : State) : Out := .next (tileSlice .rdcz d a b m s)
/-- `vtwrr` (R148). -/
def execVtwrr (d : VReg) (a : Tile) (b : SReg) (m : MSel) (s : State) : Out := .next (tileSlice .wrr d a b m s)
/-- `vtwrc` (R148). -/
def execVtwrc (d : VReg) (a : Tile) (b : SReg) (m : MSel) (s : State) : Out := .next (tileSlice .wrc d a b m s)

end Sys2Proof.Machine
end

