-- ==== Sys2Proof/Machine/MemInstr.lean ====
section
/-! DEFINITION. The instructions of 10_memory_instructions.md: RUN (R176, R177), PRT (R179, R180), VPT (R181), BCN (R189),
ATM (R192) and SYN (R194, R195). -/
namespace Sys2Proof.Machine

/-! ### RUN -/

/-- What a run-table instruction answers: a word for s[D], or a trap. -/
inductive Answer where
  | word (s : State) (w : Word)
  | trap (c : Cause)

/-- An instruction that holds issue until the run table answers (R176): s[D] is readable in the slot after. -/
def issueRun (n : Need) (srcs : List SReg) (d : SReg) (f : State → Answer) (s : State) : State :=
  issue n srcs [d] (fun s =>
    match f s with
    | .word s w => (s.writeReg d w 1).answered
    | .trap c => s.trapHere c) s

/-- `rmk`: a descriptor of the hart's own die; which FREE one it is is a free value (R176). The run is made under the hart's
translation context (DESIGN CHOICE, log entry 101). -/
def runMake (a cap : Word) (s : State) : Answer :=
  if !rmkOk a cap then .word s stINVAL
  else
    let d := s.cur.die
    match s.pkg.freeDesc d (Config.freeChoice s.fresh) with
    | none => .word s stBUSY
    | some i =>
      let r := (s.pkg.desc d i).create (bitsOf a 2 0) (rmkBase a) cap
      .word ((s.mapPkg fun p => (p.setDesc d i r).madeUnder d i s.hart.xlat).bump 1) (handleOf r.gen d i false)

/-- `rseal` by any holder of the handle (R160, R177). -/
def runSeal (h : Word) (s : State) : Answer :=
  match s.run h with
  | none => .trap .runfault
  | some r =>
    match r.state with
    | .alloc => .word (s.mapPkg fun p => p.setRun h r.seal) stOK
    | .opened => .word s stBUSY
    | _ => .word s stINVAL

/-- `rrel`; releasing a view takes one reader off its source (R160, R165, R174). -/
def runRelease (h : Word) (s : State) : Answer :=
  match s.run h with
  | none => .trap .runfault
  | some r =>
    if r.state = .opened ∨ r.rdrs ≠ 0 then .word s stBUSY
    else
      .word (s.mapPkg fun p =>
        let p := p.setRun h r.release
        if r.state = .view then p.setDesc (handleDie h) r.src (p.desc (handleDie h) r.src).dropReader else p) stOK

/-- `rview`: a descriptor on the source's die (R173, R176, R177). -/
def runView (h b : Word) (s : State) : Answer :=
  match s.run h with
  | none => .trap .runfault
  | some r =>
    if !rviewOk r b then .word s stINVAL
    else
      let d := handleDie h
      match (if r.rdrs = 511 then none else s.pkg.freeDesc d (Config.freeChoice s.fresh)) with
      | none => .word s stBUSY
      | some i =>
        let v := (s.pkg.desc d i).viewOf (handleIdx h) r b
        .word ((s.mapPkg fun p => ((p.setRun h r.addReader).setDesc d i v).madeUnder d i r.under).bump 1) (handleOf v.gen d i true)

/-- A word of a descriptor. -/
def runWord (h : Word) (f : RunD → Word) (s : State) : Answer :=
  match s.run h with
  | none => .trap .runfault
  | some r => .word s (f r)

/-- `rmk`. -/
def execRmk (d a b : SReg) (s : State) : Out :=
  .next (issueRun (Need.bit 0) [a, b] d (fun s => runMake (s.src a) (s.src b) s) s)
/-- `rseal`. -/
def execRseal (d a : SReg) (s : State) : Out := .next (issueRun (Need.bit 0) [a] d (fun s => runSeal (s.src a) s) s)
/-- `rrel`. -/
def execRrel (d a : SReg) (s : State) : Out := .next (issueRun (Need.bit 0) [a] d (fun s => runRelease (s.src a) s) s)
/-- `rmark`. -/
def execRmark (d a : SReg) (s : State) : Out :=
  .next (issueRun (Need.bit 0) [a] d (fun s => runWord (s.src a) RunD.mark s) s)
/-- `rhdr`. -/
def execRhdr (d a : SReg) (s : State) : Out :=
  .next (issueRun (Need.bit 0) [a] d (fun s => runWord (s.src a) RunD.header s) s)
/-- `rview`. -/
def execRview (d a b : SReg) (s : State) : Out :=
  .next (issueRun (Need.bit 19) [a, b] d (fun s => runView (s.src a) (s.src b) s) s)

/-! ### PRT -/

/-- The writer fields of a hart's port (R159). -/
def portWriter (h : HartId) (p : Nat) : Writer :=
  let helm := decide (h.core = 4)
  ⟨1, h.die, h.quad, if helm then 0 else h.core, if helm then 0 else h.hid, p, helm⟩

/-- An earlier transfer of the hart on a port has not completed (R179). -/
def State.portBusy (s : State) (p : Port) : Bool :=
  let on (x : VEntry) : Bool :=
    match x.op with
    | .vpt _ _ q _ _ => decide (q = p)
    | _ => false
  s.hart.vq.any on || s.core.pipe.any fun u => decide (u.hid = s.cur.hid) && on u.ent

/-- An instruction on a port: it waits for the earlier transfers on it, each cycle a slot. -/
def issuePort (srcs : List SReg) (d : SReg) (p : Port) (f : State → Answer) (s : State) : State :=
  issue (Need.bit 0) srcs [d] (fun s =>
    if s.portBusy p then s.hold
    else
      match f s with
      | .word s w => (s.writeReg d w 1).answered
      | .trap c => s.trapHere c) s

def portIx (n : Nat) : Port := ⟨n % 8, Nat.mod_lt _ (by decide)⟩
def State.setPort (s : State) (p : Port) (x : PortSt) : State := s.mapHart fun h => { h with ports := h.ports.set p x }

/-- `pbind`, in the order of the checks of R179. -/
def portBind (h l : Word) (s : State) : Answer :=
  let p := portIx (layoutPort l)
  match s.bindPort (s.xl s.hart.hst.mode) (portWriter s.cur p.val) s.hart.ports[p].bound h l with
  | (.inval, s) => .word s stINVAL
  | (.stale, _) => .trap .runfault
  | (.runend, _) => .trap .runend
  | (.busy, s) => .word s stBUSY
  | (.fail e, _) => .trap e.cause
  | (.ok x, s) => .word (s.setPort p x) stOK

/-- `punbind` and `pseal` of a bound port; a fill that fails traps and leaves the port bound (R179, R185). -/
def portClose (p : Port) (f : RunD → RunD) (s : State) : Answer :=
  match s.closePort (s.xl s.hart.hst.mode) s.hart.ports[p] f with
  | .error e => .trap e.cause
  | .ok s => .word (s.setPort p PortSt.unbound) stOK

/-- `pbind`. -/
def execPbind (d a b : SReg) (s : State) : Out :=
  .next (issueRun (Need.bit 0) [a, b] d (fun s => portBind (s.src a) (s.src b) s) s)
/-- `punbind`. -/
def execPunbind (d : SReg) (a : Port) (s : State) : Out :=
  .next (issuePort [] d a (fun s => if !s.hart.ports[a].bound then .word s stINVAL else portClose a RunD.unbindWrite s) s)
/-- `pseal`. -/
def execPseal (d : SReg) (a : Port) (s : State) : Out :=
  .next (issuePort [] d a (fun s =>
    if !s.hart.ports[a].bound || !s.hart.ports[a].write then .word s stINVAL else portClose a RunD.seal s) s)
/-- `pseek`: forward only, on a read port; END and BROKEN are cleared (R179, R180). -/
def execPseek (d : SReg) (a : Port) (b : SReg) (s : State) : Out :=
  .next (issuePort [b] d a (fun s =>
    let p := s.hart.ports[a]
    let n := (s.src b).toNat
    if !p.bound || p.write || decide (n < p.pos) then .word s stINVAL
    else .word (s.setPort a { p with pos := n, atEnd := false, broken := false }) stOK) s)
/-- `ppos`. -/
def execPpos (d : SReg) (a : Port) (s : State) : Out :=
  .next (issuePort [] d a (fun s => .word s (wordOf s.hart.ports[a].pos)) s)
/-- `pstat`. -/
def execPstat (d : SReg) (a : Port) (s : State) : Out :=
  .next (issuePort [] d a (fun s => .word s s.hart.ports[a].status) s)
/-- `phnd`. -/
def execPhnd (d : SReg) (a : Port) (s : State) : Out :=
  .next (issuePort [] d a (fun s => .word s s.hart.ports[a].handle) s)

/-! ### VPT (R181) -/

/-- The check of order 2: the port is bound in the transfer's direction, and its layout serves it. -/
def State.vptPortOk (s : State) (f : VptFn) (p : Port) : Bool :=
  let x := s.hart.ports[p]
  x.bound && decide (x.write = f.isWrite) &&
    (if f.isNarrow then decide (layoutNb x.layout ≠ 0 ∧ layoutStride x.layout = 0) else true) &&
    (match s.run x.handle with
     | none => false
     | some r => decide (layoutStride x.layout = 0 ∨ layoutOff x.layout + sewOf s.hart.vcfg / 8 ≤ r.w))

def VptFn.bit (f : VptFn) : Nat := if f.isNarrow then (if f.isWrite then 12 else 11) else 3

/-- A port transfer. -/
def vpt (f : VptFn) (d : VReg) (p : Port) (b : VReg) (m : MSel) (tk : Tok) (s : State) : State :=
  issueVector (Need.vec f.bit) [] (.vpt f d p b m) (some tk)
    (fun s => if s.vptPortOk f p then none else some .runfault) s

/-- `vprd`. -/
def execVprd (d : VReg) (a : Port) (m : MSel) (tk : Tok) (s : State) : Out := .next (vpt .rd d a 0 m tk s)
/-- `vprdff`. -/
def execVprdff (d : VReg) (a : Port) (m : MSel) (tk : Tok) (s : State) : Out := .next (vpt .rdff d a 0 m tk s)
/-- `vpwr`. -/
def execVpwr (d : VReg) (a : Port) (m : MSel) (tk : Tok) (s : State) : Out := .next (vpt .wr d a 0 m tk s)
/-- `vppeek`. -/
def execVppeek (d : VReg) (a : Port) (m : MSel) (tk : Tok) (s : State) : Out := .next (vpt .peek d a 0 m tk s)
/-- `vprdnF`. -/
def execVprdnF (d : VReg) (a : Port) (b : VReg) (tk : Tok) (s : State) : Out := .next (vpt .rdnF d a b 0 tk s)
/-- `vprdnBf`. -/
def execVprdnBf (d : VReg) (a : Port) (b : VReg) (tk : Tok) (s : State) : Out := .next (vpt .rdnBf d a b 0 tk s)
/-- `vprdnffF`. -/
def execVprdnffF (d : VReg) (a : Port) (b : VReg) (tk : Tok) (s : State) : Out := .next (vpt .rdnffF d a b 0 tk s)
/-- `vprdnffBf`. -/
def execVprdnffBf (d : VReg) (a : Port) (b : VReg) (tk : Tok) (s : State) : Out := .next (vpt .rdnffBf d a b 0 tk s)
/-- `vpwrnF`. -/
def execVpwrnF (d : VReg) (a : Port) (b : VReg) (tk : Tok) (s : State) : Out := .next (vpt .wrnF d a b 0 tk s)
/-- `vpwrnBf`. -/
def execVpwrnBf (d : VReg) (a : Port) (b : VReg) (tk : Tok) (s : State) : Out := .next (vpt .wrnBf d a b 0 tk s)
/-- `vprdnC`. -/
def execVprdnC (d : VReg) (a : Port) (tk : Tok) (s : State) : Out := .next (vpt .rdnC d a 0 0 tk s)
/-- `vprdnffC`. -/
def execVprdnffC (d : VReg) (a : Port) (tk : Tok) (s : State) : Out := .next (vpt .rdnffC d a 0 0 tk s)
/-- `vpwrnC`. -/
def execVpwrnC (d : VReg) (a : Port) (tk : Tok) (s : State) : Out := .next (vpt .wrnC d a 0 0 tk s)

/-! ### BCN (R188, R189) -/

/-- An issued scalar beacon access. -/
def State.scalarBop (s : State) (id : Nat) (k : BKind) (tok : Option Tok) (oc : OClass) (pa : Nat) (val cmp : Word) : BOp :=
  { id := id, kind := k, addr := s.hart.pc, tok := tok, sup := s.hart.sup, oc := oc, ticketed := false, started := true
    ent := none, elems := [⟨0, pa, val, cmp⟩], got := [] }

def State.addBop (s : State) (b : BOp) : State := s.mapHart fun h => { h with bops := h.bops ++ [b] }

/-- A scalar access to the beacons: the address checks, then the access takes its place in its class (R188, R190). A load or atomic
of a poisoned word traps POISON (R310) (DEDUCED, log entry 27). The increment of one that fails its address checks is made as
cancelled (R28, R188), and so is that of one that meets poison (DEDUCED, log entry 31). An atomic reads and writes, so it needs P
and W (DEDUCED, log entry 98). The mode that it is made in counts for U (DESIGN CHOICE, log entry 104). -/
def scalarBeacon (n : Need) (srcs : List SReg) (d : Option SReg) (a : SReg) (bytes : Nat) (write : Bool) (reads : Bool)
    (oc : OClass) (tok : Option Tok) (k : BKind) (val cmp : State → Word) (s : State) : State :=
  issue n srcs d.toList (fun s =>
    match s.beaconAddr (s.src a) bytes write reads with
    | none => s.trapPost .beacon tok
    | some pa =>
      if reads && s.beaconPoisoned pa then (s.countPoison .poison).trapPost .poison tok
      else
        let add (id : Nat) (x : State) : State := x.addBop (s.scalarBop id k tok oc pa (val s) (cmp s))
        match tok with
        | some tk => s.post tk d add
        | none => ((add (s.fresh + 64) s).bump 65).advance) s

/-- `bld`. -/
def execBld (d a : SReg) (oc : OClass) (tk : Tok) (s : State) : Out :=
  .next (scalarBeacon (Need.bit 0) [a] (some d) a 8 false true oc (some tk) (.load d) (fun _ => 0) (fun _ => 0) s)
/-- `bst`. -/
def execBst (d a : SReg) (oc : OClass) (s : State) : Out :=
  .next (scalarBeacon (Need.bit 0) [a, d] none a 8 true false oc none .store (fun s => s.src d) (fun _ => 0) s)
/-- `bstk`. -/
def execBstk (d a : SReg) (oc : OClass) (tk : Tok) (s : State) : Out :=
  .next (scalarBeacon (Need.bit 0) [a, d] none a 8 true false oc (some tk) .store (fun s => s.src d) (fun _ => 0) s)
/-- `vbld`. -/
def execVbld (d a : VReg) (oc : OClass) (tk : Tok) (s : State) : Out := .next (vecP 3 [] (.vbld false d a oc) tk s)
/-- `vbst`. -/
def execVbst (d a : VReg) (oc : OClass) (tk : Tok) (s : State) : Out := .next (vecP 3 [] (.vbst false d a oc) tk s)
/-- `bldsc` (R191); its class is 15. -/
def execBldsc (d a : VReg) (tk : Tok) (s : State) : Out := .next (vecP 3 [] (.vbld true d a 15) tk s)
/-- `bstsc` (R191). -/
def execBstsc (d a : VReg) (tk : Tok) (s : State) : Out := .next (vecP 3 [] (.vbst true d a 15) tk s)

/-! ### ATM (R192) -/

/-- `aadd`. -/
def execAadd (d a b : SReg) (oc : OClass) (tk : Tok) (s : State) : Out :=
  .next (scalarBeacon (Need.bit 20) [a, b] (some d) a 8 true true oc (some tk) (.atomic .add d) (fun s => s.src b)
    (fun _ => 0) s)
/-- `amax`. -/
def execAmax (d a b : SReg) (oc : OClass) (tk : Tok) (s : State) : Out :=
  .next (scalarBeacon (Need.bit 20) [a, b] (some d) a 8 true true oc (some tk) (.atomic .max d) (fun s => s.src b)
    (fun _ => 0) s)
/-- `amin`. -/
def execAmin (d a b : SReg) (oc : OClass) (tk : Tok) (s : State) : Out :=
  .next (scalarBeacon (Need.bit 20) [a, b] (some d) a 8 true true oc (some tk) (.atomic .min d) (fun s => s.src b)
    (fun _ => 0) s)
/-- `aswp`. -/
def execAswp (d a b : SReg) (oc : OClass) (tk : Tok) (s : State) : Out :=
  .next (scalarBeacon (Need.bit 20) [a, b] (some d) a 8 true true oc (some tk) (.atomic .swp d) (fun s => s.src b)
    (fun _ => 0) s)
/-- `acas`: D is a source, read at issue. -/
def execAcas (d a b : SReg) (oc : OClass) (tk : Tok) (s : State) : Out :=
  .next (scalarBeacon (Need.bit 20) [a, b, d] (some d) a 8 true true oc (some tk) (.atomic .cas d) (fun s => s.src b)
    (fun s => s.src d) s)
/-- `amaxe`. -/
def execAmaxe (d a b : SReg) (oc : OClass) (tk : Tok) (s : State) : Out :=
  .next (scalarBeacon (Need.bit 13) [a, b] (some d) a 1 true true oc (some tk) (.atomic .maxe d) (fun s => s.src b)
    (fun _ => 0) s)
/-- `amine`. -/
def execAmine (d a b : SReg) (oc : OClass) (tk : Tok) (s : State) : Out :=
  .next (scalarBeacon (Need.bit 13) [a, b] (some d) a 1 true true oc (some tk) (.atomic .mine d) (fun s => s.src b)
    (fun _ => 0) s)
/-- `vamaxe`. -/
def execVamaxe (d a b : VReg) (oc : OClass) (tk : Tok) (s : State) : Out :=
  .next (issueVector { caps := [[13], [3]], helm := some false } [] (.vamaxe d a b oc) (some tk) (fun _ => none) s)

/-! ### SYN -/

/-- `fenc` (R194): it takes its place among the hart's beacon accesses, and the front goes on. -/
def execFenc (a : SReg) (s : State) : Out :=
  .next (issue (Need.bit 0) [a] [] (fun s =>
    let m := s.src a
    if bitsOf m 63 18 ≠ 0 then s.trapHere .illegal
    else
      let id := s.fresh + 64
      let b : BOp := { id := id, kind := .fence (m.setWidth 18), addr := s.hart.pc, tok := none, sup := s.hart.sup, oc := 0
                       ticketed := false, started := true, ent := none, elems := [], got := [] }
      (((s.addBop b).pruneFences).bump 65).advance) s)
/-- `vwait` (R195). -/
def execVwait (d : MReg) (a : VReg) (b : SReg) (oc : OClass) (tk : Tok) (s : State) : Out :=
  .next (vecP 3 [b] (.vwait d a oc) tk s)

end Sys2Proof.Machine
end

