-- ==== Sys2Proof/Machine/EngineInstr.lean ====
section
/-! DEFINITION. The instructions of the copy channels (CPY, R231, R237) and of the Sorter (SRT, R212, R214, R215). -/
namespace Sys2Proof.Machine

/-! ### CPY -/

def Need.copy : Need := { caps := [[18]], helm := some false }

/-- Register k of an operand quartet (R231). -/
def quartetReg (q : Quartet) (k : Nat) : SReg := ⟨(4 * (q.val + 1) + k) % 32, Nat.mod_lt _ (by decide)⟩
def quartetRegs (q : Quartet) : List SReg := [quartetReg q 0, quartetReg q 1, quartetReg q 2, quartetReg q 3]

/-- A copy command: at issue VL is at most 8 (R233 order 1). -/
def copyCommand (f : CpyFn) (d : Chan) (a : VReg) (b : Quartet) (tk : Tok) (s : State) : State :=
  issueVector Need.copy (quartetRegs b) (.copy f d a) (some tk)
    (fun s => if 8 < s.hart.vl then some .illegal else none) s

/-- A control function of a channel. -/
def copyFunction (f : CpcFn) (srcs : List SReg) (d : SReg) (a : Chan) (tk : Tok) (s : State) : State :=
  issueVector Need.copy srcs (.cpctl f d a) (some tk) (fun _ => none) s

/-- `cprr`. -/
def execCprr (d : Chan) (a : VReg) (b : Quartet) (tk : Tok) (s : State) : Out := .next (copyCommand .rr d a b tk s)
/-- `cprc`. -/
def execCprc (d : Chan) (a : VReg) (b : Quartet) (tk : Tok) (s : State) : Out := .next (copyCommand .rc d a b tk s)
/-- `cprp`. -/
def execCprp (d : Chan) (a : VReg) (b : Quartet) (tk : Tok) (s : State) : Out := .next (copyCommand .rp d a b tk s)
/-- `cpmark`. -/
def execCpmark (d : SReg) (a : Chan) (tk : Tok) (s : State) : Out := .next (copyFunction .mark [] d a tk s)
/-- `cpseq`. -/
def execCpseq (d : SReg) (a : Chan) (tk : Tok) (s : State) : Out := .next (copyFunction .seq [] d a tk s)
/-- `cpstat`. -/
def execCpstat (d : SReg) (a : Chan) (b : SReg) (tk : Tok) (s : State) : Out := .next (copyFunction .stat [b] d a tk s)
/-- `cpretry`. -/
def execCpretry (d : SReg) (a : Chan) (tk : Tok) (s : State) : Out := .next (copyFunction .retry [] d a tk s)
/-- `cpabort`. -/
def execCpabort (d : SReg) (a : Chan) (tk : Tok) (s : State) : Out := .next (copyFunction .abort [] d a tk s)

/-! ### SRT -/

/-- A list command: VL and the control word are checked at issue (R215 order 1). -/
def listCommand (f : SrtFn) (d : SReg) (a : VReg) (b : SReg) (tk : Tok) (s : State) : State :=
  issueVector (Need.vec 17) [b] (.srt f d a) (some tk)
    (fun s => if f.vlOk s.hart.vl && ctlOk f (s.src b) then none else some .illegal) s

/-- The owner of an operation that the front hands to a unit of itself (R244). -/
def State.ownerHere (s : State) (id : Nat) (tk : Tok) : Owner :=
  { seq := id, hart := s.cur, ctx := (s.hart.ctx.map (·.id)).getD 0, sup := s.hart.sup, tok := tk, addr := s.hart.pc
    scope := (s.hart.ctx.map (·.scope)).getD 0 }

/-- `sprog` and `sabort`: through the queue, on the helm core straight to the Sorter (R214). -/
def sorterFunction (srcs : List SReg) (op : VOp) (d : SReg) (tk : Tok) (act : State → Owner → State → State) (s : State) : State :=
  if s.hart.hst.helm then
    issue (Need.bit 17) srcs [d] (fun s => s.post tk (some d) (fun id x => act s (s.ownerHere id tk) x)) s
  else issueVector (Need.bit 17) srcs op (some tk) (fun _ => none) s

/-- `ssort`. -/
def execSsort (d : SReg) (a : VReg) (b : SReg) (tk : Tok) (s : State) : Out := .next (listCommand .sort d a b tk s)
/-- `smerge`. -/
def execSmerge (d : SReg) (a : VReg) (b : SReg) (tk : Tok) (s : State) : Out := .next (listCommand .merge d a b tk s)
/-- `sjoin`. -/
def execSjoin (d : SReg) (a : VReg) (b : SReg) (tk : Tok) (s : State) : Out := .next (listCommand .join d a b tk s)
/-- `stag`. -/
def execStag (d : SReg) (a : VReg) (b : SReg) (tk : Tok) (s : State) : Out := .next (listCommand .tag d a b tk s)
/-- `sprog` (R224). -/
def execSprog (d a b : SReg) (tk : Tok) (s : State) : Out :=
  .next (sorterFunction [a, b] (.sprog d) d tk
    (fun s o x => x.postLate o (some (s.sorterCounter (s.src a) (s.src b)))) s)
/-- `sabort` (R225). -/
def execSabort (d a : SReg) (tk : Tok) (s : State) : Out :=
  .next (sorterFunction [a] (.sabort d) d tk (fun s o x => x.sorterAbort o (s.src a)) s)

end Sys2Proof.Machine
end

