-- ==== Sys2Proof/Machine/MatrixInstr.lean ====
section
/-! DEFINITION. The instructions of the helm core's matrix array: MCF (R248) and MOP (R251), with the capability bits that
the formats ask for (R40). -/
namespace Sys2Proof.Machine

/-! ### Capability bits (R40) -/

/-- The bit a format asks for; none outside the table of R40. -/
def fmtBits (n : Nat) : List Nat :=
  if n = 8 then [14] else if fmtBfp n = 0 then [] else if fmtBfp n ≤ 4 then [15] else [16]

/-- The lists of which one bit each is needed, for two formats (DEDUCED, log entry 82). -/
def pairBits (af bf : Nat) : List (List Nat) :=
  match fmtBits af ++ fmtBits bf with
  | [] => [[14, 15, 16]]
  | bs => bs.map fun k => [k]

/-- What an MCF or MOP instruction needs besides `mcfg`: the bits of the configuration in force
(DEDUCED, log entry 82). -/
def State.matrixNeed (s : State) : Need :=
  { caps := if s.quad.mxcV then pairBits s.quad.afmt.toNat s.quad.bfmt.toNat else [[14, 15, 16]], helm := some true }

/-! ### MCF -/

/-- MXC as a word (R245). -/
def Quad.mxc (q : Quad) : Word := wordOf (q.mxcV.toNat * 2 ^ 15 + q.bfmt.toNat * 2 ^ 8 + q.afmt.toNat)

/-- A result in flight for a matrix register. -/
def State.inflight (s : State) (x : Infl) : State := s.mapHart fun h => { h with infl := h.infl ++ [x] }

/-- `mcfg` (DEDUCED, log entry 82). -/
def execMcfg (d a b : SReg) (s : State) : Out :=
  .next (issue { caps := pairBits (bitsOf (s.src a) 4 0) (bitsOf (s.src b) 4 0), helm := some true } [a, b] [d] (fun s =>
    let x := s.src a
    let y := s.src b
    let af := bitsOf x 4 0
    let bf := bitsOf y 4 0
    if bitsOf x 63 5 ≠ 0 ∨ bitsOf y 63 5 ≠ 0 ∨ fmtReserved af ∨ fmtReserved bf then s.trapHere .illegal
    else if !fmtPair af bf then s.trapHere .combo
    else
      ((s.writeReg d s.quad.mxc 2).inflight ⟨.mxc, wordOf (2 ^ 15 + bf * 2 ^ 8 + af), s.hart.slot + 2, 0⟩).advance) s)

/-- `msetl`. -/
def execMsetl (d a b : SReg) (s : State) : Out :=
  .next (issue s.matrixNeed [d, a, b] [d, a, b] (fun s =>
    if d = a ∨ d = b ∨ a = b then s.trapHere .illegal
    else
      let m := min (s.src d).toNat 64
      let n := min (s.src a).toNat 64
      let k := min (s.src b).toNat 2048
      ((((s.writeReg d (wordOf m) 2).writeReg a (wordOf n) 2).writeReg b (wordOf k) 2).inflight
        ⟨.mdim, wordOf (k * 2 ^ 16 + n * 2 ^ 8 + m), s.hart.slot + 2, 0⟩).advance) s)

/-- Tiles enabled: those newly enabled become +0 (DESIGN CHOICE, log entry 89). -/
def Quad.enable (q : Quad) (mask : BitVec 8) : Quad :=
  { (List.range 8).foldl (fun q t => if mask.getLsbD t && !q.ten.getLsbD t then q.zeroTile t else q) q with
    ten := q.ten ||| mask }

/-- `men`; its hold for the zeroing is variable (R355) (DESIGN CHOICE, log entry 89). -/
def execMen (d a : SReg) (s : State) : Out :=
  .next (issue s.matrixNeed [a] [d] (fun s =>
    let x := s.src a
    if bitsOf x 63 8 ≠ 0 then s.trapHere .illegal
    else ((s.mapQuad fun q => q.enable (x.setWidth 8)).writeReg d (s.quad.ten.setWidth 64) 1).answered) s)

/-- `mdis`: issue is held while an operation in flight names a tile it disables. -/
def execMdis (d a : SReg) (s : State) : Out :=
  .next (issue s.matrixNeed [a] [d] (fun s =>
    let x := s.src a
    let mask : BitVec 8 := x.setWidth 8
    if bitsOf x 63 8 ≠ 0 then s.trapHere .illegal
    else if s.quad.mopUses (mask &&& s.quad.ten) then s.hold
    else ((s.mapQuad fun q => { q with ten := q.ten &&& ~~~mask }).writeReg d (s.quad.ten.setWidth 64) 1).advance) s)

/-! ### MOP -/

/-- The odd register of a pair. -/
def pairReg (r : SReg) : SReg := ⟨(r.val + 1) % 32, Nat.mod_lt _ (by decide)⟩

/-- Operations the array holds at most (R253). -/
def arrayEntries : Nat := 8

/-- The checks 2 to 4 of R251. -/
def State.mopCheck (s : State) (f : MopFn) (t : Tile) (ds : List Word) : Option Cause :=
  let q := s.quad
  if decide (f ≠ .mzero) && !q.mxcV then some .combo
  else if !q.ten.getLsbD t.val then some .tileoff
  else
    match f, ds with
    | .mzero, _ => none
    | _, [a, sa, b, sb] =>
      if mmaDescsOk q.afmt.toNat q.bfmt.toNat q.mg q.ng q.kg a sa b sb then none else some .illegal
    | _, _ => none

/-- An operation joins the array with what it captured (R248, R253). -/
def State.arrayPut (s : State) (f : MopFn) (t : Tile) (o : Owner) (ds : List Word) : State :=
  let q := s.quad
  let at' (k : Nat) : Word := (ds[k]?).getD 0
  s.mapQuad fun q' => { q' with mops := q'.mops ++
    [{ f := f, tile := t, owner := o, afmt := q.afmt.toNat, bfmt := q.bfmt.toNat, mg := q.mg, ng := q.ng, kg := q.kg
       descA := at' 0, scaleA := at' 1, descB := at' 2, scaleB := at' 3, state := .queued, counted := false }] }

/-- The registers an operand pair reads: the scale descriptor only of a BFP operand (R250). -/
def descRegs (fmt : BitVec 5) (a : SReg) : List SReg := if fmt.toNat = 8 then [a] else [a, pairReg a]

/-- The two descriptors of an operand; a scale descriptor that is not read counts as zero. -/
def State.descWords (s : State) (fmt : BitVec 5) (a : SReg) : List Word :=
  [s.src a, if fmt.toNat = 8 then 0 else s.src (pairReg a)]

/-- A matrix operation: while the array is full the front holds. -/
def matrixOp (f : MopFn) (t : Tile) (ok : Bool) (srcs : List SReg) (ds : State → List Word) (tk : Tok) (s : State) : State :=
  issue s.matrixNeed srcs [] (fun s =>
    let ds := ds s
    if !ok then s.trapHere .illegal
    else
      match s.mopCheck f t ds with
      | some c => s.trapHere c
      | none =>
        if arrayEntries ≤ s.quad.mops.length then s.hold
        else s.post tk none (fun id x => x.arrayPut f t (s.ownerHere id tk) ds)) s

/-- A and B name register pairs (R251 order 1). -/
def pairsOk (a b : SReg) : Bool := decide (a.val % 2 = 0 ∧ a ≠ 0 ∧ b.val % 2 = 0 ∧ b ≠ 0)

/-- `mma`. -/
def execMma (d : Tile) (a b : SReg) (tk : Tok) (s : State) : Out :=
  .next (matrixOp .mma d (pairsOk a b) (descRegs s.quad.afmt a ++ descRegs s.quad.bfmt b)
    (fun s => s.descWords s.quad.afmt a ++ s.descWords s.quad.bfmt b) tk s)
/-- `mmaz`. -/
def execMmaz (d : Tile) (a b : SReg) (tk : Tok) (s : State) : Out :=
  .next (matrixOp .mmaz d (pairsOk a b) (descRegs s.quad.afmt a ++ descRegs s.quad.bfmt b)
    (fun s => s.descWords s.quad.afmt a ++ s.descWords s.quad.bfmt b) tk s)
/-- `mzero`. -/
def execMzero (d : Tile) (tk : Tok) (s : State) : Out := .next (matrixOp .mzero d true [] (fun _ => []) tk s)

end Sys2Proof.Machine
end

