-- ==== Sys2Proof/Machine/QueueWords.lean ====
section
/-! DEFINITION. What a queue entry's word stands for when a context is restored from its save area (R302): the same
encoding tables as the decoder's, read into a queue entry and its token. -/
namespace Sys2Proof.Machine

/-- Class VIN. -/
def entryVin (w : Nat) : Option VOp :=
  match fld w 0 6 with
  | 0x0 => (vsrc3 w).map fun b => .vin .add (reg5 w 19) (reg5 w 14) b (reg3 w 6)
  | 0x1 => (vsrc3 w).map fun b => .vin .sub (reg5 w 19) (reg5 w 14) b (reg3 w 6)
  | 0x2 => (vsrc3 w).map fun b => .vin .rsub (reg5 w 19) (reg5 w 14) b (reg3 w 6)
  | 0x3 => (vsrc3 w).map fun b => .vin .and (reg5 w 19) (reg5 w 14) b (reg3 w 6)
  | 0x4 => (vsrc3 w).map fun b => .vin .or (reg5 w 19) (reg5 w 14) b (reg3 w 6)
  | 0x5 => (vsrc3 w).map fun b => .vin .xor (reg5 w 19) (reg5 w 14) b (reg3 w 6)
  | 0x6 => (vsrc3 w).map fun b => .vin .sll (reg5 w 19) (reg5 w 14) b (reg3 w 6)
  | 0x7 => (vsrc3 w).map fun b => .vin .srl (reg5 w 19) (reg5 w 14) b (reg3 w 6)
  | 0x8 => (vsrc3 w).map fun b => .vin .sra (reg5 w 19) (reg5 w 14) b (reg3 w 6)
  | 0x9 => if fld w 14 5 = 0 then (vsrc3 w).map fun b => .vin .mv (reg5 w 19) 0 b (reg3 w 6) else none
  | 0x10 => (vsrc2 w).map fun b => .vin .mul (reg5 w 19) (reg5 w 14) b (reg3 w 6)
  | 0x11 => (vsrc2 w).map fun b => .vin .mulh (reg5 w 19) (reg5 w 14) b (reg3 w 6)
  | 0x12 => (vsrc2 w).map fun b => .vin .mulhu (reg5 w 19) (reg5 w 14) b (reg3 w 6)
  | 0x13 => (vsrc2 w).map fun b => .vin .mulhsu (reg5 w 19) (reg5 w 14) b (reg3 w 6)
  | 0x14 => (vsrc2 w).map fun b => .vin .macc (reg5 w 19) (reg5 w 14) b (reg3 w 6)
  | 0x18 => (vsrc3 w).map fun b => .vin .min (reg5 w 19) (reg5 w 14) b (reg3 w 6)
  | 0x19 => (vsrc3 w).map fun b => .vin .max (reg5 w 19) (reg5 w 14) b (reg3 w 6)
  | 0x1a => (vsrc3 w).map fun b => .vin .minu (reg5 w 19) (reg5 w 14) b (reg3 w 6)
  | 0x1b => (vsrc3 w).map fun b => .vin .maxu (reg5 w 19) (reg5 w 14) b (reg3 w 6)
  | 0x1c => (vsrc3 w).map fun b => .vin .sadd (reg5 w 19) (reg5 w 14) b (reg3 w 6)
  | 0x1d => (vsrc3 w).map fun b => .vin .saddu (reg5 w 19) (reg5 w 14) b (reg3 w 6)
  | 0x1e => (vsrc3 w).map fun b => .vin .ssub (reg5 w 19) (reg5 w 14) b (reg3 w 6)
  | 0x1f => (vsrc3 w).map fun b => .vin .ssubu (reg5 w 19) (reg5 w 14) b (reg3 w 6)
  | 0x20 => (vsrc2 w).map fun b => .vin .wadd (reg5 w 19) (reg5 w 14) b (reg3 w 6)
  | 0x21 => (vsrc2 w).map fun b => .vin .waddu (reg5 w 19) (reg5 w 14) b (reg3 w 6)
  | 0x22 => (vsrc2 w).map fun b => .vin .wsub (reg5 w 19) (reg5 w 14) b (reg3 w 6)
  | 0x23 => (vsrc2 w).map fun b => .vin .wsubu (reg5 w 19) (reg5 w 14) b (reg3 w 6)
  | 0x24 => (vsrc2 w).map fun b => .vin .wmul (reg5 w 19) (reg5 w 14) b (reg3 w 6)
  | 0x25 => (vsrc2 w).map fun b => .vin .wmulu (reg5 w 19) (reg5 w 14) b (reg3 w 6)
  | 0x26 => (vsrc3 w).map fun b => .vin .nsra (reg5 w 19) (reg5 w 14) b (reg3 w 6)
  | 0x27 => (vsrc3 w).map fun b => .vin .nclip (reg5 w 19) (reg5 w 14) b (reg3 w 6)
  | _ => none

/-- Class VFA. -/
def entryVfa (w : Nat) : Option VOp :=
  match fld w 0 6 with
  | 0x0 => (vsrc2 w).map fun b => .vfa .add .f32 (reg5 w 19) (reg5 w 14) b (reg3 w 6)
  | 0x1 => (vsrc2 w).map fun b => .vfa .sub .f32 (reg5 w 19) (reg5 w 14) b (reg3 w 6)
  | 0x2 => (vsrc2 w).map fun b => .vfa .rsub .f32 (reg5 w 19) (reg5 w 14) b (reg3 w 6)
  | 0x3 => (vsrc2 w).map fun b => .vfa .mul .f32 (reg5 w 19) (reg5 w 14) b (reg3 w 6)
  | 0x4 => (vsrc2 w).map fun b => .vfa .min .f32 (reg5 w 19) (reg5 w 14) b (reg3 w 6)
  | 0x5 => (vsrc2 w).map fun b => .vfa .max .f32 (reg5 w 19) (reg5 w 14) b (reg3 w 6)
  | 0x6 => (vsrc2 w).map fun b => .vfa .sgnj .f32 (reg5 w 19) (reg5 w 14) b (reg3 w 6)
  | 0x7 => (vsrc2 w).map fun b => .vfa .sgnjn .f32 (reg5 w 19) (reg5 w 14) b (reg3 w 6)
  | 0x8 => (vsrc2 w).map fun b => .vfa .sgnjx .f32 (reg5 w 19) (reg5 w 14) b (reg3 w 6)
  | 0x9 => if fld w 9 5 = 0 ∧ fld w 24 2 = 0 then some (.vfclass .f32 (reg5 w 19) (reg5 w 14) (reg3 w 6)) else none
  | 0x20 => (vsrc2 w).map fun b => .vfa .add .bf16 (reg5 w 19) (reg5 w 14) b (reg3 w 6)
  | 0x21 => (vsrc2 w).map fun b => .vfa .sub .bf16 (reg5 w 19) (reg5 w 14) b (reg3 w 6)
  | 0x22 => (vsrc2 w).map fun b => .vfa .rsub .bf16 (reg5 w 19) (reg5 w 14) b (reg3 w 6)
  | 0x23 => (vsrc2 w).map fun b => .vfa .mul .bf16 (reg5 w 19) (reg5 w 14) b (reg3 w 6)
  | 0x24 => (vsrc2 w).map fun b => .vfa .min .bf16 (reg5 w 19) (reg5 w 14) b (reg3 w 6)
  | 0x25 => (vsrc2 w).map fun b => .vfa .max .bf16 (reg5 w 19) (reg5 w 14) b (reg3 w 6)
  | 0x26 => (vsrc2 w).map fun b => .vfa .sgnj .bf16 (reg5 w 19) (reg5 w 14) b (reg3 w 6)
  | 0x27 => (vsrc2 w).map fun b => .vfa .sgnjn .bf16 (reg5 w 19) (reg5 w 14) b (reg3 w 6)
  | 0x28 => (vsrc2 w).map fun b => .vfa .sgnjx .bf16 (reg5 w 19) (reg5 w 14) b (reg3 w 6)
  | 0x29 => if fld w 9 5 = 0 ∧ fld w 24 2 = 0 then some (.vfclass .bf16 (reg5 w 19) (reg5 w 14) (reg3 w 6)) else none
  | 0x30 => (vsrc2 w).map fun b => .vfw .add (reg5 w 19) (reg5 w 14) b (reg3 w 6)
  | 0x31 => (vsrc2 w).map fun b => .vfw .sub (reg5 w 19) (reg5 w 14) b (reg3 w 6)
  | 0x32 => (vsrc2 w).map fun b => .vfw .mul (reg5 w 19) (reg5 w 14) b (reg3 w 6)
  | 0x33 => (vsrc2 w).map fun b => .vfw .addw (reg5 w 19) (reg5 w 14) b (reg3 w 6)
  | 0x34 => (vsrc2 w).map fun b => .vfw .subw (reg5 w 19) (reg5 w 14) b (reg3 w 6)
  | _ => none

/-- Class VFM. -/
def entryVfm (w : Nat) : Option VOp :=
  match fld w 0 6 with
  | 0x0 => (vsrc2 w).map fun b => .vfm .macc .f32 (reg5 w 19) (reg5 w 14) b (reg3 w 6)
  | 0x1 => (vsrc2 w).map fun b => .vfm .nmacc .f32 (reg5 w 19) (reg5 w 14) b (reg3 w 6)
  | 0x2 => (vsrc2 w).map fun b => .vfm .msac .f32 (reg5 w 19) (reg5 w 14) b (reg3 w 6)
  | 0x3 => (vsrc2 w).map fun b => .vfm .nmsac .f32 (reg5 w 19) (reg5 w 14) b (reg3 w 6)
  | 0x4 => (vsrc2 w).map fun b => .vfm .madd .f32 (reg5 w 19) (reg5 w 14) b (reg3 w 6)
  | 0x10 => (vsrc2 w).map fun b => .vfm .macc .bf16 (reg5 w 19) (reg5 w 14) b (reg3 w 6)
  | 0x11 => (vsrc2 w).map fun b => .vfm .nmacc .bf16 (reg5 w 19) (reg5 w 14) b (reg3 w 6)
  | 0x12 => (vsrc2 w).map fun b => .vfm .msac .bf16 (reg5 w 19) (reg5 w 14) b (reg3 w 6)
  | 0x13 => (vsrc2 w).map fun b => .vfm .nmsac .bf16 (reg5 w 19) (reg5 w 14) b (reg3 w 6)
  | 0x14 => (vsrc2 w).map fun b => .vfm .madd .bf16 (reg5 w 19) (reg5 w 14) b (reg3 w 6)
  | 0x18 => (vsrc2 w).map fun b => .vfm .macc .wide (reg5 w 19) (reg5 w 14) b (reg3 w 6)
  | 0x19 => (vsrc2 w).map fun b => .vfm .nmacc .wide (reg5 w 19) (reg5 w 14) b (reg3 w 6)
  | 0x1a => (vsrc2 w).map fun b => .vfm .msac .wide (reg5 w 19) (reg5 w 14) b (reg3 w 6)
  | 0x1b => (vsrc2 w).map fun b => .vfm .nmsac .wide (reg5 w 19) (reg5 w 14) b (reg3 w 6)
  | _ => none

/-- Class VCV. -/
def entryVcv (w : Nat) : Option VOp :=
  match fld w 0 6 with
  | 0x0 => if fld w 9 5 = 0 ∧ fld w 24 2 = 0 then some (.vcv .xF (reg5 w 19) (reg5 w 14) (reg3 w 6)) else none
  | 0x1 => if fld w 9 5 = 0 ∧ fld w 24 2 = 0 then some (.vcv .xuF (reg5 w 19) (reg5 w 14) (reg3 w 6)) else none
  | 0x2 => if fld w 9 5 = 0 ∧ fld w 24 2 = 0 then some (.vcv .rtzXF (reg5 w 19) (reg5 w 14) (reg3 w 6)) else none
  | 0x3 => if fld w 9 5 = 0 ∧ fld w 24 2 = 0 then some (.vcv .rtzXuF (reg5 w 19) (reg5 w 14) (reg3 w 6)) else none
  | 0x4 => if fld w 9 5 = 0 ∧ fld w 24 2 = 0 then some (.vcv .fX (reg5 w 19) (reg5 w 14) (reg3 w 6)) else none
  | 0x5 => if fld w 9 5 = 0 ∧ fld w 24 2 = 0 then some (.vcv .fXu (reg5 w 19) (reg5 w 14) (reg3 w 6)) else none
  | 0x6 => if fld w 9 5 = 0 ∧ fld w 24 2 = 0 then some (.vcv .xBf (reg5 w 19) (reg5 w 14) (reg3 w 6)) else none
  | 0x7 => if fld w 9 5 = 0 ∧ fld w 24 2 = 0 then some (.vcv .bfX (reg5 w 19) (reg5 w 14) (reg3 w 6)) else none
  | 0x8 => if fld w 9 5 = 0 ∧ fld w 24 2 = 0 then some (.vcv .wFBf (reg5 w 19) (reg5 w 14) (reg3 w 6)) else none
  | 0x9 => if fld w 9 5 = 0 ∧ fld w 24 2 = 0 then some (.vcv .wXF (reg5 w 19) (reg5 w 14) (reg3 w 6)) else none
  | 0xa => if fld w 9 5 = 0 ∧ fld w 24 2 = 0 then some (.vcv .wFX (reg5 w 19) (reg5 w 14) (reg3 w 6)) else none
  | 0x10 => if fld w 9 5 = 0 ∧ fld w 24 2 = 0 then some (.vcv .nBfF (reg5 w 19) (reg5 w 14) (reg3 w 6)) else none
  | 0x11 => if fld w 9 5 = 0 ∧ fld w 24 2 = 0 then some (.vcv .nXF (reg5 w 19) (reg5 w 14) (reg3 w 6)) else none
  | 0x12 => if fld w 9 5 = 0 ∧ fld w 24 2 = 0 then some (.vcv .nXuF (reg5 w 19) (reg5 w 14) (reg3 w 6)) else none
  | 0x13 => if fld w 9 5 = 0 ∧ fld w 24 2 = 0 then some (.vcv .nFX (reg5 w 19) (reg5 w 14) (reg3 w 6)) else none
  | 0x20 => if fld w 9 5 = 0 ∧ fld w 24 2 = 0 then some (.vcv .sext2 (reg5 w 19) (reg5 w 14) (reg3 w 6)) else none
  | 0x21 => if fld w 9 5 = 0 ∧ fld w 24 2 = 0 then some (.vcv .zext2 (reg5 w 19) (reg5 w 14) (reg3 w 6)) else none
  | 0x22 => if fld w 9 5 = 0 ∧ fld w 24 2 = 0 then some (.vcv .sext4 (reg5 w 19) (reg5 w 14) (reg3 w 6)) else none
  | 0x23 => if fld w 9 5 = 0 ∧ fld w 24 2 = 0 then some (.vcv .zext4 (reg5 w 19) (reg5 w 14) (reg3 w 6)) else none
  | 0x24 => if fld w 9 5 = 0 ∧ fld w 24 2 = 0 then some (.vcv .sext8 (reg5 w 19) (reg5 w 14) (reg3 w 6)) else none
  | 0x25 => if fld w 9 5 = 0 ∧ fld w 24 2 = 0 then some (.vcv .zext8 (reg5 w 19) (reg5 w 14) (reg3 w 6)) else none
  | _ => none

/-- Class VCP. -/
def entryVcp (w : Nat) : Option VOp :=
  match fld w 0 6 with
  | 0x0 => if fld w 22 2 = 0 then (vsrc3 w).map fun b => .vcpi .eq (reg3 w 19) (reg5 w 14) b (reg3 w 6) else none
  | 0x1 => if fld w 22 2 = 0 then (vsrc3 w).map fun b => .vcpi .ne (reg3 w 19) (reg5 w 14) b (reg3 w 6) else none
  | 0x2 => if fld w 22 2 = 0 then (vsrc3 w).map fun b => .vcpi .lt (reg3 w 19) (reg5 w 14) b (reg3 w 6) else none
  | 0x3 => if fld w 22 2 = 0 then (vsrc3 w).map fun b => .vcpi .ltu (reg3 w 19) (reg5 w 14) b (reg3 w 6) else none
  | 0x4 => if fld w 22 2 = 0 then (vsrc3 w).map fun b => .vcpi .le (reg3 w 19) (reg5 w 14) b (reg3 w 6) else none
  | 0x5 => if fld w 22 2 = 0 then (vsrc3 w).map fun b => .vcpi .leu (reg3 w 19) (reg5 w 14) b (reg3 w 6) else none
  | 0x6 => if fld w 22 2 = 0 then (vsrc3 w).map fun b => .vcpi .gt (reg3 w 19) (reg5 w 14) b (reg3 w 6) else none
  | 0x7 => if fld w 22 2 = 0 then (vsrc3 w).map fun b => .vcpi .gtu (reg3 w 19) (reg5 w 14) b (reg3 w 6) else none
  | 0x10 => if fld w 22 2 = 0 then (vsrc2 w).map fun b => .vcpf .eq .f32 (reg3 w 19) (reg5 w 14) b (reg3 w 6) else none
  | 0x11 => if fld w 22 2 = 0 then (vsrc2 w).map fun b => .vcpf .ne .f32 (reg3 w 19) (reg5 w 14) b (reg3 w 6) else none
  | 0x12 => if fld w 22 2 = 0 then (vsrc2 w).map fun b => .vcpf .lt .f32 (reg3 w 19) (reg5 w 14) b (reg3 w 6) else none
  | 0x13 => if fld w 22 2 = 0 then (vsrc2 w).map fun b => .vcpf .le .f32 (reg3 w 19) (reg5 w 14) b (reg3 w 6) else none
  | 0x14 => if fld w 22 2 = 0 then (vsrc2 w).map fun b => .vcpf .gt .f32 (reg3 w 19) (reg5 w 14) b (reg3 w 6) else none
  | 0x15 => if fld w 22 2 = 0 then (vsrc2 w).map fun b => .vcpf .ge .f32 (reg3 w 19) (reg5 w 14) b (reg3 w 6) else none
  | 0x18 => if fld w 22 2 = 0 then (vsrc2 w).map fun b => .vcpf .eq .bf16 (reg3 w 19) (reg5 w 14) b (reg3 w 6) else none
  | 0x19 => if fld w 22 2 = 0 then (vsrc2 w).map fun b => .vcpf .ne .bf16 (reg3 w 19) (reg5 w 14) b (reg3 w 6) else none
  | 0x1a => if fld w 22 2 = 0 then (vsrc2 w).map fun b => .vcpf .lt .bf16 (reg3 w 19) (reg5 w 14) b (reg3 w 6) else none
  | 0x1b => if fld w 22 2 = 0 then (vsrc2 w).map fun b => .vcpf .le .bf16 (reg3 w 19) (reg5 w 14) b (reg3 w 6) else none
  | 0x1c => if fld w 22 2 = 0 then (vsrc2 w).map fun b => .vcpf .gt .bf16 (reg3 w 19) (reg5 w 14) b (reg3 w 6) else none
  | 0x1d => if fld w 22 2 = 0 then (vsrc2 w).map fun b => .vcpf .ge .bf16 (reg3 w 19) (reg5 w 14) b (reg3 w 6) else none
  | _ => none

/-- Class VMK. -/
def entryVmk (w : Nat) : Option VOp :=
  match fld w 0 6 with
  | 0x0 => if fld w 12 2 = 0 ∧ fld w 17 2 = 0 ∧ fld w 22 4 = 0 then some (.vmk2 .and (reg3 w 19) (reg3 w 14) (reg3 w 9) (reg3 w 6)) else none
  | 0x1 => if fld w 12 2 = 0 ∧ fld w 17 2 = 0 ∧ fld w 22 4 = 0 then some (.vmk2 .or (reg3 w 19) (reg3 w 14) (reg3 w 9) (reg3 w 6)) else none
  | 0x2 => if fld w 12 2 = 0 ∧ fld w 17 2 = 0 ∧ fld w 22 4 = 0 then some (.vmk2 .xor (reg3 w 19) (reg3 w 14) (reg3 w 9) (reg3 w 6)) else none
  | 0x3 => if fld w 12 2 = 0 ∧ fld w 17 2 = 0 ∧ fld w 22 4 = 0 then some (.vmk2 .andn (reg3 w 19) (reg3 w 14) (reg3 w 9) (reg3 w 6)) else none
  | 0x4 => if fld w 12 2 = 0 ∧ fld w 17 2 = 0 ∧ fld w 22 4 = 0 then some (.vmk2 .orn (reg3 w 19) (reg3 w 14) (reg3 w 9) (reg3 w 6)) else none
  | 0x5 => if fld w 12 2 = 0 ∧ fld w 17 2 = 0 ∧ fld w 22 4 = 0 then some (.vmk2 .nand (reg3 w 19) (reg3 w 14) (reg3 w 9) (reg3 w 6)) else none
  | 0x6 => if fld w 12 2 = 0 ∧ fld w 17 2 = 0 ∧ fld w 22 4 = 0 then some (.vmk2 .nor (reg3 w 19) (reg3 w 14) (reg3 w 9) (reg3 w 6)) else none
  | 0x7 => if fld w 12 2 = 0 ∧ fld w 17 2 = 0 ∧ fld w 22 4 = 0 then some (.vmk2 .xnor (reg3 w 19) (reg3 w 14) (reg3 w 9) (reg3 w 6)) else none
  | 0x8 => if fld w 9 5 = 0 ∧ fld w 17 2 = 0 ∧ fld w 22 4 = 0 then some (.vmk1 .sbf (reg3 w 19) (reg3 w 14) (reg3 w 6)) else none
  | 0x9 => if fld w 9 5 = 0 ∧ fld w 17 2 = 0 ∧ fld w 22 4 = 0 then some (.vmk1 .sif (reg3 w 19) (reg3 w 14) (reg3 w 6)) else none
  | 0xa => if fld w 9 5 = 0 ∧ fld w 17 2 = 0 ∧ fld w 22 4 = 0 then some (.vmk1 .sof (reg3 w 19) (reg3 w 14) (reg3 w 6)) else none
  | 0xb => if fld w 9 5 = 0 ∧ fld w 17 2 = 0 ∧ fld w 24 2 = 0 then some (.viota (reg5 w 19) (reg3 w 14) (reg3 w 6)) else none
  | 0xc => if fld w 9 10 = 0 ∧ fld w 24 2 = 0 then some (.vid (reg5 w 19) (reg3 w 6)) else none
  | 0x10 => if fld w 9 5 = 0 ∧ fld w 17 2 = 0 ∧ fld w 24 2 = 0 then some (.vmpopc (reg5 w 19) (reg3 w 14) (reg3 w 6)) else none
  | 0x11 => if fld w 9 5 = 0 ∧ fld w 17 2 = 0 ∧ fld w 24 2 = 0 then some (.vmfirst (reg5 w 19) (reg3 w 14) (reg3 w 6)) else none
  | _ => none

/-- Class VPM. -/
def entryVpm (w : Nat) : Option VOp :=
  match fld w 0 4 with
  | 0x0 => some (.vgather (reg5 w 17) (reg5 w 12) (reg5 w 7) (reg3 w 4))
  | 0x1 => some (.vslide .gatherx (reg5 w 17) (reg5 w 12) (reg3 w 4))
  | 0x2 => some (.vslide .up (reg5 w 17) (reg5 w 12) (reg3 w 4))
  | 0x3 => some (.vslide .down (reg5 w 17) (reg5 w 12) (reg3 w 4))
  | 0x4 => some (.vslide .up1 (reg5 w 17) (reg5 w 12) (reg3 w 4))
  | 0x5 => some (.vslide .down1 (reg5 w 17) (reg5 w 12) (reg3 w 4))
  | 0x6 => if fld w 4 3 = 0 ∧ fld w 10 2 = 0 then some (.vcompress (reg5 w 17) (reg5 w 12) (reg3 w 7)) else none
  | 0x7 => if fld w 4 3 = 0 then some (.vmvxs (reg5 w 17) (reg5 w 12)) else none
  | 0x8 => if fld w 7 5 = 0 then some (.vmvsx (reg5 w 17) (reg3 w 4)) else none
  | 0x9 => if fld w 7 5 = 0 then some (.vrev (reg5 w 17) (reg5 w 12) (reg3 w 4)) else none
  | _ => none

/-- Class VRD. -/
def entryVrd (w : Nat) : Option VOp :=
  match fld w 0 4 with
  | 0x0 => some (.vred false .fsum (reg5 w 17) (reg5 w 12) (reg3 w 4))
  | 0x1 => some (.vred false .fmax (reg5 w 17) (reg5 w 12) (reg3 w 4))
  | 0x2 => some (.vred false .fmin (reg5 w 17) (reg5 w 12) (reg3 w 4))
  | 0x3 => some (.vred false .bfsum (reg5 w 17) (reg5 w 12) (reg3 w 4))
  | 0x4 => some (.vred false .sum (reg5 w 17) (reg5 w 12) (reg3 w 4))
  | 0x5 => some (.vred false .max (reg5 w 17) (reg5 w 12) (reg3 w 4))
  | 0x6 => some (.vred false .min (reg5 w 17) (reg5 w 12) (reg3 w 4))
  | 0x7 => some (.vred false .minu (reg5 w 17) (reg5 w 12) (reg3 w 4))
  | 0x8 => some (.vred true .fsum (reg5 w 17) (reg5 w 12) (reg3 w 4))
  | 0x9 => some (.vred true .fmax (reg5 w 17) (reg5 w 12) (reg3 w 4))
  | 0xa => some (.vred true .fmin (reg5 w 17) (reg5 w 12) (reg3 w 4))
  | 0xb => some (.vred true .bfsum (reg5 w 17) (reg5 w 12) (reg3 w 4))
  | 0xc => some (.vred true .sum (reg5 w 17) (reg5 w 12) (reg3 w 4))
  | 0xd => some (.vred true .max (reg5 w 17) (reg5 w 12) (reg3 w 4))
  | 0xe => some (.vred true .min (reg5 w 17) (reg5 w 12) (reg3 w 4))
  | 0xf => some (.vred true .maxu (reg5 w 17) (reg5 w 12) (reg3 w 4))
  | _ => none

/-- Class VSO. -/
def entryVso (w : Nat) : Option VOp :=
  match fld w 0 4 with
  | 0x0 => if fld w 4 8 = 0 then some (.vsort .u (reg5 w 17) (reg5 w 12)) else none
  | 0x1 => if fld w 4 8 = 0 then some (.vsort .s (reg5 w 17) (reg5 w 12)) else none
  | 0x2 => if fld w 4 8 = 0 then some (.vsort .f (reg5 w 17) (reg5 w 12)) else none
  | 0x3 => if fld w 4 8 = 0 then some (.vsortkv .u (reg5 w 17) (reg5 w 12)) else none
  | 0x4 => if fld w 4 8 = 0 then some (.vsortkv .s (reg5 w 17) (reg5 w 12)) else none
  | 0x5 => if fld w 4 8 = 0 then some (.vsortkv .f (reg5 w 17) (reg5 w 12)) else none
  | 0x6 => if fld w 4 3 = 0 then some (.vmerge .u (reg5 w 17) (reg5 w 12)) else none
  | 0x7 => if fld w 4 3 = 0 then some (.vmerge .s (reg5 w 17) (reg5 w 12)) else none
  | 0x8 => if fld w 4 3 = 0 then some (.vmerge .f (reg5 w 17) (reg5 w 12)) else none
  | 0x9 => some (.vtag (reg5 w 17) (reg5 w 12) (reg3 w 4))
  | 0xa => if fld w 4 8 = 0 ∧ fld w 20 2 = 0 then some (.vsegm (reg3 w 17) (reg5 w 12)) else none
  | _ => none

/-- Class VCT. -/
def entryVct (w : Nat) : Option VOp :=
  match fld w 23 3 with
  | 0x0 => if fld w 13 5 = 0 ∧ fld w 21 2 = 0 then some (.vbr (reg3 w 18) (BitVec.ofNat 13 (fld w 0 13))) else none
  | 0x1 => if fld w 13 10 = 0 then some (.vjoin (BitVec.ofNat 13 (fld w 0 13))) else none
  | 0x2 => if fld w 16 2 = 0 then some (.vloop (reg5 w 18) (reg3 w 13) (BitVec.ofNat 13 (fld w 0 13))) else none
  | _ => none

/-- Class VCM. -/
def entryVcm (w : Nat) : Option VOp :=
  match fld w 0 4 with
  | 0x0 => if fld w 7 5 = 0 then some (.vld .unit (reg5 w 17) (reg3 w 4)) else none
  | 0x1 => some (.vld (.stride (reg5 w 7)) (reg5 w 17) (reg3 w 4))
  | 0x2 => some (.vld (.index (reg5 w 7)) (reg5 w 17) (reg3 w 4))
  | 0x3 => if fld w 7 5 = 0 then some (.vst .unit (reg5 w 17) (reg3 w 4)) else none
  | 0x4 => some (.vst (.stride (reg5 w 7)) (reg5 w 17) (reg3 w 4))
  | 0x5 => some (.vst (.index (reg5 w 7)) (reg5 w 17) (reg3 w 4))
  | 0x8 => if fld w 7 5 = 0 then some (.vstp false (reg5 w 17) (reg3 w 4)) else none
  | 0x9 => some (.vstp true (reg5 w 17) (reg3 w 4))
  | _ => none

/-- Class VTS. -/
def entryVts (w : Nat) : Option VOp :=
  match fld w 0 6 with
  | 0x0 => if fld w 17 2 = 0 ∧ fld w 24 2 = 1 then some (.vts .rdr (reg5 w 19) (reg3 w 14) (reg3 w 6)) else none
  | 0x1 => if fld w 17 2 = 0 ∧ fld w 24 2 = 1 then some (.vts .rdc (reg5 w 19) (reg3 w 14) (reg3 w 6)) else none
  | 0x2 => if fld w 17 2 = 0 ∧ fld w 24 2 = 1 then some (.vts .rdrz (reg5 w 19) (reg3 w 14) (reg3 w 6)) else none
  | 0x3 => if fld w 17 2 = 0 ∧ fld w 24 2 = 1 then some (.vts .rdcz (reg5 w 19) (reg3 w 14) (reg3 w 6)) else none
  | 0x4 => if fld w 17 2 = 0 ∧ fld w 24 2 = 1 then some (.vts .wrr (reg5 w 19) (reg3 w 14) (reg3 w 6)) else none
  | 0x5 => if fld w 17 2 = 0 ∧ fld w 24 2 = 1 then some (.vts .wrc (reg5 w 19) (reg3 w 14) (reg3 w 6)) else none
  | _ => none

/-- Class VPT. -/
def entryVpt (w : Nat) : Option VOp :=
  match fld w 0 4 with
  | 0x0 => if fld w 7 5 = 0 ∧ fld w 15 2 = 0 then some (.vpt .rd (reg5 w 17) (reg3 w 12) 0 (reg3 w 4)) else none
  | 0x1 => if fld w 7 5 = 0 ∧ fld w 15 2 = 0 then some (.vpt .rdff (reg5 w 17) (reg3 w 12) 0 (reg3 w 4)) else none
  | 0x2 => if fld w 7 5 = 0 ∧ fld w 15 2 = 0 then some (.vpt .wr (reg5 w 17) (reg3 w 12) 0 (reg3 w 4)) else none
  | 0x3 => if fld w 7 5 = 0 ∧ fld w 15 2 = 0 then some (.vpt .peek (reg5 w 17) (reg3 w 12) 0 (reg3 w 4)) else none
  | 0x4 => if fld w 4 3 = 0 ∧ fld w 15 2 = 0 then some (.vpt .rdnF (reg5 w 17) (reg3 w 12) (reg5 w 7) 0) else none
  | 0x5 => if fld w 4 3 = 0 ∧ fld w 15 2 = 0 then some (.vpt .rdnBf (reg5 w 17) (reg3 w 12) (reg5 w 7) 0) else none
  | 0x6 => if fld w 4 3 = 0 ∧ fld w 15 2 = 0 then some (.vpt .rdnffF (reg5 w 17) (reg3 w 12) (reg5 w 7) 0) else none
  | 0x7 => if fld w 4 3 = 0 ∧ fld w 15 2 = 0 then some (.vpt .rdnffBf (reg5 w 17) (reg3 w 12) (reg5 w 7) 0) else none
  | 0x8 => if fld w 4 8 = 0 ∧ fld w 15 2 = 0 then some (.vpt .rdnC (reg5 w 17) (reg3 w 12) 0 0) else none
  | 0x9 => if fld w 4 8 = 0 ∧ fld w 15 2 = 0 then some (.vpt .rdnffC (reg5 w 17) (reg3 w 12) 0 0) else none
  | 0xa => if fld w 4 3 = 0 ∧ fld w 15 2 = 0 then some (.vpt .wrnF (reg5 w 17) (reg3 w 12) (reg5 w 7) 0) else none
  | 0xb => if fld w 4 3 = 0 ∧ fld w 15 2 = 0 then some (.vpt .wrnBf (reg5 w 17) (reg3 w 12) (reg5 w 7) 0) else none
  | 0xc => if fld w 4 8 = 0 ∧ fld w 15 2 = 0 then some (.vpt .wrnC (reg5 w 17) (reg3 w 12) 0 0) else none
  | _ => none

/-- Class BCN. -/
def entryBcn (w : Nat) : Option VOp :=
  match fld w 0 3 with
  | 0x3 => if fld w 3 5 = 0 then some (.vbld false (reg5 w 13) (reg5 w 8) (reg4 w 18)) else none
  | 0x4 => if fld w 3 5 = 0 then some (.vbst false (reg5 w 13) (reg5 w 8) (reg4 w 18)) else none
  | 0x5 => if fld w 3 5 = 0 ∧ fld w 18 4 = 15 then some (.vbld true (reg5 w 13) (reg5 w 8) 15) else none
  | 0x6 => if fld w 3 5 = 0 ∧ fld w 18 4 = 15 then some (.vbst true (reg5 w 13) (reg5 w 8) 15) else none
  | _ => none

/-- Class ATM. -/
def entryAtm (w : Nat) : Option VOp :=
  match fld w 0 3 with
  | 0x7 => some (.vamaxe (reg5 w 13) (reg5 w 8) (reg5 w 3) (reg4 w 18))
  | _ => none

/-- Class SYN. -/
def entrySyn (w : Nat) : Option VOp :=
  match fld w 0 3 with
  | 0x1 => if fld w 16 2 = 0 then some (.vwait (reg3 w 13) (reg5 w 8) (reg4 w 18)) else none
  | _ => none

/-- Class CPY. -/
def entryCpy (w : Nat) : Option VOp :=
  match fld w 0 4 with
  | 0x0 => if fld w 4 3 = 0 ∧ fld w 19 3 = 0 then some (.copy .rr (reg2 w 17) (reg5 w 12)) else none
  | 0x1 => if fld w 4 3 = 0 ∧ fld w 19 3 = 0 then some (.copy .rc (reg2 w 17) (reg5 w 12)) else none
  | 0x2 => if fld w 4 3 = 0 ∧ fld w 19 3 = 0 then some (.copy .rp (reg2 w 17) (reg5 w 12)) else none
  | 0x3 => if fld w 4 8 = 0 ∧ fld w 14 3 = 0 then some (.cpctl .mark (reg5 w 17) (reg2 w 12)) else none
  | 0x4 => if fld w 4 8 = 0 ∧ fld w 14 3 = 0 then some (.cpctl .seq (reg5 w 17) (reg2 w 12)) else none
  | 0x5 => if fld w 4 3 = 0 ∧ fld w 14 3 = 0 then some (.cpctl .stat (reg5 w 17) (reg2 w 12)) else none
  | 0x6 => if fld w 4 8 = 0 ∧ fld w 14 3 = 0 then some (.cpctl .retry (reg5 w 17) (reg2 w 12)) else none
  | 0x7 => if fld w 4 8 = 0 ∧ fld w 14 3 = 0 then some (.cpctl .abort (reg5 w 17) (reg2 w 12)) else none
  | _ => none

/-- Class SRT. -/
def entrySrt (w : Nat) : Option VOp :=
  match fld w 0 4 with
  | 0x0 => if fld w 4 3 = 0 then some (.srt .sort (reg5 w 17) (reg5 w 12)) else none
  | 0x1 => if fld w 4 3 = 0 then some (.srt .merge (reg5 w 17) (reg5 w 12)) else none
  | 0x2 => if fld w 4 3 = 0 then some (.srt .join (reg5 w 17) (reg5 w 12)) else none
  | 0x3 => if fld w 4 3 = 0 then some (.srt .tag (reg5 w 17) (reg5 w 12)) else none
  | 0x4 => if fld w 4 3 = 0 then some (.sprog (reg5 w 17)) else none
  | 0x5 => if fld w 4 8 = 0 then some (.sabort (reg5 w 17)) else none
  | _ => none

/-- Whether the class of a major opcode posts through a token field at bit 22. -/
def entryToken (w : Nat) : Option Tok :=
  let j := fld w 26 6
  if j = 0x16 ∨ j = 0x17 ∨ j = 0x18 ∨ j = 0x1B ∨ (0x22 ≤ j ∧ j ≤ 0x29) then some (reg4 w 22) else none

/-- The operation a queue entry's word stands for; `nop` and `dly` are idle beats (R107) (DEDUCED, log entry 64). -/
def entryOp (w : Nat) : Option VOp :=
  match fld w 26 6 with
  | 0xb => if fld w 0 4 = 0 then some (.idle 1) else if fld w 0 4 = 1 then some (.idle (fld w 8 6 + 1)) else none
  | 0x10 => entryVin w
  | 0x11 => entryVfa w
  | 0x12 => entryVfm w
  | 0x13 => entryVcv w
  | 0x14 => entryVcp w
  | 0x15 => entryVmk w
  | 0x16 => entryVpm w
  | 0x17 => entryVrd w
  | 0x18 => entryVso w
  | 0x1a => entryVct w
  | 0x1b => entryVcm w
  | 0x1c => entryVts w
  | 0x22 => entryVpt w
  | 0x23 => entryBcn w
  | 0x24 => entryAtm w
  | 0x25 => entrySyn w
  | 0x28 => entryCpy w
  | 0x29 => entrySrt w
  | _ => none

end Sys2Proof.Machine
end

