-- ==== Sys2Proof/Machine/Scopes.lean ====
section
/-! DEFINITION. The scope tables (R264, R265) with the counts a Plotter keeps, and the barrier channels (R272, R207). -/
namespace Sys2Proof.Machine

/-! ### Scope handles and entries -/

/-- The states of a scope entry (R265). -/
inductive ScopeSt where
  | free | live | cancelling | cancelled
deriving DecidableEq, Repr

def ScopeSt.code : ScopeSt → Nat
  | .free => 0 | .live => 1 | .cancelling => 2 | .cancelled => 3
def scopeStOf (n : Nat) : ScopeSt :=
  match n with
  | 1 => .live | 2 => .cancelling | 3 => .cancelled | _ => .free

/-- Physical address of entry i of die d. -/
def scopeEntry (d i : Nat) : Nat := 0x20000000000 + d * 0x400000 + 0x380000 + i * 64

def scopeDie (h : Word) : Nat := bitsOf h 47 46
def scopeIdx (h : Word) : Nat := bitsOf h 11 0
def scopeAddr (h : Word) : Nat := scopeEntry (scopeDie h) (scopeIdx h)

/-- The handle of an entry (R264). -/
def scopeHandle (gen d i : Nat) : Word := wordOf (gen % 65536 * 2 ^ 48 + d % 4 * 2 ^ 46 + i % 4096)

/-- The words of an entry: 0 HDR, 1 PARENT, 2 LIVE, 3 ACK, 4 KTASK, 5 KENG, 6 DONE, 7 zero. -/
def Pkg.scopeWord (p : Pkg) (h : Word) (k : Nat) : Word := p.mem.word (scopeAddr h + 8 * k)
def Pkg.setScopeWord (p : Pkg) (h : Word) (k : Nat) (w : Word) : Pkg :=
  { p with mem := p.mem.setWord (scopeAddr h + 8 * k) w }

def scopeHdr (gen : Nat) (st : ScopeSt) : Word := wordOf (gen % 65536 * 2 ^ 48 + st.code * 2 ^ 44)

/-- The state of the scope a handle names; nothing for a stale handle (R264). -/
def Pkg.scopeState (p : Pkg) (h : Word) : Option ScopeSt :=
  let hdr := p.scopeWord h 0
  let st := scopeStOf (bitsOf hdr 47 44)
  if bitsOf h 45 12 = 0 ∧ bitsOf h 63 48 ≠ 0 ∧ bitsOf h 63 48 = bitsOf hdr 63 48 ∧ st ≠ .free then some st else none

def Pkg.setScopeState (p : Pkg) (h : Word) (st : ScopeSt) : Pkg := p.setScopeWord h 0 (scopeHdr (bitsOf h 63 48) st)
def Pkg.scopeParent (p : Pkg) (h : Word) : Word := p.scopeWord h 1

/-- Scope h lies in the subtree of k: its chain of PARENT handles reaches k (R265). -/
def Pkg.underIn (p : Pkg) : Nat → Word → Word → Bool
  | 0, _, _ => false
  | n + 1, h, k => decide (h = k) || (decide (p.scopeParent h ≠ 0) && p.underIn n (p.scopeParent h) k)

/-- No chain is longer than the entries of four tables. -/
def Pkg.under (p : Pkg) (h k : Word) : Bool := (p.scopeState h).isSome && p.underIn 16385 h k

/-! ### Counts (R265) -/

def sat32 (n : Nat) : Nat := min n (2 ^ 32 - 1)

/-- The own counts of a scope. -/
def Pkg.counts (p : Pkg) (h : Word) : ScopeCnt := (p.scopes.find? fun c => decide (c.handle = h)).getD ⟨h, 0, 0, 0, 0, 0, false⟩

def Pkg.modCnt (p : Pkg) (h : Word) (f : ScopeCnt → ScopeCnt) : Pkg :=
  { p with scopes := (p.scopes.filter fun c => decide (c.handle ≠ h)) ++ [f (p.counts h)] }

def ScopeCnt.addKt (c : ScopeCnt) (n : Nat) : ScopeCnt := { c with kt := sat32 (c.kt + n) }
def ScopeCnt.addKq (c : ScopeCnt) (n : Nat) : ScopeCnt := { c with kq := sat32 (c.kq + n) }
def ScopeCnt.addKe (c : ScopeCnt) (n : Nat) : ScopeCnt := { c with ke := sat32 (c.ke + n) }
def ScopeCnt.addCe (c : ScopeCnt) (n : Nat) : ScopeCnt := { c with ce := sat32 (c.ce + n) }
def ScopeCnt.addCt (c : ScopeCnt) (n : Nat) : ScopeCnt := { c with ct := sat32 (c.ct + n) }

/-- Change the fields of LIVE: open children and members, saturating. -/
def Pkg.modLive (p : Pkg) (h : Word) (f : Nat → Nat → Nat × Nat) : Pkg :=
  if (p.scopeState h).isNone then p
  else
    let w := p.scopeWord h 2
    let r := f (bitsOf w 63 32) (bitsOf w 31 0)
    p.setScopeWord h 2 (wordOf (sat32 r.1 * 2 ^ 32 + sat32 r.2))

def Pkg.addMembers (p : Pkg) (h : Word) (n : Nat) : Pkg := p.modLive h fun c m => (c, m + n)
/-- MEMBERS falls; a count that had saturated falls from 2^32 − 1 (R265) (DESIGN CHOICE, log entry 117). -/
def Pkg.dropMembers (p : Pkg) (h : Word) (n : Nat) : Pkg := p.modLive h fun c m => (c, m - n)

/-! ### Opening and closing (R269) -/

/-- A FREE entry of a die; which of them is free (R265, DESIGN CHOICE, log entry 1). -/
def Pkg.freeScope (p : Pkg) (d choice : Nat) : Option Nat :=
  let isFree (i : Nat) : Bool := decide (bitsOf (p.mem.word (scopeEntry d i)) 47 44 = 0)
  ((List.range 4096).find? fun j => isFree ((choice + j) % 4096)).map fun j => (choice + j) % 4096

/-- Open a LIVE scope in entry i of die d under a parent, 0 for a root: the package and the handle. A generation of 0, of an
entry never used, becomes 1 (DESIGN CHOICE, log entry 2). -/
def Pkg.openScope (p : Pkg) (d i : Nat) (parent : Word) : Pkg × Word :=
  let g := bitsOf (p.mem.word (scopeEntry d i)) 63 48
  let h := scopeHandle (if g = 0 then 1 else g) d i
  let p := ((List.range 8).foldl (fun p k => p.setScopeWord h k 0) p).setScopeState h .live
  let p := (p.setScopeWord h 1 parent).modLive parent fun c m => (c + 1, m)
  ({ p with scopes := (p.scopes.filter fun c => decide (c.handle ≠ h)) ++ [⟨h, 0, 0, 0, 0, 0, false⟩] }, h)

/-- Free a scope: GEN advances as in R165, and its parent has one child less. -/
def Pkg.closeScope (p : Pkg) (h : Word) : Pkg :=
  let parent := p.scopeParent h
  let p := p.setScopeWord h 0 (scopeHdr (nextGen (bitsOf h 63 48)) .free)
  let p := p.modLive parent fun c m => (c - 1, m)
  { p with scopes := p.scopes.filter fun c => decide (c.handle ≠ h) }

/-- The caller's scope (R269); 0 for a handler that runs without a task. -/
def State.ownScope (s : State) : Word := (s.hart.ctx.map (·.scope)).getD 0

/-- Related: the caller's own scope or one of its subtree (R269). -/
def State.related (s : State) (h : Word) : Bool := s.pkg.under h s.ownScope

/-- The open scopes of a subtree, the root first. -/
def Pkg.subtree (p : Pkg) (k : Word) : List Word :=
  k :: (p.scopes.map ScopeCnt.handle).filter fun h => decide (h ≠ k) && p.under h k

/-! ### Barrier channels -/

/-- The unit at a level that holds a hart (R2, R272). -/
def BarLevel.unit (l : BarLevel) (h : HartId) : List Nat :=
  match l with
  | .core => [h.die, h.quad, h.core]
  | .quad => [h.die, h.quad]
  | .die => [h.die]
  | .pkg => []
  | .pod => []

def Barrier.same (b : Barrier) (l : BarLevel) (u : List Nat) (ch : Nat) : Bool := decide (b.lvl = l ∧ b.unit = u ∧ b.ch = ch)

def Pkg.barrier (p : Pkg) (l : BarLevel) (u : List Nat) (ch : Nat) : Barrier :=
  (p.barriers.find? fun b => b.same l u ch).getD ⟨l, u, ch, [], [], [], []⟩

def Pkg.setBarrier (p : Pkg) (b : Barrier) : Pkg :=
  { p with barriers := (p.barriers.filter fun x => !x.same b.lvl b.unit b.ch) ++ [b] }

/-- Every member has arrived, and one has (R272). -/
def Barrier.complete (b : Barrier) : Bool :=
  !b.arrived.isEmpty && b.members.all b.arrived.contains && b.far.all b.farArrived.contains

/-- Do something at another hart, and come back. -/
def State.at (s : State) (h : HartId) (f : State → State) : State := (f (s.focus h)).focus s.cur

/-- The wait of a hart ends with a status in s[D] (R268): readable from the next slot. -/
def State.endHold (s : State) (d : SReg) (w : Word) : State :=
  ((s.mapHart fun h => { h with hold := .none }).writeReg d w 1).advance

/-- An arrival is released with OK. -/
def State.release (s : State) (h : HartId) : State :=
  s.at h fun s =>
    match s.hart.hold with
    | .bwait _ _ d _ _ => s.endHold d 0
    | _ => s

/-- Open an episode if it is complete: every arrival is released, in the order of arrival. -/
def State.openEpisode (s : State) (b : Barrier) : State :=
  if b.complete then
    b.arrived.foldl State.release (s.mapPkg fun p => p.setBarrier { b with arrived := [], farArrived := [] })
  else s

/-- What the part then knows of the other packages at a pod channel, those declared lost apart: which have members there, and of
which all have arrived, are free choices (R330) (DESIGN CHOICE, log entry 54). -/
def State.farPart (s : State) (b : Barrier) : Barrier :=
  if b.lvl = .pod then
    let others := (List.range 1024).filter fun k => decide (k ≠ s.pkg.id) && !s.pkg.vexud.lostPkgs.contains k
    { b with far := others.filter fun k => Config.freeBit (s.fresh + k)
             farArrived := others.filter fun k => Config.freeBit (s.fresh + 1024 + k) }
  else b

/-- A channel takes new sets, and its episode opens if it is complete (DESIGN CHOICE, log entry 54). -/
def State.hearFar (s : State) (b : Barrier) : State :=
  let b' := s.farPart b
  ((if b.lvl = .pod then s.bump 2048 else s).mapPkg fun p => p.setBarrier b').openEpisode b'

/-- A hart leaves both sets of a channel; the episode opens if every remaining member has arrived. -/
def State.leaveBarrier (s : State) (b : Barrier) (h : HartId) : State :=
  s.hearFar { b with members := b.members.filter (· ≠ h), arrived := b.arrived.filter (· ≠ h) }

/-- A hart leaves every channel it joined (R266, R271) (DEDUCED, log entry 52). -/
def State.leaveBarriers (s : State) (h : HartId) : State :=
  (s.pkg.barriers.filter fun b => b.members.contains h).foldl (fun s b =>
    s.leaveBarrier (s.pkg.barrier b.lvl b.unit b.ch) h) s

/-- The accesses that R207 has a member perform before its barrier opens: beacon accesses, port writes, Chart stores. -/
def State.accessesDone (s : State) : Bool := s.fenceOpen s.hart.sup 0x3FFFF (s.fresh + 64)

end Sys2Proof.Machine
end

