-- ==== Sys2Proof/Machine/Saves.lean ====
section
/-! DEFINITION. Save areas (R302, R303): their image of a context, the full save (R301), the restore, and the end of a
saved context. -/
namespace Sys2Proof.Machine

/-! ### A freed hart -/

/-- What is left of a hart whose context is gone: nothing of it pends, nothing is bound, no hold (R266, R271, R301). What a handler
issued goes on (R22). -/
def Hart.emptied (h : Hart) : Hart :=
  { h with
    ctx := none, infl := [], loads := [], pendS := h.pendS.filter (·.1), vq := h.vq.filter (·.sup), vpend := [], merges := []
    late := h.late.filter (·.sup), bops := h.bops.filter (·.sup), frags := [], ports := Vector.replicate 8 PortSt.unbound
    tk := h.tk.map fun t => { t with out := 0 }, hold := .none, savePend := false, reclPend := false, givePend := false
    mirrorPend := none }

/-- A hart that becomes free to the Plotter. -/
def Hart.freed (h : Hart) : Hart :=
  { h.emptied with
    hst := { h.hst with mode := false }, held := false, atVector := false, lastTransfer := none }

/-- The units of the core hold nothing of the focused hart any more but what a handler issued, which completes (R22, R266). -/
def State.dropUnits (s : State) : State :=
  let s := s.mapCore fun c =>
    { c with divider := c.divider.filter fun o => decide (o.hid ≠ s.cur.hid) || o.sup
             pipe := c.pipe.filter fun o => decide (o.hid ≠ s.cur.hid) || o.ent.sup
             net := c.net.filter fun o => decide (o.hid ≠ s.cur.hid) || o.ent.sup }
  let kept := ((s.core.pipe ++ s.core.net).filter fun o => decide (o.hid = s.cur.hid)).map (·.ent.id) ++
    (s.hart.bops.filter (·.sup)).map (·.id)
  s.mapHart fun h => { h with vholds := h.vholds.filter fun k => kept.contains k.id }

/-- A return of lanes that the focused hart's context has not taken at a `vsetvl` is taken back with it (R299)
(DEDUCED, log entry 29). -/
def State.dropGive (s : State) : State :=
  match s.hart.gave with
  | [] => s
  | g :: _ => if s.hart.givePend then s.modHart { s.cur with hid := g } fun h => { h with leaving := false } else s

/-- A sparing pending for the focused hart's lanes is discarded with them (R322). -/
def State.dropSparing (s : State) : State :=
  s.mapCore fun c => { c with sparePend := c.sparePend.filter fun l => !s.hart.ownsLane l }

/-- The focused hart becomes free, what is in flight having landed: its context's parameter block is given up with it (R263)
(DEDUCED, log entry 60). -/
def State.freeHart (s : State) : State :=
  (storesAll (landAll (inflBound s.hart + 1) s)).dropUnits.dropGive.mapHart Hart.freed

/-- The context of the focused hart is gone and a handler goes on there (R306). -/
def State.emptyHart (s : State) : State := s.dropUnits.dropGive.mapHart Hart.emptied

/-! ### Where an area lies -/

/-- Bytes of an area (R302). -/
def areaBytes (helm : Bool) (cwLen : Nat) : Nat := (if helm then 0x20900 else 0xCD00) + cwLen * 4096

def windowOff (helm : Bool) : Nat := if helm then 0x20900 else 0xCD00

/-- The offset in the first page and the physical pages of an area that is wholly mapped in beacon space (R306). -/
def State.areaPages (s : State) (x : Xl) (va : Word) (len : Nat) (write : Bool) : Option (Nat × List Nat) :=
  let page (k : Nat) : Option Nat :=
    match translate x.die s.pkg (s.getDie x.die).ranges x.ctx x.root (wordOf ((va.toNat / 4096 + k) * 4096)) with
    | none => none
    | some t =>
      let pa := t.pa ((va.toNat / 4096 + k) * 4096)
      if inBeacon pa && !s.pkg.cutOff x.die (homeDie pa) && t.allows (if write then .write else .read) x.user &&
          !(write && (inRunTable pa || inScopeTable pa || inCapTable pa)) then some pa else none
  if va.toNat % 64 ≠ 0 ∨ 2 ^ 48 < va.toNat + len then none
  else ((List.range ((va.toNat % 4096 + len + 4095) / 4096)).mapM page).map fun ps => (va.toNat % 4096, ps)

/-! ### The image of a context -/

/-- The words of a register slice set: P bytes of an L-lane hart. -/
def regWords (l : Nat) (x : VBits) : List Word := (List.range (4 * l)).map fun k => wordOf (x.toNat / 2 ^ (64 * k) % 2 ^ 64)

/-- A mask in its lanes' slices: bit i in lane i mod Leff at bit ⌊i / Leff⌋ (R96). -/
def maskSlices (leff : Nat) (m : MBits) : VBits :=
  BitVec.ofNat 8192 ((List.range (256 * leff)).foldl (fun n i =>
    if m.getLsbD i then n + 2 ^ (256 * (i % leff) + i / leff) else n) 0)

/-- The mask that lies in lanes' slices. -/
def maskOfSlices (leff : Nat) (x : VBits) : MBits :=
  BitVec.ofNat 8192 ((List.range (256 * leff)).foldl (fun n i =>
    if x.getLsbD (256 * (i % leff) + i / leff) then n + 2 ^ i else n) 0)

/-- The four words of a queue entry: its word, its address, what it captured, its scalar operand. -/
def VEntry.words (x : VEntry) : List Word :=
  [x.word.setWidth 64, x.addr, wordOf (x.vl % 2 ^ 14 + x.vcfg.toNat * 2 ^ 14 + x.cap % 2 ^ 14 * 2 ^ 23 + x.rm.code * 2 ^ 37),
   (x.sv[0]?).getD 0]

def PortSt.words (p : PortSt) : List Word := if p.bound then [p.handle, p.layout, wordOf p.pos, p.status] else [0, 0, 0, 0]

def Frag.words (f : Frag) : List Word := [f.resume, if f.waiting then 2 else 1]

def padWords (n : Nat) (ws : List Word) : List Word := (ws ++ List.replicate n 0).take n

/-- Offsets 0x000 to 0x7F8. -/
def State.headWords (s : State) (rpc : Word) (frozen : Bool) : List Word :=
  let h := s.hart
  let l := if h.hst.helm then 0 else h.lanes
  let lost := (h.ctx.map (·.lost)).getD false
  [wordOf (l * 2 ^ 48 + min h.vq.length 32 * 2 ^ 40 + h.hst.helm.toNat * 2 ^ 15 + frozen.toNat * 2 ^ 14 + lost.toNat * 2 ^ 13 + 1),
   rpc, h.trpc, h.trcause, h.trfrom] ++ h.trlg.toList ++
  [wordOf h.fcr.code, h.xst.setWidth 64] ++ h.xi.toList ++ [h.hst.word, wordOf h.vl, h.vcfg.setWidth 64, wordOf h.vcap] ++
  (0 :: h.s.toList.drop 1) ++ (h.tk.toList.map fun t => wordOf (t.cnt.toNat + t.out % 128 * 2 ^ 32)) ++
  h.ports.toList.flatMap PortSt.words ++ padWords 8 (h.frags.flatMap Frag.words) ++
  padWords 128 (h.vq.flatMap VEntry.words) ++
  padWords 16 (if h.hst.helm then
      [s.quad.mxc, wordOf (s.quad.mg + s.quad.ng * 2 ^ 8 + s.quad.kg * 2 ^ 16), s.quad.ten.setWidth 64] else [])

/-- Offset 0x800 of other harts than a helm core: registers, masks, FM, buffer masks and restore masks. -/
def Hart.bodyWords (h : Hart) : List Word :=
  let l := h.lanes
  let mk (m : MBits) : List Word :=
    regWords l (if h.hst.prot then mirrorBits h.leff (maskSlices (max 1 h.leff) m) else maskSlices (max 1 h.leff) m)
  let fr (k : Nat) (f : Frag → MBits) : List Word := mk (((h.frags[k]?).map f).getD 0)
  h.v.toList.flatMap (regWords l) ++ h.m.toList.flatMap mk ++ mk h.fm ++
    (List.range 4).flatMap (fun k => fr k Frag.mask) ++ (List.range 4).flatMap fun k => fr k Frag.restore

/-- The words of a tile. -/
def Quad.tileWords (q : Quad) (t : Nat) : List Word := (List.range 2048).map fun k => q.tiles.word (t * 0x4000 + 8 * k)

/-- The words of a Chart window. -/
def Core.windowWords (c : Core) (base len : Nat) : List Word :=
  (List.range (len * 512)).map fun k => c.chart.word (base * 4096 + 8 * k)

/-- Bytes covered by an area's pages lose their poison marks. -/
def Saved.unpoison (v : Saved) (marks : List Nat) (len : Nat) : List Nat :=
  ((List.range v.pages.length).zip v.pages).foldl (fun ms p =>
    let lo := if p.1 = 0 then v.areaOff else 0
    let hi := min 4096 (v.areaOff + len - 4096 * p.1)
    clearPoison ms (p.2 + lo) (hi - lo)) marks

/-- Write the context of the focused hart into an area (R302). -/
def State.writeArea (s : State) (v : Saved) (rpc : Word) (frozen : Bool) : State :=
  let h := s.hart
  let helm := h.hst.helm
  let m := v.putWords s.pkg.mem 0 (s.headWords rpc frozen)
  let m := if helm then
      (List.range 8).foldl (fun m t => if s.quad.ten.getLsbD t then v.putWords m (0x800 + t * 0x4000) (s.quad.tileWords t) else m) m
    else v.putWords m 0x800 h.bodyWords
  let m := v.putWords m (identOff helm) (v.ctx.words v.origin)
  let m := v.putWords m (windowOff helm) (s.core.windowWords v.ctx.cwBase v.ctx.cwLen)
  s.mapPkg fun p => { p with mem := m, beaconPoison := v.unpoison p.beaconPoison (areaBytes helm v.ctx.cwLen) }

/-- A port from its four words; `p` gives it no kept translation, so the next access translates again. -/
def Saved.readPort (v : Saved) (m : Mem) (k : Nat) : PortSt :=
  let w (j : Nat) : Word := v.word m (0x240 + 32 * k + 8 * j)
  let st := w 3
  if bitOf st 63 then
    { bound := true, handle := w 0, layout := w 1, pos := (w 2).toNat, atEnd := bitOf st 61, broken := bitOf st 60
      last := bitsOf st 13 0, tr := none }
  else PortSt.unbound

/-! ### The end of a saved context (R266) -/

/-- A saved context is killed: its ports as for a running hart, KT counts it, its area is forgotten. -/
def State.killSaved (s : State) (d : Nat) (v : Saved) : State :=
  let m := s.pkg.mem
  let s := s.mapPkg fun p =>
    let p := (List.range 8).foldl (fun p k => p.breakPort (v.readPort m k)) p
    if v.ctx.scope = 0 then p else (p.modCnt v.ctx.scope fun c => c.addKt 1).dropMembers v.ctx.scope 1
  s.putDie d { s.getDie d with saved := (s.getDie d).saved.filter fun x => decide (x.ctx.id ≠ v.ctx.id) }

/-! ### Saving -/

/-- Every posting operation of the hart's own units has completed (R301 step 3), but for what waits behind a frozen queue, which
performs with the save (DEDUCED, log entry 73); the helm core also waits for the array. -/
def State.unitsQuiet (s : State) : Bool :=
  (s.core.divider.all fun o => decide (o.hid ≠ s.cur.hid)) && (s.core.oldest .pipe s.cur.hid).isNone &&
    (s.core.oldest .net s.cur.hid).isNone && (s.hart.bops.all fun b => !b.started || decide (b.kind matches .fence _) ||
      (s.hart.queueFrozen && !b.sup && s.bopHeld b)) && s.hart.late.all (·.sup) &&
    (!s.hart.hst.helm || s.quad.mops.isEmpty)

/-- Save the context of the focused hart in an area; `queued` for the Plotter's own saves (DEDUCED, log entry 64). A context saved
while its scope is cancelled is killed at once (R266). -/
def State.saveInto (s : State) (off : Nat) (pages : List Nat) (slot : Option Nat) (rpc : Word) (queued : Bool) : State :=
  match s.hart.ctx with
  | none => s
  | some c =>
    let h := s.hart
    let ids := h.vq.map VEntry.id
    let v : Saved :=
      { areaOff := off, pages := pages, slot := slot, queued := queued, ctx := c, prio := h.hst.prio.val
        lanes := if h.hst.helm then 0 else h.lanes, origin := s.cur
        pendS := h.pendS.filter fun p => !p.1 && !ids.contains p.2.2, sv := h.vq.map VEntry.sv }
    let s := s.writeArea v rpc h.qf
    let s := s.mapDie fun d => { d with saved := (d.saved.filter fun w => !decide (w.areaOff = off ∧ w.pages = pages)) ++ [v] }
    match s.pkg.scopeState c.scope with
    | some .cancelling => s.killSaved s.cur.die v
    | some .cancelled => s.killSaved s.cur.die v
    | _ => s

/-! ### Restoring -/

/-- The identity block of an area: translation, scope and task identity (R302). -/
def Saved.readIdent (v : Saved) (m : Mem) (helm : Bool) (id age : Nat) : Ctx :=
  let w (k : Nat) : Word := v.word m (identOff helm + 8 * k)
  let n := min 8 (bitsOf (w 8) 3 0)
  { id := id, use := w 0, scope := w 1, iter := (w 2).toNat, tctx := bitsOf (w 3) 7 0, root := (w 4).toNat
    cwLen := bitsOf (w 5) 55 48, cwBase := bitsOf (w 5) 39 32
    graph := if w 6 = 0 then none
             else some { die := (v.ctx.graph.map (·.die)).getD (bitsOf (w 3) 9 8), area := wordOf (bitsOf (w 6) 47 0), node := bitsOf (w 6) 63 48
                         replay := (v.ctx.graph.map (·.replay)).getD 0 }
    block := v.ctx.block, age := age
    faults := (List.range n).map fun k => ⟨k, w (9 + 2 * k), w (10 + 2 * k)⟩
    lostFaults := bitsOf (w 8) 63 32, lost := bitOf (v.word m 0) 13 }

/-- Register bits from an offset on. -/
def Saved.readReg (v : Saved) (m : Mem) (l o : Nat) : VBits :=
  BitVec.ofNat 8192 ((List.range (4 * l)).foldl (fun n k => n + (v.word m (o + 8 * k)).toNat * 2 ^ (64 * k)) 0)

/-- Queue entry k. Scalar operands beyond the first are those the save kept; in an area it does not know they are free values
(DESIGN CHOICE, log entry 1) (DEDUCED, log entry 64). -/
def Saved.readEntry (v : Saved) (m : Mem) (k id : Nat) : Option VEntry :=
  let w (j : Nat) : Word := v.word m (0x380 + 32 * k + 8 * j)
  let word := bitsOf (w 0) 31 0
  (entryOp word).map fun op =>
    { id := id, op := op, word := BitVec.ofNat 32 word, addr := w 1, vl := bitsOf (w 2) 13 0
      vcfg := BitVec.ofNat 9 (bitsOf (w 2) 22 14), cap := bitsOf (w 2) 36 23, rm := rmOfNat (bitsOf (w 2) 38 37)
      sv := w 3 :: (List.range 3).map fun j => ((v.sv[k]?).bind (·[j + 1]?)).getD (Config.freeWord (id + j))
      tok := entryToken word, sup := false, slot := 0, dones := [], fm := BitVec.allOnes 8192 }

/-- The hart of an area: the banks, the record, queue and vector state; mode, split and HID stay the hart's own. -/
def Saved.readHart (v : Saved) (m : Mem) (h : Hart) (fresh : Nat) : Hart :=
  let w (o : Nat) : Word := v.word m o
  let hst := w 0xA0
  let prot := bitOf hst 7
  let helm := h.hst.helm
  let l := h.lanes
  let p := 32 * l
  let leff := max 1 (if prot then l / 2 else l)
  let mask (k : Nat) : MBits := maskOfSlices leff (v.readReg m l (0x800 + p * k))
  let qn := if helm then 0 else min 32 (bitsOf (w 0) 47 40)
  let q := (List.range qn).filterMap fun k => v.readEntry m k (fresh + 64 * k)
  let trcause := w 0x18 &&& trcauseFields
  let frag (k : Nat) : Option Frag :=
    let st := bitsOf (w (0x348 + 16 * k)) 1 0
    if st = 0 then none
    else some { mask := mask (41 + k), resume := w (0x340 + 16 * k), restore := mask (45 + k), waiting := decide (st = 2) }
  let h1 : Hart :=
    { h with
      trpc := codeAddr (w 0x10), trcause := trcause, trfrom := codeAddr (w 0x20)
      trlg := Vector.ofFn fun k => w (0x28 + 8 * k.val) &&& 0x3FFF
      fcr := rmOfNat (w 0x68).toNat, xst := (w 0x70).setWidth 5, xi := Vector.ofFn fun k => w (0x78 + 8 * k.val)
      hst := { h.hst with prio := ⟨bitsOf hst 12 10 % 8, Nat.mod_lt _ (by decide)⟩, recl := bitOf hst 8, prot := prot
                          rchk := bitOf hst 6 }
      vl := bitsOf (w 0xA8) 13 0, vcfg := (w 0xB0).setWidth 9, vcap := bitsOf (w 0xB8) 13 0
      s := Vector.ofFn fun k => if k.val = 0 then 0 else w (0xC0 + 8 * k.val)
      tk := Vector.ofFn fun k => ⟨(w (0x1C0 + 8 * k.val)).setWidth 32, bitsOf (w (0x1C0 + 8 * k.val)) 38 32⟩
      ports := Vector.ofFn fun k => v.readPort m k.val
      vq := q, beat := h.slot, bops := h.bops ++ q.flatMap fun x => x.op.bop x }
  let h2 : Hart :=
    if helm then h1
    else
      { h1 with
        v := Vector.ofFn fun k => v.readReg m l (0x800 + p * k.val), m := Vector.ofFn fun k => mask (32 + k.val)
        fm := mask 40, frags := (List.range 4).filterMap frag }
  -- destinations of the queue's posting entries are pending again, but for a head whose increment counts as cancelled
  let marked := if bitOf trcause 15 && bitOf trcause 12 && !bitOf trcause 13 && bitOf trcause 14 then q.drop 1 else q
  let h3 := marked.foldl (fun h x =>
    match x.op.sdest with
    | some d => h.markS false d x.id
    | none => h) h2
  { h3 with pendS := h3.pendS ++ v.pendS }

/-- Load a saved context onto the focused hart, its Chart window and, on a helm core, its matrix state (R303, R306). -/
def State.restore (s : State) (v : Saved) : State :=
  let m := s.pkg.mem
  let helm := s.hart.hst.helm
  let w (o : Nat) : Word := v.word m o
  let s := s.mapCore fun c =>
    { c with
      chart := (List.range (v.ctx.cwLen * 512)).foldl (fun ch k =>
        ch.setWord (v.ctx.cwBase * 4096 + 8 * k) (w (windowOff helm + 8 * k))) c.chart
      chartPoison := clearPoison c.chartPoison (v.ctx.cwBase * 4096) (v.ctx.cwLen * 4096)
      unwritten := if helm then c.unwritten else c.unwritten.filter fun x => !s.hart.ownsLane x.1 }
  let s := if helm then
      s.mapQuad fun q =>
        let ten : BitVec 8 := (w 0x790).setWidth 8
        let q := { q with
          ten := ten, mxcV := bitOf (w 0x780) 15, bfmt := BitVec.ofNat 5 (bitsOf (w 0x780) 12 8)
          afmt := BitVec.ofNat 5 (bitsOf (w 0x780) 4 0), mg := bitsOf (w 0x788) 6 0, ng := bitsOf (w 0x788) 14 8
          kg := bitsOf (w 0x788) 27 16 }
        (List.range 8).foldl (fun q t =>
          if ten.getLsbD t then
            { q with
              tiles := (List.range 2048).foldl (fun t' k => t'.setWord (t * 0x4000 + 8 * k) (w (0x800 + t * 0x4000 + 8 * k))) q.tiles
              tilePoison := clearPoison4 q.tilePoison t }
          else q) q
    else s
  ((s.mapHart fun h => { v.readHart m h s.fresh with ctx := some v.ctx }).mapDie fun d =>
    { d with saved := d.saved.filter fun x => !decide (x.areaOff = v.areaOff ∧ x.pages = v.pages) }).bump 2112
where
  clearPoison4 (marks : List Nat) (t : Nat) : List Nat := marks.filter fun c => !decide (t * 0x800 ≤ c ∧ c < (t + 1) * 0x800)

end Sys2Proof.Machine
end

