-- ==== Sys2Proof/Machine/Tasks.lean ====
section
/-! DEFINITION. Loop-nest records (R257 to R260), the Plotter (R261, R262, R270), the prefetcher (R263), the start and the
retirement of tasks (R271), pre-emption (R298) and the Plotter's full saves and restores (R301, R303). -/
namespace Sys2Proof.Machine

/-! ### Records (R257, R258) -/

def recW (r : List Word) (k : Nat) : Word := (r[k]?).getD 0

def recUse (r : List Word) : BitVec 64 := recW r 1
def recPlen (r : List Word) : Nat := bitsOf (recW r 2) 59 48
def recPsrc (r : List Word) : Nat := bitsOf (recW r 2) 47 0
def recStk (r : List Word) : Nat := bitsOf (recW r 3) 50 32
def recPdst (r : List Word) : Nat := bitsOf (recW r 3) 18 0
def recPin (r : List Word) : Bool := bitOf (recW r 4) 39
def recVcap (r : List Word) : Nat := bitsOf (recW r 4) 37 24
/-- The loop at nest position k. -/
def recOrd (r : List Word) (k : Nat) : Nat := bitsOf (recW r 4) (17 + 2 * k) (16 + 2 * k)
def recNl (r : List Word) : Nat := bitsOf (recW r 4) 10 8
def recHelm (r : List Word) : Bool := bitOf (recW r 4) 7
def recProt (r : List Word) : Bool := bitOf (recW r 4) 6
def recRecl (r : List Word) : Bool := bitOf (recW r 4) 5
def recSplit (r : List Word) : Nat := bitsOf (recW r 4) 4 3
def recPrio (r : List Word) : Nat := bitsOf (recW r 4) 2 0
def recScope (r : List Word) : Word := recW r 5
def recCwLen (r : List Word) : Nat := bitsOf (recW r 6) 55 48
def recCwBase (r : List Word) : Nat := bitsOf (recW r 6) 39 32
def recPmask (r : List Word) : Nat := bitsOf (recW r 6) 7 0
def recStart (r : List Word) (l : Nat) : Word := recW r (8 + 2 * l)
/-- STEP of loop l, sign-extended. -/
def recStep (r : List Word) (l : Nat) : Word := sextTo64 32 (wordOf (bitsOf (recW r (9 + 2 * l)) 63 32))
def recCount (r : List Word) (l : Nat) : Nat := bitsOf (recW r (9 + 2 * l)) 31 0

/-- Lanes of a hart at a SPLIT (R95). -/
def splitLanes (split : Nat) : Nat := 32 / 2 ^ split

/-- Iterations of a record (R260). -/
def recTotal (r : List Word) : Nat := ((List.range (recNl r)).map fun k => recCount r (recOrd r k)).foldl (· * ·) 1

/-- A record is well formed (R259); `maxPrio` binds a spawner in user mode (DEDUCED, log entry 38). -/
def recOk (r : List Word) (maxPrio : Option Nat) : Bool :=
  let nl := recNl r
  let size := if recHelm r then Config.helmChartBytes else Config.chartBytes
  decide (bitsOf (recW r 0) 63 48 = 0 ∧ bitsOf (recW r 0) 1 0 = 0 ∧ bitsOf (recW r 1) 63 24 = 0 ∧
    bitsOf (recW r 2) 63 60 = 0 ∧ bitsOf (recW r 2) 2 0 = 0 ∧ bitsOf (recW r 3) 63 51 = 0 ∧ bitsOf (recW r 3) 31 19 = 0 ∧
    bitsOf (recW r 3) 35 32 = 0 ∧ bitsOf (recW r 3) 2 0 = 0 ∧ bitsOf (recW r 4) 63 40 = 0 ∧ bitsOf (recW r 4) 38 38 = 0 ∧
    bitsOf (recW r 4) 15 11 = 0 ∧ bitsOf (recW r 6) 63 56 = 0 ∧ bitsOf (recW r 6) 47 40 = 0 ∧ bitsOf (recW r 6) 31 8 = 0 ∧
    bitsOf (recW r 7) 47 0 = 0 ∧ nl ≤ 4) &&
  (List.range 4).all (fun k => if k < nl then decide (((List.range nl).filter fun j => recOrd r j = k).length = 1)
                               else decide (recOrd r k = 0)) &&
  (List.range 4).all (fun l => if l < nl then decide (recStep r l ≠ 0 ∧ recCount r l ≠ 0)
                               else decide (recW r (8 + 2 * l) = 0 ∧ recW r (9 + 2 * l) = 0)) &&
  decide (recPdst r + 8 * recPlen r ≤ size ∧ recStk r ≤ size) &&
  decide (recHelm r = true → recSplit r = 0 ∧ recProt r = false) &&
  decide (recCwBase r + recCwLen r ≤ if recHelm r then 16 else 96) &&
  (match maxPrio with
   | some p => decide (recPrio r ≤ p)
   | none => true)

/-- s1 to s4 of iteration n (R260): digit by digit, the innermost position first. -/
def recIndices (r : List Word) (n : Nat) : List Word :=
  let digits := (List.range (recNl r)).reverse.foldl (fun (acc : Nat × List (Nat × Nat)) k =>
    let l := recOrd r k
    (acc.1 / max 1 (recCount r l), (l, acc.1 % max 1 (recCount r l)) :: acc.2)) (n, [])
  (List.range 4).map fun l =>
    if l < recNl r then recStart r l + wordOf ((digits.2.find? fun d => decide (d.1 = l)).map (·.2) |>.getD 0) * recStep r l
    else 0

/-! ### Blocks in beacon space -/

/-- A beacon word for a party that is no hart (R170): its physical address. -/
def State.blockAddr (s : State) (x : Xl) (va : Word) (write : Bool) : Option Nat :=
  if va.toNat % 8 ≠ 0 then none
  else
    match translate x.die s.pkg (s.getDie x.die).ranges x.ctx x.root va with
    | none => none
    | some t =>
      let pa := t.pa va.toNat
      if !inBeacon pa || s.pkg.cutOff x.die (homeDie pa) || !t.allows (if write then .write else .read) x.user then none
      else if write && (inRunTable pa || inScopeTable pa || inCapTable pa) then none
      else some pa

/-- n words from an address on; nothing where one of them fails. -/
def State.blockAddrs (s : State) (x : Xl) (va : Word) (write : Bool) : Nat → Option (List Nat)
  | 0 => some []
  | n + 1 =>
    match s.blockAddr x va write with
    | none => none
    | some pa => (s.blockAddrs x (va + 8) write n).map fun l => pa :: l

def State.readBlock (s : State) (x : Xl) (va : Word) (n : Nat) : Option (List Word) :=
  (s.blockAddrs x va false n).map fun l => l.map s.pkg.mem.word

def State.writeBlock (s : State) (x : Xl) (va : Word) (ws : List Word) : Option State :=
  (s.blockAddrs x va true ws.length).map fun l => (l.zip ws).foldl (fun s p => s.beaconWrite p.1 p.2) s

/-! ### Queues (R261, R270) -/

/-- Records a queue holds at most. -/
def queueRecords : Nat := 512

/-- The end of the iterations a record may hand out: not those it lends (R328). -/
def QRec.limit (r : QRec) : Nat :=
  match r.lent with
  | some (lo, _, _) => lo
  | none => r.last

def QRec.left (r : QRec) : Nat := r.limit - r.next

/-- A record of its queue before another: older first. -/
def insertAge (r : QRec) : List QRec → List QRec
  | [] => [r]
  | x :: xs => if r.age < x.age then r :: x :: xs else x :: insertAge r xs

def Die.queue (d : Die) (prio : Nat) : List QRec := d.queues.filter fun r => decide (r.prio = prio)

/-- What became of a record that a spawn brings. -/
inductive Placed where
  | queued (s : State)
  | full
  | unmapped (prio : Nat)

/-- The record of a spawn, a new one in age. -/
def State.newRec (s : State) (ws : List Word) (graph : Option GraphRef) (tctx root : Nat) (listing : Option Nat) : QRec :=
  { words := ws, next := 0, last := recTotal ws, prio := recPrio ws, age := s.pkg.nextAge, entered := 0, lent := none
    borrowed := false, graph := graph, tctx := tctx, root := root, listing := listing }

/-- Steps 3 and 4 of R270: into the queue of its priority, else into the overflow ring
(DESIGN CHOICE, log entry 61). -/
def State.placeRec (s : State) (die : Nat) (r : QRec) : Placed :=
  let d := s.getDie die
  let count (s : State) : State :=
    s.mapPkg fun p => { p.addMembers (recScope r.words) r.last with nextAge := p.nextAge + 1 }
  if (d.queue r.prio).length < queueRecords then
    .queued (count (s.putDie die { d with queues := insertAge { r with entered := d.cycles } d.queues }))
  else if d.ringSlots ≤ d.ring.length then .full
  else
    let slot := (d.ringHead + d.ring.length) % d.ringSlots
    match s.writeBlock ⟨die, d.ringUser.1, d.ringUser.2, false⟩ (wordOf (d.ringBase + 128 * slot)) r.words with
    | none => .unmapped r.prio
    | some s => .queued (count (s.putDie die { s.getDie die with ring := d.ring ++ [r] }))

/-- The oldest spilled record returns to its queue once that has room (R270) (DESIGN CHOICE, log entry 61). -/
def State.spillBack (s : State) : State :=
  match s.die.ring with
  | [] => s
  | r :: rest =>
    if (s.die.queue r.prio).length < queueRecords then
      s.mapDie fun d =>
        { d with ring := rest, ringHead := (d.ringHead + 1) % max 1 d.ringSlots
                 queues := insertAge { r with entered := d.cycles } d.queues }
    else s

/-- A record has waited 2^20 cycles in its queue, and the next higher queue has room for it (R262). One that is due while that queue
holds 512 records waits for room (DESIGN CHOICE, log entry 116). -/
def Die.mayPromote (d : Die) (r : QRec) : Bool :=
  decide (r.prio < 7 ∧ r.entered + 2 ^ 20 ≤ d.cycles ∧ (d.queue (r.prio + 1)).length < queueRecords)

/-- The k-th record of a queue moves up one queue, if it may (R262) (DESIGN CHOICE, log entry 116). -/
def State.promote (s : State) (prio k : Nat) : State :=
  match (s.die.queue prio)[k]? with
  | none => s
  | some r =>
    if s.die.mayPromote r then
      s.mapDie fun d =>
        { d with queues := d.queues.map fun x => if x.age = r.age ∧ x.last = r.last then { x with prio := prio + 1, entered := d.cycles } else x }
    else s

/-! ### Checks of a record that is spawned (R270) -/

inductive RecCheck where
  | trap (c : Cause)
  | status (n : Nat) (s : State)
  | ok (ws : List Word)

/-- The record at an address: the sixteen words, or the trap (R257, R270). -/
def State.readRecord (s : State) (va : Word) : Except Cause (List Word) :=
  if va.toNat % 64 ≠ 0 then .error .beacon
  else
    match s.blockAddrs (s.xl s.hart.hst.mode) va false 16 with
    | none => .error .beacon
    | some pas => if pas.any s.beaconPoisoned then .error .poison else .ok (pas.map s.pkg.mem.word)

/-- The use mask that the caller itself has declared: its context's, in a handler too; of a handler without one, its core's
capabilities (R270) (DEDUCED, log entry 110). -/
def State.ownUse (s : State) : BitVec 64 := (s.hart.ctx.map (·.use)).getD (s.pkg.capOf s.cur)

/-- The fields of a record that its spawner is checked for: R259, and a USE within a mask (R270). -/
def recAllowed (r : List Word) (maxPrio : Option Nat) (use : BitVec 64) : Bool :=
  recOk r maxPrio && decide (recUse r &&& ~~~use = 0)

/-- PRIO of a spawned record is bounded in user mode (R259). -/
def State.maxPrio (s : State) : Option Nat := if s.hart.hst.mode then none else some s.hart.hst.prio.val

/-- Checks of a record: 2 INVAL, 3 KILLED; a spawn into a scope that is CANCELLING counts its iterations in KQ (R266). NODE is zero
in a record that is spawned; `gadd` writes it (R257) (DEDUCED, log entry 38) (DEDUCED, log entry 110). -/
def State.checkRecord (s : State) (va : Word) (node : Bool := false) : RecCheck :=
  match s.readRecord va with
  | .error c => .trap c
  | .ok ws =>
    let scope := if recScope ws = 0 then s.ownScope else recScope ws
    let ws := ws.set 5 scope
    if !recAllowed ws s.maxPrio s.ownUse || !s.related scope || !(node || decide (recW ws 7 = 0)) then .status 2 s
    else
      match s.pkg.scopeState scope with
      | some .live => .ok ws
      | some .cancelling => .status 3 (s.mapPkg fun p => p.modCnt scope fun c => c.addKq (recTotal ws))
      | _ => .status 3 s

/-! ### Cores that can take a record (R261) -/

def State.hartAt (s : State) (c : HartId) (k : Nat) : Hart := s.getHart { c with hid := k }

/-- Hart k of a core is free for a task of L lanes (DEDUCED, log entry 115). -/
def State.freeFor (s : State) (c : HartId) (k l : Nat) : Bool :=
  let h := s.hartAt c k
  s.idleAt { c with hid := k } && !h.stopped && !h.leaving && (h.hst.helm || decide (h.lanes = l))

/-- Every hart and shadow slot of a core is free. -/
def State.coreFree (s : State) (c : HartId) : Bool :=
  (s.getCore c).shadow.isEmpty && (List.range (if c.core = 4 then 1 else 8)).all fun k => s.idleAt { c with hid := k }

/-- A core that could take a record once it has a free shadow slot. -/
def State.coreFits (s : State) (c : HartId) (r : List Word) : Bool :=
  let d := s.getDie c.die
  let cap := s.pkg.capOf c
  decide (recUse r &&& ~~~cap = 0) && (!recProt r || cap.getLsbD 23) && decide (recHelm r = decide (c.core = 4)) &&
    decide (d.draining ≠ some c.quad) && !d.gated && (!recHelm r || (s.getQuad c).mops.isEmpty)

/-- The core's split equals the record's, or the core is free to take it. -/
def State.splitFits (s : State) (c : HartId) (r : List Word) : Bool :=
  recHelm r || s.coreFree c ||
    (List.range 8).any fun k => decide ((s.hartAt c k).lanes = splitLanes (recSplit r))

def State.eligible (s : State) (c : HartId) (r : List Word) : Bool :=
  s.coreFits c r && s.splitFits c r && decide ((s.getCore c).shadow.length < 2)

/-- The cores of a die, lowest quad first. -/
def dieCores (d : Nat) : List HartId :=
  (List.range 40).flatMap fun q => (List.range 5).map fun c => ⟨d, q, c, 0⟩

/-- A task is prepared: it may start (R263). -/
def Shadow.runnable (x : Shadow) : Bool := x.copied && decide (8 ≤ x.nextPort)

/-- A core with a free hart and no prepared task waiting: a hart that no task in its shadow slots takes (R261, R279). -/
def State.readyCore (s : State) (c : HartId) (r : List Word) : Bool :=
  let free := (List.range (if c.core = 4 then 1 else 8)).filter fun k => s.freeFor c k (splitLanes (recSplit r))
  (s.getCore c).shadow.all (fun x => !x.runnable) && (s.coreFree c || decide ((s.getCore c).shadow.length < free.length))

/-- The core a record goes to. -/
def State.chooseCore (s : State) (d : Nat) (r : List Word) : Option HartId :=
  let el := (dieCores d).filter fun c => s.eligible c r
  match el.find? fun c => s.readyCore c r with
  | some c => some c
  | none => el.head?

/-- Lay out the harts of a free core for a SPLIT (R95) (DEDUCED, log entry 65). -/
def State.layoutCore (s : State) (c : HartId) (split : Nat) : State :=
  let l := splitLanes split
  (List.range 8).foldl (fun s k =>
    s.modHart { c with hid := k } fun h =>
      let own := decide (k < 2 ^ split)
      { h with lanes := if own then l else 0, lane0 := if own then k * l else 0, gave := [], leaving := false
               hst := { h.hst with split := splitOf l } }) s

/-- The Chart image of a listing, put into a Chart; a word that it covers wholly loses its poison mark (R310)
(DEDUCED, log entry 109). -/
def Vexud.image (v : Vexud) (l : Nat) (c : Core) : Core :=
  match v.listings[l]? with
  | some x =>
    { c with chart := x.chart.foldl (fun m p => m.write p.1 p.2) c.chart
             chartPoison := c.chartPoison.filter fun w => !(List.range 8).all fun k => x.chart.any fun p => decide (p.1 = 8 * w + k) }
  | none => c

/-- An iteration enters a shadow slot (R263); a core that is wholly free takes the record's split. The Chart image of its
listing is put whole into the Chart of the core at each hand-out (R150) (DEDUCED, log entry 109). -/
def State.enterShadow (s : State) (c : HartId) (r : QRec) : State :=
  let s := if !recHelm r.words && s.coreFree c &&
        !(List.range 8).all (fun k => decide ((s.hartAt c k).lanes = if k < 2 ^ recSplit r.words then splitLanes (recSplit r.words) else 0)) then
      s.layoutCore c (recSplit r.words) else s
  let core := match r.listing with
    | some l => s.pkg.vexud.image l (s.getCore c)
    | none => s.getCore c
  let sh : Shadow :=
    { words := r.words, n := r.next, prio := r.prio, age := r.age, graph := r.graph, order := s.pkg.nextAge
      copied := false, nextPort := 0, ports := Vector.replicate 8 PortSt.unbound, fault := none, tctx := r.tctx, root := r.root
      listing := r.listing }
  (s.putCore c { core with shadow := core.shadow ++ [sh] }).mapPkg fun p => { p with nextAge := p.nextAge + 1 }

/-- Hand out a record's next iteration; with the last one the record leaves its queue. -/
def State.handOut (s : State) (d : Nat) (r : QRec) (c : HartId) : State :=
  let s := s.enterShadow c r
  let die := s.getDie d
  let queues := die.queues.filterMap fun x =>
    if x.age = r.age ∧ x.next = r.next then
      (if r.next + 1 = r.last then none else some { x with next := r.next + 1 })
    else some x
  s.putDie d { die with queues := queues }

/-! ### Saved contexts in the queues (R301, R303) -/

/-- A saved context may be restored onto a hart: a free one of equal L, or the first of a core with every hart and shadow slot
free, which takes any split (R261, R301) (DEDUCED, log entry 65). -/
def State.restorable (s : State) (v : Saved) (h : HartId) : Bool :=
  let x := s.getHart h
  let helm := decide (v.lanes = 0)
  let cap := s.pkg.capOf h
  let d := s.getDie h.die
  v.queued && s.idleAt h && !x.stopped && !x.leaving && decide (helm = x.hst.helm) &&
    (helm || decide (x.lanes = v.lanes) || (decide (h.hid = 0) && s.coreFree h)) &&
    decide (v.ctx.use &&& ~~~cap = 0) && decide (d.draining ≠ some h.quad) && !d.gated &&
    (!helm || (s.getQuad h).mops.isEmpty) &&
    (decide (v.ctx.cwLen ≠ 0) || decide (coreKey h = coreKey v.origin) ||
      decide (v.ctx.use &&& ~~~(s.pkg.capOf v.origin) ≠ 0))

/-- The harts of a die that a saved context could take. -/
def State.restoreHarts (s : State) (d : Nat) (v : Saved) : List HartId :=
  ((dieCores d).flatMap fun c => (List.range (if c.core = 4 then 1 else 8)).map fun k => { c with hid := k }).filter
    fun h => s.restorable v h

/-! ### The Plotter's cycle (R261, R298) -/

/-- Higher priority first, then the older. -/
def before (p a p' a' : Nat) : Bool := decide (p' < p) || (decide (p = p') && decide (a < a'))

/-- The record the Plotter would hand out next, with its core. -/
def State.nextRec (s : State) (d : Nat) : Option (QRec × HartId) :=
  let die := s.getDie d
  ((List.range 8).reverse.flatMap fun p => die.queue p).findSome? fun r =>
    if r.left = 0 then none else (s.chooseCore d r.words).map fun c => (r, c)

/-- The saved context it would restore next. -/
def State.nextSaved (s : State) (d : Nat) : Option Saved :=
  ((s.getDie d).saved.filter fun v => v.queued && !(s.restoreHarts d v).isEmpty).foldl (fun best v =>
    match best with
    | some b => if before v.prio v.ctx.age b.prio b.ctx.age then some v else some b
    | none => some v) none

/-- A free pool slot for a context (R298, R303, R306). -/
def Die.freeSlot (d : Die) (helm : Bool) (cwLen : Nat) : Option (Nat × Nat) :=
  match (if helm then d.helmPool else d.pool) with
  | none => none
  | some p =>
    if p.cw < cwLen then none
    else
      ((List.range p.slots).find? fun k =>
        !(d.saved.any fun v => decide (v.slot = some k ∧ (v.lanes = 0) = (helm = true)))).map fun k =>
          (k, p.base + k * areaBytes helm p.cw)

/-- A context that R298 may pre-empt for a record of priority p on a core (DEDUCED, log entry 66). -/
def State.victimAt (s : State) (h : HartId) (r : List Word) (p : Nat) : Bool :=
  let x := s.getHart h
  x.ctx.isSome && !x.hst.mode && decide (x.hst.prio.val < p ∧ x.hst.prio.val ≤ 6) && s.coreFits h r &&
    decide ((s.getCore h).shadow.length < 2)

/-- A core would be free if it gave this hart up (DEDUCED, log entry 66). -/
def State.freeBut (s : State) (h : HartId) : Bool :=
  (s.getCore h).shadow.isEmpty && (List.range 8).all fun k => decide (k = h.hid) || s.idleAt { h with hid := k }

def State.dieHarts (s : State) (d : Nat) : List HartId := (s.allHarts.map (·.1)).filter fun h => decide (h.die = d)

/-- Of two candidates the one with the lower priority, then quad, core and HID. -/
def State.lowerVictim (s : State) (a b : HartId) : HartId :=
  let key (h : HartId) : List Nat := [(s.getHart h).hst.prio.val, h.quad, h.core, h.hid]
  if key b < key a then b else a

def State.lowestVictim (s : State) : List HartId → Option HartId
  | [] => none
  | h :: hs => some (hs.foldl s.lowerVictim h)

/-- The contexts that may be reclaimed into a record's split, and those that may be saved, the pool having room
(DEDUCED, log entry 66). -/
def State.victims (s : State) (d : Nat) (r : QRec) : List HartId × List HartId :=
  let l := splitLanes (recSplit r.words)
  let cand := (s.dieHarts d).filter fun h => s.victimAt h r.words r.prio
  (cand.filter fun h =>
     (s.getHart h).reclaimable && decide ((s.getHart h).lanes = 2 * l) && (s.focus h).freeHid.isSome,
   cand.filter fun h =>
     let x := s.getHart h
     ((recHelm r.words && x.hst.helm) || (!recHelm r.words && (decide (x.lanes = l) || s.freeBut h))) &&
       ((s.getDie d).freeSlot x.hst.helm ((x.ctx.map (·.cwLen)).getD 0)).isSome)

/-- Mark a victim for a record: a reclaim where that gives the record's split, else a full save; none while one is marked already,
and none where there is no such context (R298) (DEDUCED, log entry 66). -/
def State.preemptFor (s : State) (d : Nat) (r : QRec) : Option State :=
  let v := s.victims d r
  if (v.1.any fun h => (s.getHart h).reclPend) || (v.2.any fun h => (s.getHart h).savePend) then none
  else
    match s.lowestVictim v.1 with
    | some h => some (s.modHart h fun x => { x with reclPend := true })
    | none => (s.lowestVictim v.2).map fun h => s.modHart h fun x => { x with savePend := true }

/-- Of the records at the heads of their queues that no core is eligible for, the first with a context to give way to it, by
priority, has one pre-empted (R298) (DEDUCED, log entry 66). -/
def State.preempt (s : State) (d : Nat) : State :=
  let heads := (List.range 8).reverse.filterMap fun p => ((s.getDie d).queue p).find? fun r => decide (r.left ≠ 0)
  ((heads.filter fun r => (s.chooseCore d r.words).isNone).findSome? fun r => s.preemptFor d r).getD s

/-- A cycle of the focused die's Plotter: it hands out an iteration unless a saved context goes first, and pre-empts. -/
def State.plotterCycle (s : State) : State :=
  let d := s.cur.die
  let s := s.mapDie fun x => { x with cycles := x.cycles + 1 }
  let s := match s.nextRec d with
    | none => s
    | some (r, c) =>
      match s.nextSaved d with
      | some v => if before v.prio v.ctx.age r.prio r.age then s else s.handOut d r c
      | none => s.handOut d r c
  s.preempt d

/-! ### The prefetcher (R263) -/

def Shadow.xl (x : Shadow) (die : Nat) : Xl := ⟨die, x.tctx, x.root, true⟩

/-- Two spans of the Chart share a byte (DEDUCED, log entry 60). -/
def overlaps (a n b m : Nat) : Bool := decide (0 < n ∧ 0 < m ∧ a < b + m ∧ b < a + n)

/-- A block of the core still belongs to a task: of one that runs on it, or of one prepared before
(DEDUCED, log entry 60). -/
def State.blockBusy (s : State) (x : Shadow) : Bool :=
  let a := recPdst x.words
  let n := 8 * recPlen x.words
  ((List.range 8).any fun k => (s.hartAt s.cur k).ctx.any fun c => overlaps a n c.block.1 c.block.2) ||
    s.core.shadow.any fun y => decide (y.order < x.order) && overlaps a n (recPdst y.words) (8 * recPlen y.words)

def State.modShadow (s : State) (k : Nat) (f : Shadow → Shadow) : State :=
  s.mapCore fun c => { c with shadow := (c.shadow.zip (List.range c.shadow.length)).map fun p => if p.2 = k then f p.1 else p.1 }

/-- Step 1: the parameter block of the k-th shadow slot is copied into the Chart. -/
def State.prefetch (s : State) (k : Nat) : State :=
  match s.core.shadow[k]? with
  | none => s
  | some x =>
    if x.copied then s
    else if recPsrc x.words = 0 then s.modShadow k fun x => { x with copied := true }
    else if s.blockBusy x then s
    else
      match s.readBlock (x.xl s.cur.die) (wordOf (recPsrc x.words)) (recPlen x.words) with
      | none => s.modShadow k fun x => { x with copied := true, nextPort := 8, fault := some .beacon }
      | some ws =>
        let a := recPdst x.words
        (s.mapCore fun c =>
          { c with
            chart := (ws.zip (List.range ws.length)).foldl (fun m p => m.setWord (a + 8 * p.2) p.1) c.chart
            chartPoison := clearPoison c.chartPoison a (8 * ws.length) }).modShadow k fun x => { x with copied := true }

/-- Unbind what is bound for a task that has not started: write runs return to ALLOC (R263, R266). -/
def Pkg.unbindShadow (p : Pkg) (x : Shadow) : Pkg :=
  x.ports.toList.foldl (fun p q =>
    if !q.bound then p else if q.write then p.modRun q.handle RunD.unbindWrite else p.dropReader q.handle) p

/-- A pre-bind has failed: the ports are unbound, and the first instruction will trap. -/
def State.prebindFail (s : State) (k : Nat) (x : Shadow) (c : Cause) : State :=
  (s.mapPkg fun p => p.unbindShadow x).modShadow k fun x =>
    { x with nextPort := 8, ports := Vector.replicate 8 PortSt.unbound, fault := some c }

/-- Step 2: the next port of the k-th shadow slot. The hart is not known yet, so the run's writer names HID 0 until the
start (DEDUCED, log entry 59). -/
def State.prebind (s : State) (k : Nat) : State :=
  match s.core.shadow[k]? with
  | none => s
  | some x =>
    if !x.copied ∨ 8 ≤ x.nextPort then s
    else if !(recPmask x.words).testBit x.nextPort then s.modShadow k fun x => { x with nextPort := x.nextPort + 1 }
    else
      let p := x.nextPort
      let a := recPdst x.words + 16 * p
      let layout := s.core.chart.word (a + 8)
      if layoutPort layout ≠ p then s.prebindFail k x .runfault
      else
        match s.bindPort (x.xl s.cur.die) (portWriter { s.cur with hid := 0 } p) false (s.core.chart.word a) layout with
        | (.busy, _) => s
        | (.ok q, s) => s.modShadow k fun x => { x with nextPort := p + 1, ports := x.ports.set (portIx p) q }
        | (.inval, _) => s.prebindFail k x .runfault
        | (.stale, _) => s.prebindFail k x .runfault
        | (.runend, _) => s.prebindFail k x .runend
        | (.fail e, _) => s.prebindFail k x e.cause

/-! ### The start of a task (R12, R106, R260) -/

/-- The first runnable task of the focused core. -/
def Core.firstRunnable (c : Core) : Option Shadow :=
  (c.shadow.filter Shadow.runnable).foldl (fun b x =>
    match b with
    | some y => if x.order < y.order then some x else some y
    | none => some x) none

/-- The hart of a task that starts: the state of R12 and R106, s1 to s5 and s30 of R260. The supervisor bank stays, with what a
handler's engine commands have still to write there (R22). -/
def Shadow.hart (x : Shadow) (h : Hart) (place : HartId) (ctx : Ctx) : Hart :=
  let r := x.words
  let h0 := Hart.reset place
  let ix := recIndices r x.n
  let s0 := ((h0.s.set 1 (recW ix 0)).set 2 (recW ix 1)).set 3 (recW ix 2)
  let s0 := ((s0.set 4 (recW ix 3)).set 5 (wordOf (recPdst r))).set 30 (wordOf (recStk r))
  { h0 with
    pc := wordOf (bitsOf (recW r 0) 47 0), s := s0, supS := h.supS, supTk := h.supTk, pendS := h.pendS.filter (·.1), slot := h.slot, beat := h.slot
    svec := h.svec, watch := h.watch, lanes := h.lanes, lane0 := h.lane0, gave := h.gave
    vcap := recVcap r, ports := x.ports, ctx := some ctx
    hst := { prio := ⟨x.prio % 8, Nat.mod_lt _ (by decide)⟩, helm := recHelm r, recl := recRecl r, prot := recProt r
             rchk := true, mode := false, split := if recHelm r then 0 else splitOf h.lanes
             hid := ⟨place.hid % 8, Nat.mod_lt _ (by decide)⟩ } }

/-- The matrix state a helm task starts with (R245). -/
def Quad.helmStart (q : Quad) : Quad := { q with ten := 0, mxcV := false, afmt := 0, bfmt := 0, mg := 0, ng := 0, kg := 0 }

/-- Placement writes every word of the hart's slices, so their lanes are whole again (R315). -/
def Hart.laneClear (h : Hart) (ws : List (Nat × Nat × Nat)) : List (Nat × Nat × Nat) :=
  ws.filter fun w => !h.ownsLane w.1

/-- The first runnable task starts on the lowest free HID of the focused core; one whose preparation failed traps at ENTRY.
Nothing starts while its quad drains for a sounding (R320); a task whose USE the core has ceased to cover is to be saved
(R319) (DEDUCED, log entry 59). -/
def State.taskStart (s : State) : State :=
  match s.core.firstRunnable with
  | none => s
  | some x =>
    let helm := recHelm x.words
    let here := s.cur
    match (List.range (if helm then 1 else 8)).find? fun k => s.freeFor here k (splitLanes (recSplit x.words)) with
    | none => s
    | some k =>
      if (helm && !s.quad.mops.isEmpty) || decide (s.die.draining = some s.cur.quad) then s
      else
        let place := { here with hid := k }
        let r := x.words
        let ctx : Ctx :=
          { id := s.pkg.nextCtx, use := recUse r, scope := recScope r, iter := x.n, tctx := x.tctx, root := x.root
            cwLen := recCwLen r, cwBase := recCwBase r, graph := x.graph, block := (recPdst r, 8 * recPlen r), age := x.age, faults := [], lostFaults := 0
            lost := false }
        let s := s.mapCore fun c =>
          { c with shadow := c.shadow.filter fun y => decide (y.order ≠ x.order)
                   unwritten := (s.hartAt here k).laneClear c.unwritten }
        let s := s.mapPkg fun p =>
          let p := { p with nextCtx := p.nextCtx + 1 }
          (List.range 8).foldl (fun p i =>
            let q := x.ports[portIx i]
            if q.bound && q.write then p.modRun q.handle fun d => { d with writer := portWriter place i } else p) p
        let s := if helm then s.mapQuad Quad.helmStart else s
        let fenced := decide (recUse r &&& ~~~(s.pkg.capOf place) ≠ 0)
        let s := s.modHart place fun h => { x.hart h place ctx with savePend := fenced, clock := s.die.cycles }
        match x.fault with
        | none => s
        | some c => s.at place fun s => enterTrap (TrapRec.atIssue c 0 s.hart.pc) s

/-! ### Graph bookkeeping at a retirement (R275) -/

/-- Two replays are of one graph: their headers lie at one physical address (R275) (DEDUCED, log entry 80). -/
def Replay.sameGraph (r q : Replay) : Bool := decide (r.area = q.area)

/-- The replays that run: the first of each graph (DEDUCED, log entry 81). -/
def runningReplays : List Replay → List Replay
  | [] => []
  | r :: rs => r :: (runningReplays rs).filter fun q => !r.sameGraph q

/-- A replay ends: its graph has one replay less, in the header where its start found it (R273) (DEDUCED, log entry 80), and its owner
has the increment. -/
def State.replayEnd (s : State) (r : Replay) : State :=
  let s := s.mapPkg fun p => { p with replays := p.replays.filter fun x => decide (x ≠ r) }
  let s := if s.pkg.cutOff r.die (homeDie r.area) then s else s.beaconWrite (r.area + 24) (s.pkg.mem.word (r.area + 24) - 1)
  match r.owner with
  | some o => s.ownerPost o none
  | none => s

/-- The replay that spawned a task of a node; of a context from an area that the save did not leave, the first of that graph. -/
def GraphRef.isOf (g : GraphRef) (r : Replay) : Bool :=
  if g.replay = 0 then decide (r.graph = g.area ∧ r.die = g.die) else decide (r.id = g.replay)

/-- One iteration of a node has retired: after the last one its successors have one predecessor less, and with the terminal
node's the replay ends. -/
def State.nodeRetired (s : State) (g : GraphRef) : State :=
  let node := g.node
  match s.pkg.replays.find? g.isOf with
  | none => s
  | some r =>
    let left := (r.iters[node]?).getD 0 - 1
    let succs := (r.succs[node]?).getD []
    let r' := { r with
      iters := r.iters.set node left
      preds := if left = 0 then succs.foldl (fun ps j => ps.set j ((ps[j]?).getD 0 - 1)) r.preds else r.preds }
    let replays := s.pkg.replays.map fun x => if x = r then r' else x
    let s := s.mapPkg fun p => { p with replays := replays }
    if left = 0 ∧ succs = [] then s.replayEnd r' else s

/-! ### Retirement (R271) -/

/-- Every port of the hart is unbound, write ports with MARK published (R164). -/
def State.closePorts (s : State) : Except XErr State :=
  (List.range 8).foldl (fun acc k =>
    match acc with
    | .error e => .error e
    | .ok s =>
      let p := s.hart.ports[portIx k]
      if !p.bound then .ok s
      else (s.closePort (s.xl s.hart.hst.mode) p RunD.unbindWrite).map fun s => s.setPort (portIx k) PortSt.unbound) (.ok s)

/-- The start of a listing to which a scope belongs counts a retired task (R279). -/
def Pkg.startRetired (p : Pkg) (scope : Word) : Pkg :=
  let starts := p.vexud.starts.map fun t => if p.under scope t.scope then { t with tasks := t.tasks + 1 } else t
  { p with vexud := { p.vexud with starts := starts } }

/-- The task ends: barriers, counts, graph, and the hart is free. -/
def State.retire (s : State) : State :=
  match s.hart.ctx with
  | none => s.freeHart
  | some c =>
    let s := (s.leaveBarriers s.cur).mapPkg fun p =>
      ((p.startRetired c.scope).modCnt c.scope fun k => k.addCt 1).dropMembers c.scope 1
    let s := match c.graph with
      | some g => s.nodeRetired g
      | none => s
    s.freeHart

/-! ### The Plotter's full save and restore (R301) -/

/-- Every access the hart has issued to the beacons performs, in order; what waits behind a frozen queue goes last
(DEDUCED, log entry 73). -/
def finishBops : Nat → State → State
  | 0, s => s
  | n + 1, s =>
    let may (b : BOp) : Bool := b.started && !(b.kind matches .fence _)
    match (s.hart.bops.find? fun b => may b && (b.performed || s.bopReady b)).or (s.hart.bops.find? may) with
    | none => s
    | some b => finishBops n (s.bopAdvance b)

/-- Steps to finish all of them. -/
def Hart.bopWork (h : Hart) : Nat := (h.bops.map fun b => b.elems.length + 1).sum

/-- A full save of the focused hart's context into a free slot of its pool; nothing while the context may not be saved, or
no slot takes it. A record with CODE 0 is written (R284) (DEDUCED, log entry 63). -/
def State.fullSave (s : State) : State :=
  let h := s.hart
  match h.ctx with
  | none => s
  | some c =>
    if !h.savePend || h.hst.mode || (h.hst.helm && !s.quad.mops.isEmpty) then s
    else
      match s.die.freeSlot h.hst.helm c.cwLen with
      | none => s
      | some (slot, va) =>
        match s.areaPages ⟨s.cur.die, s.die.poolUser.1, s.die.poolUser.2, false⟩ (wordOf va) (areaBytes h.hst.helm c.cwLen) true with
        | none => s
        | some (off, pages) =>
          let s := landAll (inflBound s.hart + 1) s
          match drain s.drainFuel s with
          | .stuck _ => s
          | .trap s d => s.takeDeferred d
          | .done s => save s slot off pages false []
          | .waits s ds => save s slot off pages true ds
where
  save (s : State) (slot off : Nat) (pages : List Nat) (qf : Bool) (ds : List Nat) : State :=
    let s := storesAll (finishBops s.hart.bopWork s)
    let s := (s.core.divider.filter fun o => decide (o.hid = s.cur.hid)).foldl (fun s _ => s.divComplete) s
    let s := lateAll s
    let rpc := s.hart.pc
    let t : TrapRec := { cause := .illegal, aux := 0, tk := 0, can := false, qf := qf, eng := false, dfd := false
                         pc := (if qf then (s.hart.vq.head?.map VEntry.addr).getD rpc else rpc), src := rpc, dones := ds }
    let s := enterTrap t s
    let s := s.mapHart fun h => { h with trcause := h.trcause &&& ~~~(0xFF : Word), hst := { h.hst with mode := false }, pc := rpc }
    (s.saveInto off pages (some slot) rpc true).dropSparing.freeHart

/-- The Plotter restores the k-th saved context of the die onto the focused hart, unless another goes first
(DEDUCED, log entry 65). -/
def State.plotterRestore (s : State) (k : Nat) : State :=
  match s.die.saved[k]? with
  | none => s
  | some v =>
    let first := match s.nextSaved s.cur.die with
      | some w => decide (w.ctx.id = v.ctx.id)
      | none => false
    let ahead := match s.nextRec s.cur.die with
      | some (r, _) => before r.prio r.age v.prio v.ctx.age
      | none => false
    if !first || ahead || !s.restorable v s.cur then s
    else
      let rpc := v.word s.pkg.mem 8
      let s := if v.lanes = 0 ∨ s.hart.lanes = v.lanes then s else s.layoutCore s.cur (splitOf v.lanes).val
      let c := v.readIdent s.pkg.mem s.hart.hst.helm v.ctx.id v.ctx.age
      let s := s.restore { v with ctx := c }
      let s := s.mapHart fun h => { h with hst := { h.hst with mode := true }, hold := .none, held := false }
      leaveTrap rpc (s.mapHart fun h => { h with clock := s.die.cycles })

end Sys2Proof.Machine
end

