-- ==== Sys2Proof/Machine/Coll.lean ====
section
/-! DEFINITION. Collectives over a ring of packages (R331 to R337): group records, the ring table, `cform`, `callr`,
`cabort`, `cid` and `lkstat` (R333, R327), with the ends that other packages bring. -/
namespace Sys2Proof.Machine

/-! ### Rings (R331) -/

/-- The package IDs of a ring in ring order. -/
def ringIds (m : BitVec 1024) : List Nat := (List.range 1024).filter fun k => m.getLsbD k

/-- The rank of a package. -/
def rankOf (m : BitVec 1024) (id : Nat) : Nat := ((List.range id).filter fun k => m.getLsbD k).length

/-- The next member after a package, and the one before it. -/
def successor (m : BitVec 1024) (id : Nat) : Nat :=
  let ids := ringIds m
  ((ids.find? fun k => decide (id < k)).orElse fun _ => ids.head?).getD id
def predecessor (m : BitVec 1024) (id : Nat) : Nat :=
  let ids := (ringIds m).reverse
  ((ids.find? fun k => decide (k < id)).orElse fun _ => ids.head?).getD id

/-- The status word (R332) (DEDUCED, log entry 43). -/
def collStatus (code : Nat) (flags : FFlags) (fail : Option Nat) (step n : Nat) : Word :=
  wordOf (code * 2 ^ 56 + flags.toNat * 2 ^ 48 +
    (match fail with
     | some k => 2 ^ 42 + k % 1024 * 2 ^ 32
     | none => 0) + step % 2 ^ 16 * 2 ^ 16 + n % 2 ^ 16)

def colOK : Nat := 0
def colBUSY : Nat := 1
def colINVAL : Nat := 2
def colTIMEOUT : Nat := 4
def colABORTED : Nat := 5
def colMISMATCH : Nat := 6

/-- n words at a DVA that must be a multiple of 64, or the trap (R188, R310, R331) (DEDUCED, log entry 40). -/
def State.readArea (s : State) (va : Word) (n : Nat) : Except Cause (List Word) :=
  if va.toNat % 64 ≠ 0 then .error .beacon
  else
    match s.blockAddrs (s.xl s.hart.hst.mode) va false n with
    | none => .error .beacon
    | some pas => if pas.any s.beaconPoisoned then .error .poison else .ok (pas.map s.pkg.mem.word)

/-- GEN and members of a group record. -/
def groupOf (ws : List Word) : Nat × BitVec 1024 :=
  (bitsOf (recW ws 0) 63 48,
   BitVec.ofNat 1024 ((List.range 16).foldl (fun n k => n + (recW ws (k + 1)).toNat * 2 ^ (64 * k)) 0))

/-- DEDUCED, log entry 40. -/
def State.readGroup (s : State) (va : Word) : Except Cause (Nat × BitVec 1024) := (s.readArea va 17).map groupOf

/-- The record is well formed for this package. -/
def Pkg.groupOk (p : Pkg) (g : Nat × BitVec 1024) : Bool := decide (1 ≤ g.1) && g.2.getLsbD p.id

/-- A formed ring enters the table of 16, keyed by its record; nothing when every entry is in use (R334). -/
def Pkg.enterRing (p : Pkg) (group : Word) (g : Nat × BitVec 1024) : Option Pkg :=
  let r : Ring := { group := group, gen := g.1, members := g.2, inUse := 0 }
  match p.rings.find? fun x => decide (x.group = group) with
  | some old => some { p with rings := (p.rings.filter fun x => decide (x.group ≠ group)) ++ [{ r with inUse := old.inUse }] }
  | none =>
    if p.rings.length < 16 then some { p with rings := p.rings ++ [r] }
    else
      match p.rings.findIdx? fun x => decide (x.inUse = 0) with
      | none => none
      | some k => some { p with rings := p.rings.eraseIdx k ++ [r] }

def Pkg.useRing (p : Pkg) (group : Word) (f : Nat → Nat) : Pkg :=
  { p with rings := p.rings.map fun x => if x.group = group then { x with inUse := f x.inUse } else x }

/-! ### Ends -/

/-- The collective of a hart is over. -/
def Pkg.dropColl (p : Pkg) (h : HartId) : Pkg := { p with colls := p.colls.filter fun c => decide (c.hart ≠ h) }

/-- What a member gives up when it ends with any status other than OK (R337): the output returns to ALLOC with MARK 0, or
at a kill becomes BROKEN; the input loses a reader. -/
def Pkg.collUnbind (p : Pkg) (c : Coll) (f : RunD → RunD) : Pkg :=
  if c.form then p
  else ((p.modRun c.output fun r => { f r with mark := 0 }).dropReader c.input).useRing c.group (· - 1)

/-- The hart is held in a collective or a `cform`. -/
def Hart.inColl (h : Hart) : Bool := h.hold matches .coll _ _ _

/-- End a collective with a status at its hart (DEDUCED, log entry 43). -/
def State.collEnd (s : State) (c : Coll) (code : Nat) (fail : Option Nat) : State :=
  let s := s.mapPkg fun p => (p.collUnbind c RunD.unbindWrite).dropColl c.hart
  s.at c.hart fun s =>
    if s.hart.inColl then
      s.endHold c.d (collStatus code 0 fail (if c.form then 0 else c.steps) (ringIds c.members).length)
    else s

/-- An abort of a GEN reaches the package (R337): it ends the collectives and `cform`s that wait on that GEN ABORTED (R334); one
not yet seen is remembered, and the package forwards it (DEDUCED, log entry 41). -/
def State.abort (s : State) (gen : Nat) (fail : Option Nat) : State :=
  let s := if s.pkg.aborted.any fun a => decide (a.1 = gen) then s
    else s.mapPkg fun p => { p with aborted := p.aborted ++ [(gen, fail)] }
  (s.pkg.colls.filter fun c => decide (c.gen = gen)).foldl (fun s c => s.collEnd c colABORTED fail) s

/-- A killed member floods an abort with its own ID; its output becomes BROKEN with MARK 0, and KE counts it (R337). -/
def State.collKill (s : State) (h : HartId) (scope : Word) : State :=
  match s.pkg.colls.find? fun c => decide (c.hart = h) with
  | none => s
  | some c =>
    let s := s.mapPkg fun p => ((p.collUnbind c RunD.break).dropColl h).modCnt scope fun k => k.addKe 1
    s.abort c.gen (some s.pkg.id)

/-- The collective in which the focused hart is held. -/
def State.ownColl (s : State) (form : Bool) : Option Coll :=
  if s.hart.inColl then s.pkg.colls.find? fun c => decide (c.hart = s.cur ∧ c.form = form) else none

/-- Collectives whose hart a trap has taken from its hold: a `cform` ends with nothing done, and a `callr` ends its part as at
any status but OK, with an abort that carries the package's own ID; the word issues again after the trap
(DEDUCED, log entry 75). -/
def State.collsLeft (s : State) : State :=
  (s.pkg.colls.filter fun c => !(s.getHart c.hart).inColl).foldl (fun s c =>
    let s := s.mapPkg fun p => (p.collUnbind c RunD.unbindWrite).dropColl c.hart
    if c.form then s else s.abort c.gen (some s.pkg.id)) s

/-! ### What a ring computes (R336) -/

/-- The widths a COMB takes. -/
def combWidthOk (comb w : Nat) : Bool :=
  match comb with
  | 1 => decide (w ≤ 64)
  | 3 => decide (w = 4)
  | 4 => decide (w = 8)
  | 5 => decide (w = 8)
  | 6 => decide (w = 8)
  | _ => false

def combOne (comb a b : Nat) : Nat × FFlags :=
  match comb with
  | 3 => fAdd .f32 .rne a b
  | 4 => ((a + b) % 2 ^ 64, 0)
  | 5 => (if asInt 64 a < asInt 64 b then b else a, 0)
  | _ => (if asInt 64 b < asInt 64 a then b else a, 0)

/-- The segment of an element. -/
def segmentOf (n members e : Nat) : Nat :=
  ((List.range members).find? fun s => decide (s * n / members ≤ e ∧ e < (s + 1) * n / members)).getD 0

/-- One output element: its bytes and flags. -/
def ringElem (comb w n e : Nat) (xs : List (List Byte)) : List Byte × FFlags :=
  let k := xs.length
  let raw (r : Nat) : List Byte := (((xs[r]?).getD []).drop (e * w)).take w
  if comb = 1 then (raw 0, 0)
  else
    let s := segmentOf n k e
    let r := (List.range (k - 1)).foldl (fun (acc : Nat × FFlags) j =>
      let y := combOne comb acc.1 (leNat (raw ((s + j + 2) % k)))
      (y.1, acc.2 ||| y.2)) (leNat (raw ((s + 1) % k)), 0)
    (leBytes r.1 w, r.2)

/-- The whole output. -/
def ringResult (comb w n : Nat) (xs : List (List Byte)) : List Byte × FFlags :=
  (List.range n).foldl (fun (acc : List Byte × FFlags) e =>
    let r := ringElem comb w n e xs
    (acc.1 ++ r.1, acc.2 ||| r.2)) ([], 0)

/-- A storage fault in the course of a collective: the member's part ends, an abort with its own ID goes out, and the
`callr` traps (R335). -/
def State.collFault (s : State) (c : Coll) (e : XErr) : State :=
  let s := s.mapPkg fun p => (p.collUnbind c RunD.unbindWrite).dropColl c.hart
  let s := (s.abort c.gen (some s.pkg.id)).mapHart fun h => { h with hold := .none }
  ((s.noteErr e).countPoison e.cause).trapHere e.cause

/-- Where a member stands after its last step. -/
inductive CollDone where
  | fault (e : XErr)
  | done (s : State) (flags : FFlags)

/-- The last step at the focused hart: records, seal, unbind, flags (R336). -/
def State.collOutput (s : State) (c : Coll) (others : List (List Byte)) : CollDone :=
  match s.run c.input, s.run c.output with
  | some i, some o =>
    let x := s.xl s.hart.hst.mode
    let n := i.mark.toNat
    (match s.readStream x i none 0 (n * i.w) with
     | .error e => .fault e
     | .ok (_, own) =>
       let k := rankOf c.members s.pkg.id
       let r := ringResult c.comb i.w n (others.take k ++ [own] ++ others.drop k)
       match s.writeStream x o none 0 r.1 with
       | .error e => .fault e
       | .ok (_, s) =>
         .done ((s.mapPkg fun p =>
           (((p.modRun c.output fun d => { d.seal with mark := wordOf n }).dropReader c.input).useRing c.group (· - 1)).dropColl
             c.hart).mapHart fun h => { h with xst := h.xst ||| r.2 }) r.2)
  | _, _ => .fault .fault

/-! ### `cform` (R334) -/

/-- The hello of the focused hart's `cform` comes back agreeing: the ring enters the table. -/
def State.formDone (s : State) (group : Word) (g : Nat × BitVec 1024) : State × Word :=
  let n := (ringIds g.2).length
  match s.pkg.enterRing group g with
  | some p => ({ s with pkg := p }, collStatus colOK 0 none 0 n)
  | none => (s, collStatus colBUSY 0 none 0 n)

/-- A hello arrives at the focused hart: its own comes back agreeing or with a MISMATCH; another's is passed on
(DESIGN CHOICE, log entry 54) (DESIGN CHOICE, log entry 95). -/
def State.helloArrives (s : State) (gen : Nat) (members : BitVec 1024) (answer : HelloAnswer) : State :=
  match s.ownColl true with
  | none => s
  | some c =>
    if ¬(c.gen = gen ∧ c.members = members) then s
    else
      match answer with
      | .agrees =>
        let r := (s.mapPkg fun p => p.dropColl c.hart).formDone c.group (gen, members)
        r.1.endHold c.d r.2
      | .mismatch g m =>
        let gen' := max gen g
        let both := members &&& m
        let ws := wordOf (gen' % 65536 * 2 ^ 48) :: (List.range 16).map fun k => wordOf (both.toNat / 2 ^ (64 * k) % 2 ^ 64)
        let s := (s.writeBlock (s.xl s.hart.hst.mode) c.group ws).getD s
        s.collEnd c colMISMATCH none

/-- The Wenush port that carries the hop to a package: the routes that Vexud set decide, and no rule fixes them (R327, R340)
(DESIGN CHOICE, log entry 1). -/
def Pkg.portTo (p : Pkg) (k : Nat) : Nat := Config.freeChoice (p.routes + k) % 8

/-- The link that carries the hop to a package is lost. -/
def Pkg.hopLost (p : Pkg) (k : Nat) : Bool := (p.links[p.portTo k]?).any (·.lost)

/-- The successor does not take the hello in time, or the link to it is lost (DESIGN CHOICE, log entry 95). -/
def State.formExpire (s : State) (lost : Bool) : State :=
  match s.ownColl true with
  | none => s
  | some c =>
    let who := successor c.members s.pkg.id
    if (lost && s.pkg.hopLost who) || decide (c.since + c.limit ≤ s.hart.clock) then
      (s.collEnd c colTIMEOUT (some who)).abort c.gen (some who)
    else s

/-- A step waits past its time-out for a neighbour, or the link to it is lost (R337). -/
def State.collExpire (s : State) (who : Nat) : State :=
  match s.ownColl false with
  | none => s
  | some c =>
    if decide (who = successor c.members s.pkg.id ∨ who = predecessor c.members s.pkg.id) &&
        (s.pkg.hopLost who || decide (c.since + c.limit ≤ s.hart.clock)) then
      (s.collEnd c colTIMEOUT (some who)).abort c.gen (some who)
    else s

/-- The collective of the focused hart cannot go on: the link to a neighbour is lost, and it ends at once, or its time-out has passed,
and it ends on the neighbour that it waits for, which is a free choice; of a `cform` the successor (R334, R337)
(DESIGN CHOICE, log entry 1). -/
def State.collLate (s : State) : State :=
  match s.ownColl false with
  | none => s.formExpire true
  | some c =>
    let near := [successor c.members s.pkg.id, predecessor c.members s.pkg.id]
    let lost := near.filter s.pkg.hopLost
    let due := if lost.isEmpty then (if c.since + c.limit ≤ s.hart.clock then near else []) else lost
    match due[Config.freeChoice s.fresh % max 1 due.length]? with
    | some who => (s.collExpire who).bump 1
    | none => s

/-- A ring step at the focused hart (R336). `others` holds the inputs of the other members in rank order: after the last step all of
them; before it any that the step brought. One of another size is a MISMATCH (R335). A member whose neighbour's link is lost, or
whose time-out has passed, ends with that instead (R337) (DESIGN CHOICE, log entry 54) (DESIGN CHOICE, log entry 95). -/
def State.ringAdvance (s : State) (others : List (List Byte)) : State :=
  match s.ownColl false with
  | none => s
  | some c =>
    if s.collLate ≠ s then s.collLate
    else
    let n := (ringIds c.members).length
    let size := match s.run c.input with
      | some i => i.mark.toNat * i.w
      | none => 0
    if others.any fun b => decide (b.length ≠ size) then
      (s.collEnd c colMISMATCH none).abort c.gen none
    else if c.steps + 1 < 2 * (n - 1) then
      let colls := s.pkg.colls.map fun x => if x.hart = c.hart then { x with steps := x.steps + 1, since := s.hart.clock } else x
      s.mapPkg fun p => { p with colls := colls }
    else if others.length ≠ n - 1 then s
    else
      match s.collOutput c others with
      | .fault e => s.collFault c e
      | .done s f => s.endHold c.d (collStatus colOK f none (2 * (n - 1)) n)

/-- The front holds for a collective until it ends. -/
def State.startColl (s : State) (c : Coll) : State :=
  ((s.mapPkg fun p => { p with colls := p.colls ++ [c] }).mapHart fun h =>
    { h with hold := .coll c.d c.since c.limit }).hold

/-- `cform` (DEDUCED, log entry 43). -/
def execCform (d a b : SReg) (s : State) : Out :=
  .next (issue (Need.bit 22) [a, b] [d] (fun s =>
    let group := s.src a
    match s.readGroup group with
    | .error c => (s.countPoison c).trapHere c
    | .ok g =>
      let n := (ringIds g.2).length
      if !s.pkg.groupOk g then (s.writeReg d (collStatus colINVAL 0 none 0 n) 1).answered
      else if n = 1 then
        let r := s.formDone group g
        (r.1.writeReg d r.2 1).answered
      else
        s.startColl { hart := s.cur, form := true, d := d, group := group, gen := g.1, members := g.2, input := 0, output := 0
                      comb := 0, limit := (s.src b).toNat, since := s.hart.clock, steps := 0 }) s)

/-! ### `callr` (R335) -/

/-- What the checks of `callr` find. -/
inductive CallCheck where
  | trap (c : Cause)
  | status (code : Nat) (fail : Option Nat) (n : Nat)
  | ok (c : Coll)

/-- The checks before the binds: the block and the group record, stale handles, INVAL, an abort of the GEN already seen, BUSY,
storage (DEDUCED, log entry 42). -/
def State.callCheck (s : State) (d : SReg) (va : Word) : CallCheck :=
  match s.readArea va 8 with
  | .error c => .trap c
  | .ok ws =>
    match s.readGroup (recW ws 0) with
    | .error c => .trap c
    | .ok g =>
      match s.run (recW ws 1), s.run (recW ws 2) with
      | some i, some o =>
        let n := (ringIds g.2).length
        let comb := bitsOf (recW ws 3) 3 0
        let bad := decide (bitsOf (recW ws 3) 63 4 ≠ 0 ∨ recW ws 5 ≠ 0 ∨ recW ws 6 ≠ 0 ∨ recW ws 7 ≠ 0) ||
          decide (i.state ≠ .sealed ∨ o.state = .sealed ∨ o.state = .broken ∨ o.state = .view) ||
          decide (o.state = .alloc ∧ o.mark ≠ 0) || decide (i.w ≠ o.w) || !combWidthOk comb i.w ||
          decide (o.cap.toNat < i.mark.toNat) ||
          !(s.pkg.rings.any fun r => decide (r.group = recW ws 0 ∧ r.gen = g.1 ∧ r.members = g.2))
        if bad then .status colINVAL none n
        else
          match s.pkg.aborted.find? fun x => decide (x.1 = g.1) with
          | some x => .status colABORTED x.2 n
          | none =>
            if 4 ≤ (s.pkg.colls.filter fun c => !c.form).length ∨ o.state = .opened ∨ i.rdrs = 511 then .status colBUSY none n
            else
              let x := s.xl s.hart.hst.mode
              match (if i.mark = 0 then .ok none else s.checkStream x i .read 0),
                    (if i.mark = 0 then .ok none else s.checkStream x o .write 0) with
              | .error e, _ => .trap e.cause
              | .ok _, .error e => .trap e.cause
              | .ok _, .ok _ =>
                .ok { hart := s.cur, form := false, d := d, group := recW ws 0, gen := g.1, members := g.2
                      input := recW ws 1, output := recW ws 2, comb := comb, limit := (recW ws 4).toNat
                      since := s.hart.clock, steps := 0 }
      | _, _ => .trap .runfault

/-- The writer fields of a collective's output (R335) (DEDUCED, log entry 33). -/
def collWriter (h : HartId) : Writer :=
  ⟨2, h.die, h.quad, if h.core = 4 then 0 else h.core, 0, 4, false⟩

/-- `callr`: on a ring of one member it completes at once. -/
def execCallr (d a : SReg) (s : State) : Out :=
  .next (issue (Need.bit 22) [a] [d] (fun s =>
    match s.callCheck d (s.src a) with
    | .trap c => (s.countPoison c).trapHere c
    | .status code fail n => (s.writeReg d (collStatus code 0 fail 0 n) 1).answered
    | .ok c =>
      let s := s.mapPkg fun p =>
        ((p.modRun c.input RunD.addReader).modRun c.output fun r => r.bindWrite (collWriter s.cur)).useRing c.group (· + 1)
      if (ringIds c.members).length = 1 then
        match s.collOutput c [] with
        | .fault e => s.collFault c e
        | .done s f => (s.writeReg d (collStatus colOK f none 0 1) 1).answered
      else s.startColl c) s)

/-- `cabort` (R333) (DEDUCED, log entry 41). -/
def execCabort (d a : SReg) (s : State) : Out :=
  .next (issue (Need.bit 22) [a] [d] (fun s =>
    match s.readGroup (s.src a) with
    | .error c => (s.countPoison c).trapHere c
    | .ok _ =>
      match s.pkg.rings.find? fun r => decide (r.group = s.src a) with
      | none => (s.writeReg d (collStatus colINVAL 0 none 0 0) 1).answered
      | some r =>
        ((s.writeReg d (collStatus colOK 0 none 0 (ringIds r.members).length) 1).abort r.gen (some s.pkg.id)).answered) s)

/-- `cid` (R333). -/
def execCid (d : SReg) (s : State) : Out :=
  .next (issue (Need.bit 22) [] [d] (fun s => (s.writeReg d (wordOf (s.pkg.id % 1024)) 1).answered) s)

/-- The status word of a link (R327). -/
def Link.word (l : Link) (ratio : Nat) : Word :=
  wordOf (l.up.toNat * 2 ^ 63 + l.lost.toNat * 2 ^ 62 + min l.chunkF 65535 * 2 ^ 32 + min l.retry 65535 * 2 ^ 16 + ratio % 65536)

/-- The status word of link k, 0 from 12 on (R327). What compression gains is a free value (DESIGN CHOICE, log entry 1). -/
def State.linkWord (s : State) (k : Nat) : Word :=
  ((s.pkg.links[k]?).map fun l => l.word (Config.freeWord s.fresh).toNat).getD 0

/-- `lkstat` (R333, R327). -/
def execLkstat (d a : SReg) (s : State) : Out :=
  .next (issue (Need.bit 22) [a] [d] (fun s => (s.writeReg d (s.linkWord (s.src a).toNat) 1).answered.bump 1) s)

end Sys2Proof.Machine
end

