-- ==== Sys2Proof/Machine/Kills.lean ====
section
/-! DEFINITION. Cancels (R266), the kill point of a member hart, and the acknowledgement (R208, R267). -/
namespace Sys2Proof.Machine

/-- One core of each kind of place the state lists, the focused one first. -/
def State.coreIds (s : State) : List HartId :=
  { s.cur with hid := 0 } :: s.cores.filterMap fun p =>
    if p.1 = coreKey s.cur then none else some ⟨p.1.1, p.1.2.1, p.1.2.2, 0⟩
def State.quadIds (s : State) : List HartId :=
  { s.cur with core := 4, hid := 0 } :: s.quads.filterMap fun p =>
    if p.1 = quadKey s.cur then none else some ⟨p.1.1, p.1.2, 4, 0⟩
def State.dieIds (s : State) : List Nat := s.allDies.map (·.1)

/-! ### Engines -/

/-- KE counts the commands of these owners, each in its own scope (R265). -/
def State.countKe (s : State) (os : List Owner) : State :=
  s.mapPkg fun p => os.foldl (fun p o => p.modCnt o.scope fun c => c.addKe 1) p

/-- Kill the commands that a predicate names on the channels of the focused core (R242). -/
def State.killCopies (s : State) (who : Owner → Bool) : State :=
  (List.range 4).foldl (fun s k =>
    let ch : Chan := ⟨k % 4, Nat.mod_lt _ (by decide)⟩
    (s.countKe (((s.core.chans[ch].q.filter fun c => !c.killed).map CopyCmd.owner).filter who)).copyKill ch who) s

/-- Kill the passes and queued matrix operations of the focused quad; the head operation completes (R227, R255). -/
def State.killQuad (s : State) (who : Owner → Bool) : State :=
  let s := (s.countKe ((s.quad.passes.map Pass.owner).filter who)).sorterKill who
  let head (o : Mop) : Bool := decide (o.state ≠ .queued) && !o.counted && who o.owner
  let s := s.mapPkg fun p => (s.quad.mops.filter head).foldl (fun p o => p.modCnt o.owner.scope fun c => c.addCe 1) p
  let s := s.mapQuad fun q => { q with mops := q.mops.map fun o => if head o then { o with counted := true } else o }
  (s.countKe ((s.quad.mops.filter fun o => decide (o.state = .queued) && who o.owner).map Mop.owner)).mopKill who

/-- Kill the engine commands of all owners that a predicate names. -/
def State.killEngines (s : State) (who : Owner → Bool) : State :=
  let s := s.coreIds.foldl (fun s h => s.at h fun s => s.killCopies who) s
  s.quadIds.foldl (fun s h => s.at h fun s => s.killQuad who) s

/-- Some engine still works for an owner. -/
def State.engineBusy (s : State) (who : Owner → Bool) : Bool :=
  (s.coreIds.any fun h => (s.getCore h).chans.toList.any fun c => c.q.any fun x => who x.owner) ||
    s.quadIds.any fun h => (s.getQuad h).passes.any (fun x => who x.owner) || (s.getQuad h).mops.any fun x => who x.owner

/-! ### A cancel (R266) -/

/-- Iterations that never start: KQ rises, MEMBERS falls. -/
def Pkg.killQueued (p : Pkg) (scope : Word) (n : Nat) : Pkg := (p.modCnt scope fun c => c.addKq n).dropMembers scope n

/-- Drop the records of the scopes in a list from a die's queues and ring. -/
def State.dropRecords (s : State) (set : List Word) (d : Nat) : State :=
  let die := s.getDie d
  let inSet (r : QRec) : Bool := set.contains (recScope r.words)
  let gone := (die.queues ++ die.ring).filter inSet
  let s := s.mapPkg fun p => gone.foldl (fun p r => p.killQueued (recScope r.words) r.left) p
  s.putDie d { die with queues := die.queues.filter fun r => !inSet r, ring := die.ring.filter fun r => !inSet r }

/-- Drop the lent records in transit: each iteration is counted once (R329). -/
def State.dropLends (s : State) (set : List Word) : State :=
  let gone := s.pkg.lends.filter fun l => set.contains (recScope l.copy.words)
  let transit := gone.filter fun l => !l.acked
  let s := s.mapPkg fun p => transit.foldl (fun p l => p.killQueued (recScope l.copy.words) (l.copy.last - l.copy.next)) p
  s.mapPkg fun p => { p with lends := p.lends.filter fun l => !set.contains (recScope l.copy.words) }

/-- Drop the tasks in the shadow slots of a core. -/
def State.dropShadow (s : State) (set : List Word) (h : HartId) : State :=
  let c := s.getCore h
  let gone := c.shadow.filter fun x => set.contains (recScope x.words)
  let s := s.mapPkg fun p => gone.foldl (fun p x => (p.unbindShadow x).killQueued (recScope x.words) 1) p
  s.putCore h { c with shadow := c.shadow.filter fun x => !set.contains (recScope x.words) }

/-- Kill the saved contexts of a die. -/
def State.killSavedOf (s : State) (set : List Word) (d : Nat) : State :=
  ((s.getDie d).saved.filter fun v => set.contains v.ctx.scope).foldl (fun s v => s.killSaved d v) s

/-- A cancel of scope k takes effect in one step: all but the running harts, which meet their kill points
(DEDUCED, log entry 51). -/
def State.cancel (s : State) (k : Word) : State :=
  let set := (s.pkg.subtree k).filter fun h => decide (s.pkg.scopeState h = some .live)
  let s := s.mapPkg fun p => (set.foldl (fun p h => p.setScopeState h .cancelling) p).modCnt k fun c => { c with target := true }
  let s := s.dieIds.foldl (fun s d => (s.killSavedOf set d).dropRecords set d) s
  let s := s.coreIds.foldl (fun s h => s.dropShadow set h) (s.dropLends set)
  s.killEngines fun o => !o.sup && set.contains o.scope

/-! ### The kill point of a hart (R266) -/

/-- The focused hart runs a task of a cancelled scope in user mode. -/
def State.killDue (s : State) : Bool :=
  !s.hart.hst.mode &&
    match s.hart.ctx with
    | none => false
    | some c =>
      match s.pkg.scopeState c.scope with
      | some .cancelling => true
      | some .cancelled => true
      | _ => false

/-- Accesses to the beacons that perform all the same: stores and atomics that have begun, and what a supervisor issued
(DEDUCED, log entry 51). -/
def BOp.survives (b : BOp) : Bool :=
  b.started && (b.sup ||
    match b.kind with
    | .store => true
    | .atomic _ _ => true
    | .vstore => true
    | .vatomic _ => true
    | _ => false)

/-- They perform, in order, and CE counts those of the task (DEDUCED, log entry 53). -/
def State.performSurvivors (s : State) (scope : Word) : State :=
  let own := (s.hart.bops.filter fun b => b.survives && !b.sup).length
  let s := s.mapHart fun h => { h with bops := h.bops.filter BOp.survives }
  let s := finishBops s.hart.bopWork s
  s.mapPkg fun p => p.modCnt scope fun c => c.addCe own

/-- A vector Chart store that has passed its start check performs wholly or not at all; which is free (DESIGN CHOICE, log entry 1)
(DEDUCED, log entry 53). -/
def State.settleStores (s : State) : State :=
  let ops := s.core.pipe.filter fun o => decide (o.hid = s.cur.hid) && !o.ent.sup && o.passed && o.ent.op.isChartStore
  ops.foldl (fun s o => (if Config.freeBit s.fresh then s.vcmFinish o else s).bump 1) s

/-- The focused hart's context ends: exempt accesses perform, its commands and ports end as killed, it leaves its barriers,
and the hart is free (DEDUCED, log entry 51) (DEDUCED, log entry 53). -/
def State.killHart (s : State) (c : Ctx) : State :=
  let s := landAll (inflBound s.hart + 1) s
  let s := (storesAll (s.performSurvivors c.scope)).settleStores
  let s := s.killEngines fun o => !o.sup && decide (o.ctx = c.id ∧ c.id ≠ 0)
  let s := s.collKill s.cur c.scope
  let s := s.mapPkg fun p => s.hart.ports.toList.foldl Pkg.breakPort p
  let s := s.leaveBarriers s.cur
  (s.mapPkg fun p => (p.modCnt c.scope fun k => k.addKt 1).dropMembers c.scope 1).freeHart

/-- The kill point. -/
def State.killPoint (s : State) : State :=
  match s.hart.ctx with
  | none => s
  | some c => if s.killDue then s.killHart c else s

/-! ### The acknowledgement (R208, R267) -/

/-- The sums of the own counts of scopes. -/
def Pkg.sumCounts (p : Pkg) (hs : List Word) : ScopeCnt :=
  hs.foldl (fun acc h =>
    let c := p.counts h
    ((((acc.addKt c.kt).addKq c.kq).addKe c.ke).addCe c.ce).addCt c.ct) ⟨0, 0, 0, 0, 0, 0, false⟩

/-- A scope holds a task: one that runs, a saved one, one in a shadow slot, or iterations queued, spilled or lent (R265)
(DESIGN CHOICE, log entry 117). -/
def State.holdsTask (s : State) (h : Word) : Bool :=
  (s.allHarts.any fun p => p.2.ctx.any fun c => decide (c.scope = h)) ||
    (s.dieIds.any fun d => ((s.getDie d).saved.any fun v => decide (v.ctx.scope = h)) ||
      ((s.getDie d).queues ++ (s.getDie d).ring).any fun r => decide (recScope r.words = h)) ||
    (s.coreIds.any fun c => (s.getCore c).shadow.any fun x => decide (recScope x.words = h)) ||
    s.pkg.lends.any fun l => decide (recScope l.copy.words = h)

/-- Nothing of the subtree is left to stop, and every scope below has been acknowledged
(DESIGN CHOICE, log entry 117). -/
def State.ackReady (s : State) (h : Word) : Bool :=
  let sub := s.pkg.subtree h
  decide (s.pkg.scopeState h = some .cancelling) &&
    (sub.all fun k => decide (k = h ∨ s.pkg.scopeState k = some .cancelled) && !s.holdsTask k) &&
    !s.engineBusy fun o => !o.sup && sub.contains o.scope

/-- KTASK, KENG and DONE, then ACK, then CANCELLED; replays of the scope end, their increments cancelled (R275)
(DEDUCED, log entry 81). -/
def State.acknowledge (s : State) (h : Word) : State :=
  if !s.ackReady h then s
  else
    let c := if (s.pkg.counts h).target then s.pkg.sumCounts (s.pkg.subtree h) else s.pkg.counts h
    let s := s.mapPkg fun p =>
      ((((p.setScopeWord h 4 (wordOf (c.kt * 2 ^ 32 + c.kq))).setScopeWord h 5 (wordOf (c.ke * 2 ^ 32 + c.ce))).setScopeWord h 6
        (wordOf c.ct)).setScopeWord h 3 1).setScopeState h .cancelled
    (s.pkg.replays.filter fun r => decide (r.scope = h) || r.recs.any fun w => decide (recScope w = h)).foldl State.replayEnd s

end Sys2Proof.Machine
end

