-- ==== Sys2Proof/Machine/TaskInstr.lean ====
section
/-! DEFINITION. The instructions of 15_tasks_and_cancel_scopes.md: TSK and SCP (R269 to R271), BAR (R272), and what a front
does in a slot in which it waits (R268). -/
namespace Sys2Proof.Machine

def stKILLED : Word := 3
def stTIMEOUT : Word := 4

/-- An instruction that holds issue until its Plotter, scope table or barrier network answers: s[D] is readable from the
slot after (R268). -/
def State.answer (s : State) (d : SReg) (w : Word) : State := (s.writeReg d w 1).answered

def issueTask (srcs : List SReg) (d : SReg) (f : State → State × Word) (s : State) : State :=
  issue (Need.bit 21) srcs [d] (fun s => (f s).1.answer d (f s).2) s

/-! ### TSK -/

/-- `tspawn` (R270). -/
def execTspawn (d a : SReg) (s : State) : Out :=
  .next (issue (Need.bit 21) [a] [d] (fun s =>
    if !s.fenceOpen s.hart.sup 0x1FFFF (s.fresh + 64) then s.hold
    else
      match s.checkRecord (s.src a) with
      | .trap c => (s.countPoison c).trapHere c
      | .status n s => s.answer d (wordOf n)
      | .ok ws =>
        match s.placeRec s.cur.die (s.newRec ws none s.hart.xlat.1 s.hart.xlat.2 none) with
        | .queued s => s.answer d stOK
        | .full => s.answer d stBUSY
        | .unmapped p => s.trapHere .spill p) s)

/-- Nothing of the hart is outstanding: no posting operation on any token, no beacon store, no queue entry, no held engine
fault (R205, R271, R296) (DEDUCED, log entry 71). -/
def State.quiet (s : State) : Bool :=
  decide (s.hart.outstanding = 0) && s.hart.vq.isEmpty && (s.core.oldest .pipe s.cur.hid).isNone &&
    (s.core.oldest .net s.cur.hid).isNone && (s.hart.bops.all fun b => b.kind matches .fence _) &&
    ((s.hart.ctx.map (·.faults)).getD []).isEmpty

/-- `tretire` (R271): waits, unbinds the ports, ends the task. -/
def execTretire (s : State) : Out :=
  .next (issue (Need.bit 21) [] [] (fun s =>
    if !s.quiet then s.hold
    else
      let s := landAll (inflBound s.hart + 1) s
      match s.closePorts with
      | .error e => s.trapHere e.cause
      | .ok s => s.retire) s)

/-- `tscope`. -/
def execTscope (d : SReg) (s : State) : Out := .next (issueTask [] d (fun s => (s, s.ownScope)) s)
/-- `titer`. -/
def execTiter (d : SReg) (s : State) : Out :=
  .next (issueTask [] d (fun s => (s, wordOf ((s.hart.ctx.map (·.iter)).getD 0))) s)

/-! ### SCP -/

/-- The state of a scope as the focused die reaches its table (R323) (DEDUCED, log entry 83). -/
def State.scopeState (s : State) (h : Word) : Option ScopeSt :=
  if s.pkg.cutOff s.cur.die (scopeDie h) then none else s.pkg.scopeState h

/-- `sopen`: the new entry lies on the caller's die. -/
def State.scopeOpen (s : State) (a : Word) : State × Word :=
  let parent := if a = 0 then s.ownScope else a
  match s.scopeState parent with
  | none => (s, stINVAL)
  | some st =>
    if !s.related parent then (s, stINVAL)
    else if st ≠ .live then (s, stKILLED)
    else
      match s.pkg.freeScope s.cur.die (Config.freeChoice s.fresh) with
      | none => (s, stBUSY)
      | some i =>
        let r := s.pkg.openScope s.cur.die i parent
        ({ s with pkg := r.1 }.bump 1, r.2)

/-- `scancel`. -/
def State.scopeCancel (s : State) (h : Word) : State × Word :=
  match s.scopeState h with
  | none => (s, stINVAL)
  | some st => if !s.related h then (s, stINVAL) else if st = .live then (s.cancel h, stOK) else (s, stBUSY)

/-- `sclose`. -/
def State.scopeClose (s : State) (h : Word) : State × Word :=
  match s.scopeState h with
  | none => (s, stINVAL)
  | some st =>
    let live := s.pkg.scopeWord h 2
    if !s.related h then (s, stINVAL)
    else if bitsOf live 63 32 = 0 ∧ (st = .cancelled ∨ (st = .live ∧ bitsOf live 31 0 = 0)) then
      (s.mapPkg fun p => p.closeScope h, stOK)
    else (s, stBUSY)

/-- `sread`. -/
def State.scopeRead (s : State) (h k : Word) : Word :=
  if (s.scopeState h).isNone || decide (7 < k.toNat) then stINVAL else s.pkg.scopeWord h k.toNat

/-- `sopen`. -/
def execSopen (d a : SReg) (s : State) : Out := .next (issueTask [a] d (fun s => s.scopeOpen (s.src a)) s)
/-- `scancel`. -/
def execScancel (d a : SReg) (s : State) : Out := .next (issueTask [a] d (fun s => s.scopeCancel (s.src a)) s)
/-- `sclose`. -/
def execSclose (d a : SReg) (s : State) : Out := .next (issueTask [a] d (fun s => s.scopeClose (s.src a)) s)
/-- `sread`. -/
def execSread (d a b : SReg) (s : State) : Out :=
  .next (issueTask [a, b] d (fun s => (s, s.scopeRead (s.src a) (s.src b))) s)
/-- `sself`. -/
def execSself (d : SReg) (s : State) : Out := .next (issueTask [] d (fun s => (s, s.ownScope)) s)

/-! ### Waiting slots -/

/-- What a `swait` reads: done, stale, or to wait. -/
def State.swaitStatus (s : State) (h : Word) : Option Word :=
  if (s.scopeState h).isNone then some stINVAL else if s.pkg.scopeWord h 3 = 1 then some stOK else none

/-- The focused hart arrives at a channel once its earlier accesses have performed (R207), and the episode may open; at pod level in
any slot in which it waits, when the other packages have arrived (R330). -/
def State.arrive (s : State) (l : BarLevel) (ch : Nat) : State :=
  let b := s.pkg.barrier l (BarLevel.unit l s.cur) ch
  if b.arrived.contains s.cur then (if l = .pod then s.hearFar b else s)
  else if !s.accessesDone then s
  else s.hearFar { b with arrived := b.arrived ++ [s.cur] }

/-- A slot of a front that waits. -/
def State.holdSlot (s : State) : State :=
  match s.hart.hold with
  | .none => s.hold
  | .tkw t thr => s.tkwSlot t thr
  | .bwait l ch _ _ _ =>
    let s := s.arrive l ch
    if s.hart.hold = .none then s else s.hold
  | .swait h d _ _ =>
    match s.swaitStatus h with
    | some w => s.endHold d w
    | none => s.hold
  | .coll _ _ _ => s.hold

/-- `swait`. -/
def execSwait (d a b : SReg) (s : State) : Out :=
  .next (issue (Need.bit 21) [a, b] [d] (fun s =>
    match s.swaitStatus (s.src a) with
    | some w => s.answer d w
    | none =>
      (s.mapHart fun h => { h with hold := .swait (s.src a) d s.hart.clock (s.src b).toNat }).hold) s)

/-- The time-out of a `swait`. -/
def State.swaitExpire (s : State) : State :=
  match s.hart.hold with
  | .swait h d since limit =>
    if since + limit ≤ s.hart.clock then s.endHold d ((s.swaitStatus h).getD stTIMEOUT) else s
  | _ => s

/-- The time-out of a `bwait`: the arrival is withdrawn (R272). -/
def State.bwaitExpire (s : State) : State :=
  match s.hart.hold with
  | .bwait l ch d since limit =>
    if since + limit ≤ s.hart.clock then
      let b := s.pkg.barrier l (BarLevel.unit l s.cur) ch
      (s.mapPkg fun p => p.setBarrier { b with arrived := b.arrived.filter (· ≠ s.cur) }).endHold d stTIMEOUT
    else s
  | _ => s

/-! ### BAR (R272) -/

/-- A barrier function on the channel in s[A]. -/
def issueBar (l : BarLevel) (a d : SReg) (srcs : List SReg) (f : State → Barrier → State) (s : State) : State :=
  issue (Need.bit 0) (a :: srcs) [d] (fun s =>
    let w := s.src a
    if bitsOf w 63 4 ≠ 0 then s.answer d stINVAL
    else f s (s.pkg.barrier l (BarLevel.unit l s.cur) w.toNat)) s

/-- `bjoin`. -/
def execBjoin (l : BarLevel) (d a : SReg) (s : State) : Out :=
  .next (issueBar l a d [] (fun s b =>
    if b.members.contains s.cur then s.answer d stBUSY
    else (s.mapPkg fun p => p.setBarrier { b with members := b.members ++ [s.cur] }).answer d stOK) s)
/-- `bwait`. -/
def execBwait (l : BarLevel) (d a b : SReg) (s : State) : Out :=
  .next (issueBar l a d [b] (fun s x =>
    if !x.members.contains s.cur then s.answer d stINVAL
    else
      (s.mapHart fun h => { h with hold := .bwait l x.ch d s.hart.clock (s.src b).toNat }).holdSlot) s)
/-- `bleave`. -/
def execBleave (l : BarLevel) (d a : SReg) (s : State) : Out :=
  .next (issueBar l a d [] (fun s b =>
    if !b.members.contains s.cur then s.answer d stINVAL else (s.leaveBarrier b s.cur).answer d stOK) s)

end Sys2Proof.Machine
end

