-- ==== Sys2Proof/Machine/Graphs.lean ====
section
/-! DEFINITION. Graphs: the area (R273), the GRP instructions (R274), the snapshot of a replay and the spawning of its nodes
(R275). -/
namespace Sys2Proof.Machine

/-! ### The area (R273) -/

def graphCap : Nat := 4096
def nodeBytes : Nat := 192

/-- Address of node i of the graph at g. -/
def nodeAddr (g : Word) (i : Nat) : Word := g + wordOf (64 + nodeBytes * i)

/-- Header words 0 to 3 as they stand. -/
structure GraphHdr where
  sealedG : Bool
  count : Nat
  cap : Nat
  totp : Nat
  replays : Nat
deriving DecidableEq, Repr

/-- The header of a graph; nothing where the area is bad. -/
def State.graphHdr (s : State) (x : Xl) (g : Word) : Option GraphHdr :=
  if g.toNat % 64 ≠ 0 then none
  else
    (s.readBlock x g 4).bind fun ws =>
      let st := bitsOf (recW ws 0) 63 60
      if 2 ≤ st then none
      else some { sealedG := decide (st = 1), count := bitsOf (recW ws 0) 15 0, cap := (recW ws 1).toNat
                  totp := (recW ws 2).toNat, replays := (recW ws 3).toNat }

/-- A node's 24 words. -/
def State.nodeWords (s : State) (x : Xl) (g : Word) (i : Nat) : Option (List Word) := s.readBlock x (nodeAddr g i) 24

def nodePred (n : List Word) : Nat := bitsOf (recW n 16) 31 0
def nodeSuccCount (n : List Word) : Nat := bitsOf (recW n 16) 47 32
/-- Successor k of a node. -/
def nodeSucc (n : List Word) (k : Nat) : Nat := bitsOf (recW n (17 + k / 4)) (16 * (k % 4) + 15) (16 * (k % 4))
def nodeSuccs (n : List Word) : List Nat := (List.range (min 28 (nodeSuccCount n))).map (nodeSucc n)

def State.allNodes (s : State) (x : Xl) (g : Word) (n : Nat) : Option (List (List Word)) :=
  (List.range n).mapM (s.nodeWords x g)

/-- Who translates for the focused hart in its mode. -/
def State.xlHere (s : State) : Xl := s.xl s.hart.hst.mode

/-- A failure (R274). -/
def grpFail (n : Nat) : Word := wordOf (2 ^ 63 + n)
def gINVAL : Word := grpFail 2
def gKILLED : Word := grpFail 3

/-- A GRP function other than `grplay`: what it writes to the area, and its result. -/
def issueGraph (srcs : List SReg) (d : SReg) (f : State → Option State × Word) (s : State) : State :=
  issue (Need.bit 21) srcs [d] (fun s =>
    match f s with
    | (some t, w) => t.answer d w
    | (none, _) => s.answer d gINVAL) s

def State.putWords (s : State) (va : Word) (ws : List Word) : Option State := s.writeBlock (s.xl s.hart.hst.mode) va ws

/-! ### Building a graph (R274) -/

/-- `grbeg`. -/
def State.graphBegin (s : State) (g cap : Word) : Option State × Word :=
  if cap.toNat < 1 ∨ graphCap < cap.toNat ∨ (s.areaPages (s.xl s.hart.hst.mode) g (64 + nodeBytes * cap.toNat) true).isNone then
    (none, gINVAL)
  else (s.putWords g [0, cap, 0, 0], g)

/-- `gadd` of a checked record. -/
def State.graphAdd (s : State) (ws : List Word) (g : Word) : Option State × Word :=
  match s.graphHdr s.xlHere g with
  | none => (none, gINVAL)
  | some h =>
    if h.sealedG ∨ h.cap ≤ h.count then (none, gINVAL)
    else
      let rec0 := ws.set 7 (wordOf (h.count * 2 ^ 48))
      ((s.putWords (nodeAddr g h.count) (rec0.take 16 ++ List.replicate 8 0)).bind fun s =>
        s.putWords g [wordOf (h.count + 1)], wordOf h.count)

/-- `gdep`: the new successor takes the predecessor's next place. -/
def State.graphDep (s : State) (g b : Word) : Option State × Word :=
  let succ := bitsOf b 15 0
  let pred := bitsOf b 31 16
  match s.graphHdr s.xlHere g, s.nodeWords s.xlHere g pred, s.nodeWords s.xlHere g succ with
  | some h, some p, some q =>
    if h.sealedG ∨ h.count ≤ succ ∨ succ ≤ pred ∨ 28 ≤ nodeSuccCount p then (none, gINVAL)
    else
      let k := nodeSuccCount p
      let w := recW p (17 + k / 4)
      let w' := wordOf (w.toNat - nodeSucc p k * 2 ^ (16 * (k % 4)) + succ * 2 ^ (16 * (k % 4)))
      (((s.putWords (nodeAddr g pred + wordOf (8 * (17 + k / 4))) [w']).bind fun s =>
        s.putWords (nodeAddr g pred + 128) [wordOf ((k + 1) * 2 ^ 32 + nodePred p)]).bind fun s =>
        s.putWords (nodeAddr g succ + 128) [wordOf (nodeSuccCount q * 2 ^ 32 + (nodePred q + 1))], stOK)
  | _, _, _ => (none, gINVAL)

/-- `grend`: one terminal node; TOTP is set. -/
def State.graphEnd (s : State) (g : Word) : Option State × Word :=
  match s.graphHdr s.xlHere g with
  | none => (none, gINVAL)
  | some h =>
    match s.allNodes s.xlHere g h.count with
    | none => (none, gINVAL)
    | some ns =>
      if h.sealedG ∨ (ns.filter fun n => decide (nodeSuccCount n = 0)).length ≠ 1 then (none, gINVAL)
      else (s.putWords g [wordOf (2 ^ 60 + h.count), wordOf h.cap, wordOf ((ns.map recPlen).sum)], stOK)

/-- `gfree`: the area is the program's again, as it stands. -/
def State.graphFree (s : State) (g : Word) : Option State × Word :=
  match s.graphHdr s.xlHere g with
  | none => (none, gINVAL)
  | some h => (some s, if h.replays ≠ 0 then grpFail 1 else stOK)

/-- `grbeg`. -/
def execGrbeg (d a b : SReg) (s : State) : Out := .next (issueGraph [a, b] d (fun s => s.graphBegin (s.src a) (s.src b)) s)
/-- `gadd`: the record is checked as by `tspawn` (DEDUCED, log entry 80). -/
def execGadd (d a b : SReg) (s : State) : Out :=
  .next (issue (Need.bit 21) [a, b] [d] (fun s =>
    match s.checkRecord (s.src a) true with
    | .trap c => (s.countPoison c).trapHere c
    | .status n _ => s.answer d (grpFail n)
    | .ok ws =>
      match s.graphAdd ws (s.src b) with
      | (some t, w) => t.answer d w
      | (none, _) => s.answer d gINVAL) s)
/-- `gdep`. -/
def execGdep (d a b : SReg) (s : State) : Out := .next (issueGraph [a, b] d (fun s => s.graphDep (s.src a) (s.src b)) s)
/-- `grend`. -/
def execGrend (d a : SReg) (s : State) : Out := .next (issueGraph [a] d (fun s => s.graphEnd (s.src a)) s)
/-- `gfree`. -/
def execGfree (d a : SReg) (s : State) : Out := .next (issueGraph [a] d (fun s => s.graphFree (s.src a)) s)

/-! ### Replays (R275) -/

/-- What starting a replay needs of its caller: who translates, on which die, in which scope, and who receives the increment; of a
program also the highest PRIO, the use mask and the scope that bind what it spawns (R270). -/
structure Player where
  xl : Xl
  owner : Option Owner
  scope : Word
  bound : Option (Option Nat × BitVec 64 × Word)

/-- The words before node i in the snapshot. -/
def snapOff (ns : List (List Word)) (i : Nat) : Nat := ((ns.take i).map recPlen).sum

/-- The patches of a replay block: node, word offset, value. -/
def State.readPatches (s : State) (x : Xl) (b : Word) : Option (List (Nat × Nat × Word)) :=
  (s.readBlock x b 1).bind fun h =>
    (s.readBlock x (b + 16) (2 * (recW h 0).toNat)).map fun ws =>
      (List.range (recW h 0).toNat).map fun k =>
        (bitsOf (recW ws (2 * k)) 63 48, bitsOf (recW ws (2 * k)) 47 32, recW ws (2 * k + 1))

/-- A patch lies within its node's block. -/
def patchOk (ns : List (List Word)) (p : Nat × Nat × Word) : Bool :=
  match ns[p.1]? with
  | some n => decide (p.2.1 < recPlen n)
  | none => false

/-- The parameter blocks in node order (DEDUCED, log entry 67). -/
def State.readParams (s : State) (x : Xl) : List (List Word) → Option (List Word)
  | [] => some []
  | n :: ns =>
    match (if recPsrc n = 0 then some (List.replicate (recPlen n) 0) else s.readBlock x (wordOf (recPsrc n)) (recPlen n)),
          s.readParams x ns with
    | some a, some b => some (a ++ b)
    | _, _ => none

/-- A node's record with its PSRC at its copy in the snapshot (DEDUCED, log entry 67). -/
def atSnap (snap : Word) (ns : List (List Word)) (i : Nat) (n : List Word) : List Word :=
  let r := n.take 16
  if recPsrc r = 0 then r
  else r.set 2 (wordOf (recPlen r * 2 ^ 48 + (snap.toNat + 8 * snapOff ns i) % 2 ^ 48))

/-- A node's record keeps R270 as a record that its player spawns would (DEDUCED, log entry 80). -/
def State.nodeAllowed (s : State) (p : Player) (n : List Word) : Bool :=
  match p.bound with
  | none => recOk (n.take 16) none
  | some (prio, use, scope) => recAllowed (n.take 16) prio use && s.pkg.under (recScope n) scope

/-- A node's words as its replay takes them: SCOPE 0 stands for the player's scope (R270) (DEDUCED, log entry 80). -/
def Player.node (p : Player) (n : List Word) : List Word := if recScope n = 0 then n.set 5 p.scope else n

/-- Start a replay: its snapshot and its place among the replays of the graph, or a status (R275). -/
def State.replayStart (s : State) (p : Player) (h : GraphHdr) (nodes : List (List Word)) (g b : Word) : Except Nat State :=
  let ns := nodes.map p.node
  if !h.sealedG || (ns.any fun n => (s.scopeState (recScope n)).isSome && !s.nodeAllowed p n) then .error 2
  else if s.scopeState p.scope ≠ some .live ∨ (ns.any fun n => decide (s.scopeState (recScope n) ≠ some .live)) then .error 3
  else
    match s.readBlock p.xl (b + 8) 1, s.readPatches p.xl b, s.readParams p.xl ns, s.blockAddr p.xl g false with
    | some sn, some ps, some ws, some area =>
      if !ps.all (patchOk ns) then .error 2
      else
        let snap := recW sn 0
        let image := ps.foldl (fun ws q => ws.set (snapOff ns q.1 + q.2.1) q.2.2) ws
        (match (s.writeBlock p.xl snap image).bind fun s => s.writeBlock p.xl (g + 24) [wordOf (h.replays + 1)] with
         | none => .error 2
         | some s =>
           let recs := (ns.zip (List.range ns.length)).map fun q => atSnap snap ns q.2 q.1
           let r : Replay :=
             { id := s.pkg.nextCtx, graph := g, area := area, owner := p.owner, scope := p.scope, die := p.xl.die, recs := recs, preds := ns.map nodePred
               iters := recs.map recTotal, spawned := ns.map fun _ => false, succs := ns.map nodeSuccs, tctx := p.xl.ctx
               root := p.xl.root }
           .ok (s.mapPkg fun p => { p with replays := p.replays ++ [r], nextCtx := p.nextCtx + 1 }))
    | _, _, _, _ => .error 2

/-- Start a replay of the graph at an address. -/
def State.replayGraph (s : State) (p : Player) (g b : Word) : Except Nat State :=
  match s.graphHdr p.xl g with
  | none => .error 2
  | some h =>
    match s.allNodes p.xl g h.count with
    | none => .error 2
    | some ns => s.replayStart p h ns g b

/-- `grplay`: s[D] at once, the increment when the replay ends; one that does not start has it still to come (R355)
(DEDUCED, log entry 44). -/
def execGrplay (d a b : SReg) (tk : Tok) (s : State) : Out :=
  .next (issue (Need.bit 21) [a, b] [d] (fun s =>
    if s.hart.full then s.freeze
    else
      match s.replayGraph ⟨s.xlHere, some (s.ownerHere (s.fresh + 64) tk), s.ownScope, some (s.maxPrio, s.ownUse, s.ownScope)⟩
          (s.src a) (s.src b) with
      | .ok t => (t.writeReg d stOK 1).post tk none fun _ x => x
      | .error n =>
        (s.writeReg d (grpFail n) 1).post tk none fun id x => x.postLate (s.ownerHere id tk) none) s)

/-- Mark a node of a replay spawned. -/
def State.markSpawned (s : State) (r : Replay) (node : Nat) : State :=
  let replays := s.pkg.replays.map fun x => if x = r then { x with spawned := x.spawned.set node true } else x
  s.mapPkg fun p => { p with replays := replays }

/-- A running replay of a graph at an address has a node to spawn: its predecessors have retired. -/
def Replay.due (r : Replay) (g : Word) (node : Nat) : Bool :=
  decide (r.graph = g ∧ r.preds[node]? = some 0 ∧ r.spawned[node]? = some false)

/-- The running replay of a graph, of the focused die before one of another, spawns a node whose predecessors have retired, under
R270; without room it waits, and in a scope that is not LIVE it is refused as KILLED (R266) (DEDUCED, log entry 81). -/
def State.nodeSpawn (s : State) (g : Word) (node : Nat) : State :=
  let run := (runningReplays s.pkg.replays).filter fun r => r.due g node
  match (run.find? fun r => decide (r.die = s.cur.die)).or run.head? with
  | none => s
  | some r =>
    match r.recs[node]?, r.preds[node]?, r.spawned[node]? with
    | some ws, some 0, some false =>
      (match s.pkg.scopeState (recScope ws) with
       | some .live =>
         match s.placeRec r.die (s.newRec ws (some ⟨r.die, g, node, r.id⟩) r.tctx r.root none) with
         | .queued s => s.markSpawned r node
         | _ => s
       | some .cancelling =>
         (s.mapPkg fun p => p.modCnt (recScope ws) fun c => c.addKq (recTotal ws)).markSpawned r node
       | _ => s.markSpawned r node)
    | _, _, _ => s

end Sys2Proof.Machine
end

