-- ==== Sys2Proof/Machine/System.lean ====
section
/-! DEFINITION. SYS (R297, R306) and XLT (R307). -/
namespace Sys2Proof.Machine

/-! ### Calls and returns -/

/-- `scall`. -/
def execScall (s : State) : Out := .next (issue (Need.bit 0) [] [] (fun s => s.trapHere .scall) s)
/-- `break`. -/
def execBrk (s : State) : Out := .next (issue (Need.bit 0) [] [] (fun s => s.trapHere .brk) s)

/-- `sret` (R297): a transfer to s[A]; on a context that has lost a slice it traps ILLEGAL (DEDUCED, log entry 74). -/
def execSret (a : SReg) (s : State) : Out :=
  .next (issue Need.privileged [a] [] (fun s =>
    if (s.hart.ctx.map (·.lost)).getD false then s.trapHere .illegal
    else
      let target := s.src a
      let at0 := s.hart.pc
      let s := if s.hart.ctx.isNone then landAll (inflBound s.hart + 1) s else s
      ticks 3 ((leaveTrap target s).mapHart fun h =>
        { h with held := false, atVector := false, lastTransfer := some at0 })) s)

/-- `svec` (DEDUCED, log entry 26). -/
def execSvec (d a : SReg) (s : State) : Out :=
  .next (issuePriv Need.privileged [a] d (fun s =>
    let w := s.src a
    if bitsOf w 63 48 ≠ 0 ∨ bitsOf w 1 0 ≠ 0 then (s, stINVAL)
    else (s.mapHart fun h => { h with svec := w }, s.hart.svec)) s)

/-- `swatch` (DEDUCED, log entry 26). -/
def execSwatch (d a : SReg) (s : State) : Out :=
  .next (issuePriv Need.privileged [a] d (fun s =>
    (s.mapHart fun h => { h with watch := s.src a }, s.hart.watch)) s)

/-! ### The user bank (R306) -/

/-- A user-bank item: 0 to 3 for s28 to s31, 16 to 31 for the counters. -/
def Hart.userItem (h : Hart) (k : Nat) : Option Word :=
  if k < 4 then some h.s[(⟨(28 + k) % 32, Nat.mod_lt _ (by decide)⟩ : SReg)]
  else if 16 ≤ k ∧ k < 32 then some ((h.tk[(⟨k % 16, Nat.mod_lt _ (by decide)⟩ : Tok)].cnt).setWidth 64)
  else none

def Hart.setUserItem (h : Hart) (k : Nat) (w : Word) : Hart :=
  if k < 4 then { h with s := h.s.set (⟨(28 + k) % 32, Nat.mod_lt _ (by decide)⟩ : SReg) w }
  else
    let t : Tok := ⟨k % 16, Nat.mod_lt _ (by decide)⟩
    { h with tk := h.tk.set t { h.tk[t] with cnt := w.setWidth 32 } }

/-- `subr`. -/
def execSubr (d a : SReg) (s : State) : Out :=
  .next (issuePriv Need.privileged [a] d (fun s => (s, (s.hart.userItem (s.src a).toNat).getD stINVAL)) s)

/-- `subw`. -/
def execSubw (d a b : SReg) (s : State) : Out :=
  .next (issuePriv Need.privileged [a, b] d (fun s =>
    match s.hart.userItem (s.src a).toNat with
    | some old => (s.mapHart fun h => h.setUserItem (s.src a).toNat (s.src b), old)
    | none => (s, stINVAL)) s)

/-! ### Saving and restoring a context (R302, R303, R306) -/

/-- Where the front of the trapped context resumes: TRFROM for a trap found after issue, else TRPC (R297)
(DEDUCED, log entry 62). -/
def Hart.resumePc (h : Hart) : Word := if bitOf h.trcause 12 then h.trfrom else h.trpc

/-- `ctxsave` (DEDUCED, log entry 62). -/
def execCtxsave (d a : SReg) (s : State) : Out :=
  .next (issue Need.privileged [a] [d] (fun s =>
    match s.hart.ctx with
    | none => s.answer d stINVAL
    | some c =>
      match s.areaPages (s.xl true) (s.src a) (areaBytes s.hart.hst.helm c.cwLen) true with
      | none => s.trapHere .beacon
      | some (off, pages) =>
        if !s.unitsQuiet || (!s.hart.qf && !s.hart.vq.isEmpty) then s.hold
        else
          let s := landAll (inflBound s.hart + 1) s
          let t := s.saveInto off pages none s.hart.resumePc false
          t.emptyHart.answer d stOK) s)

/-- What stands at a save area: nothing where it is not wholly readable. -/
def State.areaAt (s : State) (va : Word) : Option Saved :=
  let x := s.xl true
  let blank (off : Nat) (pages : List Nat) : Saved :=
    { areaOff := off, pages := pages, slot := none, queued := false
      ctx := { id := 0, use := 0, scope := 0, iter := 0, tctx := 0, root := 0, cwLen := 0, cwBase := 0, graph := none, block := (0, 0), age := 0
               faults := [], lostFaults := 0, lost := false }
      prio := 0, lanes := 0, origin := s.cur, pendS := [], sv := [] }
  (s.areaPages x va 8 false).bind fun p =>
    let helm := bitOf ((blank p.1 p.2).word s.pkg.mem 0) 15
    (s.areaPages x va (areaBytes helm 0) false).bind fun p =>
      let c := (blank p.1 p.2).readIdent s.pkg.mem helm 0 0
      (s.areaPages x va (areaBytes helm c.cwLen) false).map fun p => { blank p.1 p.2 with ctx := c, lanes := if helm then 0 else 1 }

/-- The saved context of an area, if the machine knows one. -/
def State.savedAt (s : State) (v : Saved) : Option (Nat × Saved) :=
  s.allDies.findSome? fun p => (p.2.saved.find? fun w => decide (w.areaOff = v.areaOff ∧ w.pages = v.pages)).map fun w => (p.1, w)

/-- The conditions under which `ctxrest` answers INVAL. -/
def State.restInval (s : State) (v : Saved) : Bool :=
  let m := s.pkg.mem
  let hdr := v.word m 0
  let helm := bitOf hdr 15
  let xctx := v.word m (identOff helm + 0x18)
  s.hart.ctx.isSome || decide (helm ≠ s.hart.hst.helm) || (!helm && decide (bitsOf hdr 55 48 ≠ s.hart.lanes)) ||
    decide (bitsOf xctx 9 8 ≠ s.cur.die) || decide (v.ctx.use &&& ~~~(s.pkg.capOf s.cur) ≠ 0) ||
    decide ((if helm then 16 else 96) < v.ctx.cwBase + v.ctx.cwLen)

/-- A context on a quad that drains for a sounding, with PRIO at most 6, is to be saved (R320). -/
def Hart.drainSave (h : Hart) : Hart := if h.ctx.isSome && decide (h.hst.prio.val ≤ 6) then { h with savePend := true } else h

/-- A context is brought back by a handler, on a quad that drains to be saved again after its `sret` (R320). -/
def State.bringBack (s : State) (v : Saved) : State :=
  let s := s.restore v
  if s.die.draining = some s.cur.quad then s.mapHart Hart.drainSave else s

/-- `ctxrest`: it holds until what the handler itself has in the queue and the units is done (R22) (DEDUCED, log entry 62). -/
def execCtxrest (d a : SReg) (s : State) : Out :=
  .next (issue Need.privileged [a] [d] (fun s =>
    match s.areaAt (s.src a) with
    | none => s.trapHere .beacon
    | some v =>
      if s.restInval v then s.answer d stINVAL
      else if !s.queueQuiet then s.hold
      else
        let s := landAll (inflBound s.hart + 1) s
        let helm := s.hart.hst.helm
        match s.savedAt v with
        | some (die, w) =>
          let c := w.readIdent s.pkg.mem helm w.ctx.id w.ctx.age
          let s := s.putDie die { s.getDie die with
            saved := (s.getDie die).saved.filter fun y => decide (y.ctx.id ≠ w.ctx.id) }
          (s.bringBack { w with ctx := c }).answer d stOK
        | none =>
          let c := v.readIdent s.pkg.mem helm s.pkg.nextCtx s.pkg.nextAge
          let s := s.mapPkg fun p => { p with nextCtx := p.nextCtx + 1, nextAge := p.nextAge + 1 }
          (s.bringBack { v with ctx := c }).answer d stOK) s)

/-- `ctxdrop`: the context in the area ends as a kill ends a saved one; an area that holds none is INVAL. -/
def execCtxdrop (d a : SReg) (s : State) : Out :=
  .next (issue Need.privileged [a] [d] (fun s =>
    match s.areaAt (s.src a) with
    | none => s.trapHere .beacon
    | some v =>
      match s.savedAt v with
      | some (die, w) => (s.killSaved die w).answer d stOK
      | none =>
        if bitsOf (v.word s.pkg.mem 0) 7 0 = 1 then (s.killSaved s.cur.die v).answer d stOK else s.answer d stINVAL) s)

/-! ### Pools and rings (R306) -/

/-- A pool slot of a kind is in use. -/
def Die.poolBusy (d : Die) (helm : Bool) : Bool := d.saved.any fun v => v.slot.isSome && (decide (v.lanes = 0) == helm)

/-- `spool` (DEDUCED, log entry 79). -/
def execSpool (d a b : SReg) (s : State) : Out :=
  .next (issuePriv Need.privileged [a, b] d (fun s =>
    let base := s.src a
    let w := s.src b
    let helm := bitOf w 16
    let cw := bitsOf w 23 17
    if base.toNat % 64 ≠ 0 ∨ bitsOf w 63 24 ≠ 0 ∨ (if helm then 16 else 96) < cw then (s, stINVAL)
    else if s.die.poolBusy helm then (s, stBUSY)
    else
      let p : Pool := ⟨base.toNat, bitsOf w 15 0, cw⟩
      (s.mapDie fun k =>
        if helm then { k with helmPool := some p, poolUser := s.hart.xlat }
        else { k with pool := some p, poolUser := s.hart.xlat }, stOK)) s)

/-- `sring` (DEDUCED, log entry 79). -/
def execSring (d a b : SReg) (s : State) : Out :=
  .next (issuePriv Need.privileged [a, b] d (fun s =>
    let base := s.src a
    let n := (s.src b).toNat
    if base.toNat % 64 ≠ 0 ∨ n = 0 ∨ 65536 < n ∨ 2 ^ Nat.log2 n ≠ n then (s, stINVAL)
    else if !s.die.ring.isEmpty then (s, stBUSY)
    else
      (s.mapDie fun k => { k with ringBase := base.toNat, ringSlots := n, ringHead := 0, ringUser := s.hart.xlat }, stOK)) s)

/-! ### XLT (R307) -/

/-- A range entry of the die; one never written is all zero. -/
def Die.range (d : Die) (k : Nat) : Range := (assocGet d.ranges k).getD ⟨0, 0, 0, 0⟩

def Range.words (r : Range) : List Word := [r.base, r.limit, r.off, r.attr]

/-- `xrng`: a bad Chart address traps CHART, a poisoned word POISON, as a scalar load does. -/
def execXrng (d a b : SReg) (s : State) : Out :=
  .next (issue Need.privileged [a, b] [d] (fun s =>
    let at0 := (s.src a).toNat
    let k := (s.src b).toNat
    if at0 % 8 ≠ 0 ∨ s.chartSize < at0 + 32 then s.trapHere .chart
    else if anyPoison (storesAll s).core.chartPoison at0 32 then (s.countPoison .poison).trapHere .poison
    else
      let s := storesAll s
      let w (j : Nat) : Word := s.core.chart.word (at0 + 8 * j)
      let r : Range := ⟨w 0, w 1, w 2, w 3⟩
      if 512 ≤ k ∨ rangeOk r = false then s.answer d stINVAL
      else (s.mapDie fun x => { x with ranges := assocSet x.ranges k r }).answer d (s.die.range k).attr) s)

/-- `xrrd`. -/
def execXrrd (d a b : SReg) (s : State) : Out :=
  .next (issuePriv Need.privileged [a, b] d (fun s =>
    let k := (s.src a).toNat
    let j := (s.src b).toNat
    (s, if 512 ≤ k ∨ 4 ≤ j then stINVAL else ((s.die.range k).words[j]?).getD 0)) s)

/-- `xctx`. -/
def execXctx (d a b : SReg) (s : State) : Out :=
  .next (issuePriv Need.privileged [a, b] d (fun s =>
    let n := (s.src a).toNat
    let root := (s.src b).toNat
    match s.hart.ctx with
    | none => (s, stINVAL)
    | some c =>
      if 254 < n ∨ root % 4096 ≠ 0 ∨ !(inBulk root || inHold root) then (s, stINVAL)
      else (s.mapHart fun h => { h with ctx := some { c with tctx := n, root := root } }, wordOf c.tctx)) s)

/-- A kept translation is one that an `xinv` discards: one made under the context number, or under any for 255, that covers a byte
of the page (R169, R307). -/
def Tr.discarded (t : Tr) (num : Nat) (every : Bool) (page : Nat) : Bool :=
  decide (num = 255 ∨ num = t.ctx) && (every || decide (t.lo < page + 4096 ∧ page < t.hi))

def keepTr (num : Nat) (every : Bool) (page : Nat) (t : Option Tr) : Option Tr := t.filter fun x => !x.discarded num every page

/-- Discard the translations of a context, or of all, on the focused die: of ports, channels and Sorter operands. -/
def State.invalidate (s : State) (num : Nat) (every : Bool) (page : Nat) : State :=
  let keep := keepTr num every page
  let die := s.cur.die
  let port (p : PortSt) : PortSt := { p with tr := keep p.tr }
  let s := (s.dieHarts die).foldl (fun s h => s.modHart h fun x => { x with ports := x.ports.map port }) s
  let cmd (c : CopyCmd) : CopyCmd := { c with srcTr := keep c.srcTr, dstTr := keep c.dstTr }
  let s := (s.coreIds.filter fun h => decide (h.die = die)).foldl (fun s h =>
    let c := s.getCore h
    s.putCore h { c with chans := c.chans.map fun k => { k with q := k.q.map cmd }
                         shadow := c.shadow.map fun x => { x with ports := x.ports.map port } }) s
  (s.quadIds.filter fun h => decide (h.die = die)).foldl (fun s h =>
    let q := s.getQuad h
    s.putQuad h { q with passes := q.passes.map fun p => { p with trs := p.trs.map keep } }) s

/-- `xinv`. -/
def execXinv (d a b : SReg) (s : State) : Out :=
  .next (issuePriv Need.privileged [a, b] d (fun s =>
    (s.invalidate (bitsOf (s.src a) 7 0) (bitOf (s.src b) 0) ((s.src b).toNat / 4096 * 4096), 0)) s)

/-- `xpois` (DEDUCED, log entry 79). -/
def execXpois (d a b : SReg) (s : State) : Out :=
  .next (issuePriv Need.privileged [a, b] d (fun s =>
    let pa := (s.src a).toNat
    let f := pa / 4096
    if !(inBulk pa || inHold pa) || decide (1 < (s.src b).toNat) then (s, stINVAL)
    else
      (s.mapPkg fun p => p.setPoison f (decide (s.src b = 1)), boolWord (s.pkg.poisoned f))) s)

end Sys2Proof.Machine
end

