-- ==== Sys2Proof/Machine/Integrity.lean ====
section
/-! DEFINITION. Integrity: replays and failed ALUs (R312, R313), lost slices (R315), capability fencing (R317 to R319) and
sounding (R320 to R322). -/
namespace Sys2Proof.Machine

/-! ### Traps that the lanes raise (R290, R313, R315) -/

/-- AUX of LANELOST and MIRROR: the core lane, the register, whether it is a mask register (R286). -/
def laneAux (lane reg : Nat) : Nat := lane % 32 + reg % 32 * 2 ^ 8 + (if 32 ≤ reg then 2 ^ 13 else 0)

/-- The register of an AUX word: 32 and above a mask register. -/
def auxReg (aux : Nat) : Nat := aux / 2 ^ 8 % 32 + (if aux / 2 ^ 13 % 2 = 1 then 32 else 0)

/-- An entry uses a register (of a mismatch: writes it). -/
def State.entryUses (s : State) (x : VEntry) (reg : Nat) (dst : Bool) : Bool :=
  let g := s.hart.geo x
  (x.named (max 1 s.hart.leff)).any fun u =>
    (u.dst || !dst) && decide (u.mask = decide (32 ≤ reg)) && spansMeet (u.span g.g8 g.sew) (reg % 32, 1)

/-- The elements of an entry in the groups before the first that uses a register, with that group itself where its result was written
(R304, R313) (DEDUCED, log entry 76). -/
def State.groupBelow (s : State) (x : VEntry) (reg : Nat) (dst written : Bool) : Nat :=
  let g := s.hart.geo x
  let group := match g.us.find? fun u => (u.dst || !dst) && decide (u.mask = decide (32 ≤ reg)) && spansMeet (u.span g.g8 g.sew) (reg % 32, 1) with
    | some u => (reg % 32 - u.reg) * 256 / max 1 (64 * u.w / max 1 g.w)
    | none => 0
  min x.vl ((group + written.toNat) * (max 1 s.hart.leff * (64 / max 1 g.w)))

/-- The DONE counters of an entry with the elements below k done too. -/
def State.donesTo (s : State) (x : VEntry) (k : Nat) : List Nat :=
  if k = 0 then x.dones
  else
    let ds := doneCounts s.hart.lanes (max 1 s.hart.leff) k
    (List.range (max ds.length x.dones.length)).map fun j => max ((ds[j]?).getD 0) ((x.dones[j]?).getD 0)

/-- Registers take the results of done elements, mirrored in protected mode, and their flags merge (R292, R314). -/
def State.landPart (s : State) (x : VEntry) (v : VFile) (m : MFile) (raised : Raised) : State :=
  s.mapHart fun h =>
    ({ h with v := v, m := m }.mirrorWrites (h.geo x).us (g8Of x.vcfg) (sewOf x.vcfg)).mergeFlags (Raised.flags raised) (Raised.lows raised)

/-- The elements of the head entry below k are computed, written and merged, and no other (R292): of a fixed-latency entry or a read of
a tile; other entries stop before their first. -/
def State.runBelow (s : State) (x : VEntry) (k : Nat) : State × Nat :=
  let e := { s.hart.env x s.hart.v s.hart.m with vl := k, tp := false }
  if k = 0 then (s, 0)
  else
    match x.op with
    | .vts f d t _ =>
      if f.isWrite || !s.quad.ten.getLsbD t.val then (s, 0)
      else
        let r := tileMove f d t e s.quad
        (({ s with quad := r.2 }).landPart x r.1 e.m0 [], k)
    | op =>
      match fixedRes op e with
      | some r => (s.landPart x r.v r.m r.raised, k)
      | none => (s, 0)

/-- Where an operation of a shared unit stops at a trap of the lanes (R292, R304): a load and a port transfer with the groups before
the failing one done, a Chart store and a port write with what they have stored, a `vwait` with what is met; an operation of the
network or a plane store before its first element (DEDUCED, log entry 76). -/
def State.unitStop (s : State) (o : UOp) (k : Nat) : State × List Nat :=
  let x := o.ent
  let fs := s.filesOf x
  let e := { s.hart.env x fs.1 fs.2 with tp := false }
  match x.op with
  | .vwait _ _ _ => (s, s.vwaitDones o)
  | .vld md d _ =>
    if !o.passed then (s, x.dones) else (s.landPart x (chartLoad md e d s.core.chart k) s.hart.m [], s.donesTo x k)
  | .vst _ _ _ => (s, s.donesTo x o.stored)
  | .vpt f d p b _ =>
    let hi := if f.isWrite then o.stored else if f.isNarrow then k / max 1 e.bs * max 1 e.bs else k
    (match s.run s.hart.ports[p].handle with
     | none => (s, x.dones)
     | some r =>
       if hi = 0 then (s, x.dones)
       else
         let t := portTransfer s (s.xl x.sup) r f { e with vl := hi } d b s.hart.ports[p]
         let s' := t.s.mapHart fun h => { h with ports := h.ports.set p t.port }
         (s'.landPart x t.v s.hart.m t.raised, s.donesTo x t.k))
  | _ => (s, [])

/-- Where a started beacon access stops: the elements that have performed, of one that writes registers only those in the groups
before the failing one; the others perform again with it (DEDUCED, log entry 76). -/
def State.bopStop (s : State) (b : BOp) (x : VEntry) (k : Nat) : State × List Nat :=
  let performed := ((b.elems.head?).map BElem.idx).getD x.vl
  match b.kind with
  | .vstore => (s, s.donesTo x performed)
  | _ =>
    let k := min k performed
    (s.landPart x (s.bopRegs b { x with vl := k, vcfg := x.vcfg &&& ~~~0x80 }) s.hart.m [], s.donesTo x k)

/-- Put an entry back into the queue, in the order of issue, with what of it is done; what it held is released. -/
def State.requeue (s : State) (x : VEntry) (dones : List Nat) : State :=
  s.mapHart fun h =>
    { h.freeRegs x.id with
      vq := (h.vq.filter fun y => decide (y.id < x.id)) ++ { x with dones := dones } :: h.vq.filter fun y => decide (x.id < y.id)
      bops := h.bops.map fun b => if b.id = x.id then { b with started := false, ent := none, elems := [], got := [] } else b }

/-- Where the queue stops at a trap of the lanes (R289, R292): the entry whose group failed becomes the head V. An operation in
the units or a started beacon access that uses the register stops; else, where no operation waits in the memory pipe, the head entry
stops at its group; else nothing of the queue has met the slice (DEDUCED, log entry 76). -/
def State.laneStop (s : State) (reg : Nat) (dst written : Bool) : State :=
  let uses (x : VEntry) : Bool := s.entryUses x reg dst
  match ((s.core.net ++ s.core.pipe).filter fun o => decide (o.hid = s.cur.hid) && uses o.ent).head? with
  | some o =>
    let r := s.unitStop o (s.groupBelow o.ent reg dst written)
    (r.1.mapCore fun c => (c.dropOp .net o).dropOp .pipe o).requeue o.ent r.2
  | none =>
    match s.hart.bops.findSome? fun b => if b.started then (b.ent.filter uses).map fun x => (b, x) else none with
    | some (b, x) =>
      let r := s.bopStop b x (s.groupBelow x reg dst written)
      r.1.requeue x r.2
    | none =>
      match s.hart.vq with
      | [] => s
      | x :: rest =>
        if (s.core.pipe.any fun u => decide (u.hid = s.cur.hid) && !u.passed) || !uses x then s
        else
          let r := s.runBelow x (s.groupBelow x reg dst written)
          r.1.mapHart fun h => { h with vq := { x with dones := s.donesTo x r.2 } :: rest }

/-- What else of the focused hart's queue has begun finishes (R289, R292); an entry that waits, or meets a trap of its own, goes back
into the queue and stands frozen there (R290) (DEDUCED, log entry 76). -/
def finishBegun : Nat → State → State
  | 0, s => s
  | n + 1, s =>
    match s.nextBegun with
    | none => s
    | some (.net, o) => finishBegun n (s.netFinish { o with left := 0 })
    | some (.pipe, o) =>
      match s.pipeFinish { o with left := 0, blocked := false } with
      | .done s => finishBegun n s
      | .waits s o =>
        let r := s.unitStop o 0
        finishBegun n ((s.mapCore fun c => c.dropOp .pipe o).requeue o.ent (if o.ent.op matches .vwait _ _ _ then r.2 else o.ent.dones))
      | .trap _ _ => finishBegun n ((s.mapCore fun c => c.dropOp .pipe o).requeue o.ent o.ent.dones)

/-- A trap of the lanes goes before every other (R290): the queue stops where it stands, once what has begun and does not fail is
finished (DEDUCED, log entry 76). -/
def State.laneTrap (s : State) (c : Cause) (aux : Nat) (dst : Bool := false) (written : Bool := false) : State :=
  let s := landAll (inflBound s.hart + 1) s
  let s := s.laneStop (auxReg aux) dst written
  let s := finishBegun (s.core.pipe.length + s.core.net.length) s
  let v := s.hart.vq.head?
  enterTrap { cause := c, aux := aux, tk := ((v.bind VEntry.tok).map Fin.val).getD 0, can := false, qf := v.isSome, eng := false
              dfd := true, pc := (v.map VEntry.addr).getD s.hart.pc, src := s.hart.pc, dones := (v.map (·.dones)).getD [] } s

/-- The slice of a register in the hart's lane k holds a free value, its own contents being gone (DESIGN CHOICE, log entry 1). -/
def loseBits (k fresh : Nat) (x : VBits) : VBits := putBits x (256 * k) 256 (getBits (freeVec fresh) (256 * k) 256)

/-- The same for a 64-bit word of a mask register, whose bits of that lane are those of the positions i with i mod Leff = k (R96); a
free choice says which of its words is lost (R315). -/
def loseMask (leff k fresh : Nat) (x : MBits) : MBits :=
  ((List.range 64).map fun j => j + 64 * (Config.freeChoice fresh % 4)).foldl
    (fun x j => mset x (j * leff + k) ((freeVec fresh).getLsbD (j * leff + k))) x

/-- A register's slice in a core lane is lost (DEDUCED, log entry 76). -/
def State.loseSlice (s : State) (lane reg : Nat) : State :=
  let k := lane - s.hart.lane0
  (s.mapHart fun h =>
    if 32 ≤ reg then { h with m := h.m.set (ixM reg) (loseMask (max 1 h.leff) k s.fresh h.m[ixM reg]) }
    else { h with v := h.v.set (ixV reg) (loseBits k s.fresh h.v[ixV reg]) }).bump raceStride

/-- The context cannot be resumed any more (R297). -/
def Hart.loseContext (h : Hart) : Hart := { h with ctx := h.ctx.map fun c => { c with lost := true } }

/-- Every word of a lane's slices is still to be written (R315). -/
def markLane (ws : List (Nat × Nat × Nat)) (lane : Nat) : List (Nat × Nat × Nat) :=
  (ws.filter fun w => decide (w.1 ≠ lane)) ++ (List.range 40).flatMap fun r => (List.range 4).map fun k => (lane, r, k)

/-- An uncorrectable error in a slice of the hart's: rebuilt from its mirror in protected mode, else LANELOST (R315)
(DEDUCED, log entry 76) (DEDUCED, log entry 88). -/
def State.sliceLost (s : State) (aux : Nat) : State :=
  let lane := aux % 32
  let reg := auxReg aux
  let s' := s.mapCore fun c => { c with unwritten := markLane c.unwritten lane }
  if !s.hart.ownsLane lane then s
  else if s.hart.hst.prot then s'
  else ((s'.loseSlice lane reg).mapHart Hart.loseContext).laneTrap .lanelost aux

/-! ### Element-group replays (R312, R313) -/

/-- n residue mismatches in a row on one group of a lane that the focused hart owns: each replay freezes the hart for 12
cycles. At the third the lane's ALU has failed: the spare takes its place, or in protected mode the mirror's result is
written and MIRROR traps, or LANELOST traps, with no slice lost (R313, R316) (DEDUCED, log entry 88). -/
def State.groupReplay (s : State) (lane reg n : Nat) : State :=
  if !s.hart.ownsLane lane || decide (n = 0) then s
  else
    let count (s : State) (k : Nat) : State := (List.range k).foldl (fun s _ => s.countRpl s.cur) s
    let freeze (s : State) (k : Nat) : State := s.mapHart fun h => { h with frozen := h.frozen + 12 * k }
    if n < 3 then freeze (count s n) n
    else
      let s := count s 3
      if s.core.spare.isNone && s.core.sparePend.isNone then
        (freeze s 3).mapCore fun c => { c with sparePend := some (lane % 32) }
      else if s.hart.hst.prot then (freeze s 2).laneTrap .mirror (laneAux lane reg) true true
      else ((freeze s 2).mapHart Hart.loseContext).laneTrap .lanelost (laneAux lane reg) true

/-! ### Capability masks (R317 to R319) -/

/-- The bits a core of a kind may hold (DESIGN CHOICE, log entry 45). -/
def capLimit (core : Nat) : BitVec 64 := if core = 4 then 0xFFFFFF &&& ~~~0x841FF8 else 0xFFFFFF &&& ~~~0x01C000

def Pkg.capWord (p : Pkg) (h : HartId) (k : Nat) : Word := p.mem.word (capAddr h.die h.quad h.core k)
def State.setCapWord (s : State) (h : HartId) (k : Nat) (w : Word) : State :=
  s.mapMem fun m => m.setWord (capAddr h.die h.quad h.core k) w

/-- CAP of a core takes a value: contexts there whose USE holds a bit that leaves are to be saved (R319). -/
def State.setCap (s : State) (h : HartId) (w : Word) : State :=
  let w := w &&& capLimit h.core
  let gone := s.pkg.capWord h 0 &&& ~~~w
  let s := s.setCapWord h 0 w
  (List.range 8).foldl (fun s k =>
    s.modHart { h with hid := k } fun x =>
      if x.ctx.any fun c => decide (c.use &&& gone ≠ 0) then { x with savePend := true } else x) s

/-- Vexud writes CAP or CEIL of an entry of the focused die's table (R318); CEIL may hold any of the bits 0 to 23
(DESIGN CHOICE, log entry 45). -/
def State.writeCapTable (s : State) (entry word : Nat) (v : Word) : State :=
  let h : HartId := ⟨s.cur.die, entry / 5, entry % 5, 0⟩
  if 200 ≤ entry then s
  else
    match word with
    | 0 => s.setCap h v
    | 1 => s.setCapWord h 1 (v &&& 0xFFFFFF)
    | _ => s

/-! ### Sounding (R320, R321) -/

/-- The five cores of a quad. -/
def quadCores (d q : Nat) : List HartId := (List.range 5).map fun c => ⟨d, q, c, 0⟩

def coreHarts (c : HartId) : List HartId := (List.range 8).map fun k => { c with hid := k }

/-- An interval ends, which happens once: the next quad drains; its contexts with PRIO at most 6 are to be saved. An interval
that ends while a quad still drains passes by (DEDUCED, log entry 55). -/
def State.startSounding (s : State) : State :=
  let d := s.die
  if d.sndInterval = 0 ∨ d.cycles < d.sndAt then s
  else if d.draining.isSome then s.mapDie fun d => { d with sndAt := d.sndAt + d.sndInterval }
  else
    let q := d.sndNext
    let s := s.mapDie fun d => { d with sndAt := d.sndAt + d.sndInterval }
    let s := s.mapDie fun d => { d with draining := some q, drainStart := d.cycles, sndNext := (q + 1) % 40 }
    ((quadCores s.cur.die q).flatMap coreHarts).foldl (fun s h =>
      s.modHart h Hart.drainSave) s

/-- SKIP counts a sounding left out. -/
def skipUp (w : Word) : Word := if bitsOf w 15 8 = 255 then w else w + 256

/-- Nothing runs on a quad any more. -/
def State.quadDrained (s : State) (d q : Nat) : Bool :=
  ((quadCores d q).all fun c =>
    ((coreHarts c).all fun h => s.idleAt h) && (s.getCore c).chans.toList.all fun k => k.q.isEmpty) &&
    (s.getQuad ⟨d, q, 4, 0⟩).passes.isEmpty && (s.getQuad ⟨d, q, 4, 0⟩).mops.isEmpty

/-- The drain has not finished in 2^24 cycles: the quad returns to service unsounded. -/
def State.drainExpire (s : State) : State :=
  match s.die.draining with
  | none => s
  | some q =>
    if s.die.cycles < s.die.drainStart + 2 ^ 24 ∨ s.quadDrained s.cur.die q = true then s
    else
      let s := s.mapDie fun d => { d with draining := none }
      (quadCores s.cur.die q).foldl (fun s c =>
        let s := s.setCapWord c 3 (skipUp (s.pkg.capWord c 3))
        (coreHarts c).foldl (fun s h =>
          s.modHart h fun x =>
            { x with savePend := x.savePend && x.ctx.any fun k => decide (k.use &&& ~~~(s.pkg.capOf c) ≠ 0) }) s) s

/-- Bits that only Vexud sets (R317). -/
def vexudBits : BitVec 64 := 0x680000

/-- The classes whose unit is the lane ALU (R317). -/
def laneBits : BitVec 64 := 0xF8

/-- What the scan finds failed of a core: the failing classes, those of an ALU apart that the spare takes; they hold those of every
other failing lane. An ALU that no spare takes, and of which no class is named, fails in all of them (DEDUCED, log entry 77). -/
def aluFails (fails : BitVec 64) (alu : Option Nat) (spared : Bool) : BitVec 64 :=
  if alu.isSome && !spared && decide (fails &&& laneBits = 0) then fails ||| laneBits else fails

/-- Of the lanes that have lost a slice, those whose slice storage the scan finds at fault: a free choice (R315). -/
def Core.faultyLanes (c : Core) (k : Nat) : BitVec 32 :=
  (List.range 32).foldl (fun x l => if c.laneLost l && Config.freeBit (k + l) then x ||| BitVec.ofNat 32 (2 ^ l) else x) 0

/-- The entry of a core after the scan (R321): `fails` are the classes whose units failed, an ALU apart that the spare takes, `alu`
a lane whose ALU failed, `k` the number from which free bits say of which lost lanes the slice storage is at fault (DEDUCED, log
entry 77) (DESIGN CHOICE, log entry 1). -/
def State.scanCore (s : State) (c : HartId) (fails : BitVec 64) (alu : Option Nat) (k : Nat) : State :=
  let core := s.getCore c
  let slices := core.faultyLanes k
  let spared := alu.any fun l => core.spare.isNone || decide (core.spare = some (l % 32))
  let s := s.putCore c { core with faulty := slices }
  let s := match alu with
    | some l =>
      if spared then
        let s := s.putCore c { core with spare := some (l % 32), sparePend := none, faulty := slices }
        s.setCapWord c 3 (wordOf (bitsOf (s.pkg.capWord c 3) 15 8 * 256 + 128 + l % 32))
      else s
    | none => s
  let fails := aluFails fails alu spared
  let cap := s.pkg.capWord c 0
  let health := s.pkg.capWord c 2
  let new := (cap ||| s.pkg.capWord c 1 &&& ~~~vexudBits) &&& ~~~fails &&& capLimit c.core
  let s := s.setCapWord c 0 new
  s.setCapWord c 2 (wordOf (min 65535 (bitsOf health 63 48 + 1) * 2 ^ 48 + ((cap &&& fails).toNat % 2 ^ 24)))

/-- The scan test of a drained quad (R321); a failing Sorter costs all five cores their bit. -/
def State.scan (s : State) (fails : List (BitVec 24)) (alus : List (Option Nat)) : State :=
  match s.die.draining with
  | none => s
  | some q =>
    if !s.quadDrained s.cur.die q then s
    else
      let sorter : BitVec 64 := if fails.any fun f => f.getLsbD 17 then 0x20000 else 0
      let s := (List.range 5).foldl (fun s k =>
        s.scanCore ⟨s.cur.die, q, k, 0⟩ (((fails[k]?).getD 0).setWidth 64 ||| sorter) ((alus[k]?).getD none)
          (s.fresh + 32 * k)) s
      (s.mapDie fun d => { d with draining := none }).bump 160

end Sys2Proof.Machine
end

