-- ==== Sys2Proof/Machine/Dies.lean ====
section
/-! DEFINITION. Links and boundaries (R323 to R327), stealing between dies (R328, R329), the reset of a core and of a die, and
the loss of a package (R330). -/
namespace Sys2Proof.Machine

/-! ### Links -/

/-- A link is lost, and Vexud is notified; the loss of a die-to-die boundary changes the paths of R323, and may isolate a die. A
collective that has lost the link to a neighbour ends at once (R337). -/
def State.loseLink (s : State) (l : Nat) : State :=
  s.pkg.colls.foldl (fun s c => s.at c.hart State.collLate) <| (s.mapPkg fun p =>
    let p := p.modLink l fun k => { k with up := false, lost := true, flits := 0, chunks := 0 }
    let p := if 8 ≤ l ∧ l < 12 ∧ !p.boundariesLost.contains (l - 8) then { p with boundariesLost := (l - 8) :: p.boundariesLost } else p
    { p with isolated := p.isolated ++ p.nowIsolated.filter fun d => !p.isolated.contains d }).report (.linkLost l)

/-- A flit is retried; after 16 failed retries of one flit the link is lost. Whether this is a retry of the flit that failed last
is a free choice (R310, R326, DESIGN CHOICE, log entry 1). -/
def State.flitRetry (s : State) (l : Nat) : State :=
  let n := if Config.freeBit s.fresh then ((s.pkg.links[l]?).map (·.flits)).getD 0 else 0
  let s := s.bump 1
  if 16 ≤ n then s.loseLink l
  else s.mapPkg fun p => p.modLink l fun k => { k with retry := min 65535 (k.retry + 1), flits := n + 1 }

/-- A fetch of a chunk failed expansion, and the link fetches it again; the 16th failure of one chunk loses the link. Whether this
is the chunk that failed last is a free choice (R325, R326, DESIGN CHOICE, log entry 1). -/
def State.refetch (s : State) (l : Nat) : State :=
  let n := if Config.freeBit s.fresh then ((s.pkg.links[l]?).map (·.chunks)).getD 0 else 0
  let s := (s.bump 1).mapPkg fun p => p.modLink l fun k => { k with chunkF := min 65535 (k.chunkF + 1), chunks := n + 1 }
  if 15 ≤ n then s.loseLink l else s

/-- Vexud retrains a link: it carries traffic again. A die that was isolated stays so until it is reset (R323). -/
def State.retrain (s : State) (l : Nat) : State :=
  s.mapPkg fun p =>
    let p := p.modLink l fun k => { k with up := true, lost := false }
    { p with boundariesLost := p.boundariesLost.filter fun b => decide (b + 8 ≠ l) }

/-! ### Stealing (R328, R329) -/

/-- CTL.LENT of a record (R258). -/
def setLent (ws : List Word) (on : Bool) : List Word :=
  let w := recW ws 4
  ws.set 4 (if on then w ||| wordOf (2 ^ 38) else w &&& ~~~wordOf (2 ^ 38))

/-- The highest priority with a record in a die's queues, plus one; 0 when all are empty. -/
def Die.topQueue (d : Die) : Nat := (d.queues.map fun r => r.prio + 1).foldl max 0

/-- The OR of the capability masks of a die's free cores (DEDUCED, log entry 57). -/
def State.freeMask (s : State) (d : Nat) : BitVec 64 :=
  ((dieCores d).filter fun c => s.coreFree c).foldl (fun m c => m ||| s.pkg.capOf c) 0

/-- The die a thief asks: of the other three that it reaches, the one whose highest non-empty queue is highest. -/
def State.busiest (s : State) : Option Nat :=
  ((List.range 4).filter fun d => decide (d ≠ s.cur.die) && !s.pkg.cutOff s.cur.die d && decide ((s.getDie d).topQueue ≠ 0)).foldl
    (fun b d =>
      match b with
      | some e => if (s.getDie e).topQueue < (s.getDie d).topQueue then some d else some e
      | none => some d) none

/-- Step 1: the focused die, idle, asks the busiest; the request carries the mask of its free cores
(DEDUCED, log entry 57). -/
def State.stealAsk (s : State) (victim : Nat) : State :=
  if s.die.stealing.isNone && !s.die.gated && (s.nextRec s.cur.die).isNone &&
      ((dieCores s.cur.die).any fun c => s.coreFree c) && decide (s.busiest = some victim) then
    let mask := s.freeMask s.cur.die
    s.mapDie fun d => { d with stealing := some (victim, mask) }
  else s

/-- The record the victim lends: the oldest of its highest priority that the mask covers (DEDUCED, log entry 57). -/
def Die.lendable (d : Die) (mask : BitVec 64) : Option QRec :=
  ((List.range 8).reverse.flatMap fun p => d.queue p).find? fun r =>
    decide (recUse r.words &&& ~~~mask = 0) && !recPin r.words && decide (2 ≤ r.left)

/-- Change the record of an age that ends at an iteration: copies of one record on a die end at different ones. -/
def Die.modRec (d : Die) (age last : Nat) (f : QRec → QRec) : Die :=
  { d with queues := d.queues.map fun r => if r.age = age ∧ r.last = last then f r else r }

/-- Step 2: the focused die lends the upper half of a record, or turns the request away (DEDUCED, log entry 57)
(DEDUCED, log entry 68). -/
def State.lend (s : State) (thief : Nat) : State :=
  let done (s : State) : State := s.putDie thief { s.getDie thief with stealing := none }
  match (s.getDie thief).stealing with
  | none => s
  | some (victim, mask) =>
  if thief = s.cur.die ∨ victim ≠ s.cur.die then s
  else if (s.die.queues.any fun r => r.lent.isSome) || s.pkg.apart s.cur.die thief then done s
  else
    match s.die.lendable mask with
    | none => done s
    | some r =>
      let lo := r.last - r.left / 2
      let s := s.mapDie fun d => d.modRec r.age r.last fun x => { x with lent := some (lo, r.last, thief), words := setLent x.words true }
      s.mapPkg fun p =>
        { p with lends := p.lends ++ [⟨{ r with next := lo, lent := none, borrowed := true }, s.cur.die, thief, false⟩] }

/-- Step 3: the copy arrives at the focused die: dropped where its scope is not LIVE, else entered and acknowledged; while
the queue is full it waits. -/
def State.stealEnter (s : State) : State :=
  match s.pkg.lends.find? fun l => decide (l.thief = s.cur.die) && !l.acked && !s.pkg.apart l.victim l.thief with
  | none => s
  | some l =>
    if s.pkg.scopeState (recScope l.copy.words) ≠ some .live then
      let lends := s.pkg.lends.filter fun x => decide (x ≠ l)
      (s.mapPkg fun p => { p with lends := lends }).mapDie fun d => { d with stealing := none }
    else if queueRecords ≤ (s.die.queue l.copy.prio).length then s
    else
      let lends := s.pkg.lends.map fun x => if x = l then { x with acked := true } else x
      (s.mapPkg fun p => { p with lends := lends }).mapDie fun d =>
        { d with stealing := none, queues := insertAge { l.copy with entered := d.cycles } d.queues }

/-- The lent iterations leave the record, or come back to it. -/
def Die.settleLend (d : Die) (age last : Nat) (taken : Bool) : Die :=
  let d := d.modRec age last fun r =>
    match r.lent with
    | some (lo, _, _) => { r with lent := none, last := if taken then lo else r.last, words := setLent r.words false }
    | none => r
  { d with queues := d.queues.filter fun r => decide (r.next < r.last) }

/-- Step 4: the acknowledgement reaches the focused die. -/
def State.stealAck (s : State) : State :=
  match s.pkg.lends.find? fun l => decide (l.victim = s.cur.die) && l.acked with
  | none => s
  | some l =>
    let lends := s.pkg.lends.filter fun x => decide (x ≠ l)
    (s.mapPkg fun p => { p with lends := lends }).mapDie fun d => d.settleLend l.copy.age l.copy.last true

/-- The path to the thief is lost before the acknowledgement: the focused die takes the lent iterations back. -/
def State.lendBack (s : State) : State :=
  match s.pkg.lends.find? fun l => decide (l.victim = s.cur.die) && !l.acked && s.pkg.apart l.victim l.thief with
  | none => s
  | some l =>
    let lends := s.pkg.lends.filter fun x => decide (x ≠ l)
    (s.mapPkg fun p => { p with lends := lends }).mapDie fun d => d.settleLend l.copy.age l.copy.last false

/-- A request to power-gate a die: refused while it has a lent record, or holds a copy it has not acknowledged. -/
def State.powerGate (s : State) (d : Nat) : State :=
  if ((s.getDie d).queues.any fun r => r.lent.isSome) || s.pkg.lends.any fun l => decide (l.thief = d) && !l.acked then s
  else s.putDie d { s.getDie d with gated := true }

/-! ### Resets and losses -/

/-- Core reset: SEQ and mark registers are zero (R230) (DEDUCED, log entry 78). -/
def State.coreReset (s : State) : State :=
  s.mapCore fun c => { c with chans := c.chans.map fun k => { k with seq := 0, mark := 0 } }

/-- What a reset leaves of a core, a quad and a die: memories and tables as they stand, nothing that runs or waits
(DESIGN CHOICE, log entry 56). -/
def Core.afterReset (c : Core) : Core := { Core.reset with chart := c.chart, chartPoison := c.chartPoison, spare := c.spare, unwritten := c.unwritten, faulty := c.faulty }
/-- DESIGN CHOICE, log entry 56. -/
def Quad.afterReset (q : Quad) : Quad :=
  { Quad.reset with plane := q.plane, planePoison := q.planePoison, tiles := q.tiles, tilePoison := q.tilePoison }
def Die.afterReset (d : Die) : Die := { Die.reset with ranges := d.ranges, sndInterval := d.sndInterval, sndAt := d.sndInterval, mhz := d.mhz }

/-- Lends with a die that is reset: a copy not acknowledged returns to its victim (R329). -/
def State.settleReset (s : State) (d : Nat) : State :=
  let back := s.pkg.lends.filter fun l => decide (l.thief = d) && !l.acked
  let s := back.foldl (fun s l => s.putDie l.victim ((s.getDie l.victim).settleLend l.copy.age l.copy.last false)) s
  let lends := s.pkg.lends.filter fun l => !(decide (l.thief = d) && !l.acked)
  s.mapPkg fun p => { p with lends := lends }

/-- Vexud resets a die: its isolation ends, and its scope entries advance GEN (R323, R329)
(DESIGN CHOICE, log entry 56). -/
def State.resetDie (s : State) (d : Nat) : State :=
  let s := s.settleReset d
  let s := (s.dieHarts d).foldl (fun s h => (s.leaveBarriers h).putHart h (Hart.reset h)) s
  let s := (s.coreIds.filter fun h => decide (h.die = d)).foldl (fun s h => s.putCore h (s.getCore h).afterReset) s
  let s := (s.quadIds.filter fun h => decide (h.die = d)).foldl (fun s h => s.putQuad h (s.getQuad h).afterReset) s
  let s := s.putDie d (s.getDie d).afterReset
  let scopes := (s.pkg.scopes.map ScopeCnt.handle).filter fun h => decide (scopeDie h = d)
  s.mapPkg fun p =>
    let p := scopes.foldl Pkg.closeScope p
    let p := (List.range 4).foldl (fun p b =>
      if (boundaryEnds b).1 = d ∨ (boundaryEnds b).2 = d then p.modLink (b + 8) fun k => { k with up := true } else p) p
    { p with
      boundariesLost := p.boundariesLost.filter fun b => decide ((boundaryEnds b).1 ≠ d ∧ (boundaryEnds b).2 ≠ d)
      isolated := p.isolated.filter fun e => decide (e ≠ d)
      replays := p.replays.filter fun r => decide (r.die ≠ d), colls := p.colls.filter fun c => decide (c.hart.die ≠ d) }

/-- Vexud declares a package lost: its members leave every pod channel (R330) (DESIGN CHOICE, log entry 54). -/
def State.losePackage (s : State) (k : Nat) : State :=
  let s := s.mapPkg fun p => { p with vexud := { p.vexud with lostPkgs := k :: p.vexud.lostPkgs } }
  (s.pkg.barriers.filter fun b => decide (b.lvl = .pod) && b.far.contains k).foldl (fun s b =>
    let b := { b with far := b.far.filter fun x => decide (x ≠ k), farArrived := b.farArrived.filter fun x => decide (x ≠ k) }
    (s.mapPkg fun p => p.setBarrier b).openEpisode b) s

end Sys2Proof.Machine
end

