-- ==== Sys2Proof/Machine/HostVexud.lean ====
section
/-! DEFINITION. Vexud and the host (R338 to R343): images and runs, starts and their reports (R279), the default trap handler,
attestation, and the start from cold. -/
namespace Sys2Proof.Machine

/-- Vexud's own accesses on the focused die: context 0, no page table, supervisor rights (DEDUCED, log entry 58). -/
def State.xlVexud (s : State) : Xl := ⟨s.cur.die, 0, 0, false⟩

/-! ### Images and runs (R276, R277, R338) -/

/-- ATTR of the range entry of an image: V with P, W, U for data, X and U for code (R167, R277)
(DEDUCED, log entry 58). -/
def imageAttr (code : Bool) : Word := if code then 0x19 else 0x17

/-- The lowest range entry of a die not in use. -/
def Die.freeRange (d : Die) : Nat := ((List.range 512).find? fun k => !bitOf (d.range k).attr 0).getD 511

/-- The entry of an image joins a die's, in place of those of images that lie elsewhere under the same addresses (R277)
(DEDUCED, log entry 58). -/
def Die.mapImage (d : Die) (r : Range) : Die :=
  let goes (x : Range) : Bool :=
    bitOf x.attr 0 && decide (rangeCtx x = 0 ∧ x.off ≠ r.off) && decide (x.base.toNat < r.limit.toNat ∧ r.base.toNat < x.limit.toNat)
  let d := { d with ranges := d.ranges.map fun (p : Nat × Range) => if goes p.2 then (p.1, ⟨0, 0, 0, 0⟩) else p }
  { d with ranges := assocSet d.ranges d.freeRange r }

/-- The host's requests are accepted (R340). -/
def State.hostReady (s : State) : Bool := decide (s.pkg.vexud.phase = .nominal)

/-- The place of an image: kind 0 code and kind 1 device data in Hold of the focused die, kind 2 beacon data in its slice; kind 3
bytes of the Chart image at the Chart address `dva`, kind 4 the 8 bytes there of a `.handle`, both of the listing
loaded last (DEDUCED, log entry 58). -/
def State.imageFits (s : State) (kind : Nat) (dva : Word) (pa len : Nat) : Bool :=
  let inPage := decide (dva.toNat % 4096 = pa % 4096 ∧ dva.toNat + len < 2 ^ 48)
  let last := pa + (len - 1)
  let holdOk := inHold pa && inHold last && decide (homeDie pa = s.cur.die ∧ homeDie last = s.cur.die) && inPage
  let listing := !s.pkg.vexud.listings.isEmpty
  match kind with
  | 0 => holdOk
  | 1 => holdOk
  | 2 => inBeacon pa && inBeacon (pa + len) && decide (homeDie pa = s.cur.die ∧ sliceOffset pa + len ≤ 0x37E000) && inPage
  | 3 => listing && decide (dva.toNat + len ≤ Config.chartBytes)
  | 4 => listing && decide (dva.toNat + 8 ≤ Config.chartBytes ∧ pa < s.pkg.vexud.runs.length)
  | _ => false

/-- Bytes join the Chart image of the listing loaded last. -/
def Vexud.addChart (v : Vexud) (dva : Nat) (bytes : List Byte) : Vexud :=
  match v.listings.getLast? with
  | none => v
  | some l =>
    { v with listings := v.listings.dropLast ++ [{ l with chart := l.chart ++ ((List.range bytes.length).zip bytes).map fun p => (dva + p.1, p.2) }] }

/-- A part of an image that fits is put in place: memory parts with the range entry that maps their span (R277)
(DEDUCED, log entry 58). -/
def State.placeImage (s : State) (kind : Nat) (dva : Word) (pa : Nat) (bytes : List Byte) : State :=
  let hi := dva.toNat + bytes.length
  match kind with
  | 3 => s.mapVexud fun v => v.addChart dva.toNat bytes
  | 4 => s.mapVexud fun v => v.addChart dva.toNat (leBytes (recW v.runs pa).toNat 8)
  | _ =>
    let lo := dva.toNat / 4096 * 4096
    let r : Range := ⟨wordOf lo, wordOf ((hi + 4095) / 4096 * 4096), wordOf ((pa / 4096 * 4096 + (2 ^ 48 - lo)) % 2 ^ 48), imageAttr (kind = 0)⟩
    let s := (s.mapMem fun m => m.putBytes pa bytes).mapDie fun d => d.mapImage r
    if kind = 0 then s.mapVexud fun v => { v with listings := v.listings ++ [⟨s.cur.die, dva.toNat, hi, []⟩] } else s

/-- A signed image or a part of a listing is loaded (R338). Code begins a listing, and the parts after it are its. A failed
signature, or a place that does not fit, is refused (DEDUCED, log entry 58). -/
def State.loadImage (s : State) (kind : Nat) (dva : Word) (pa : Nat) (bytes : List Byte) (ok : Bool) : State :=
  if !s.hostReady then s
  else if ok && s.imageFits kind dva pa bytes.length then (s.placeImage kind dva pa bytes).report (.imageLoaded true)
  else s.report (.imageLoaded false)

/-- A run made of host data on the focused die: SEALED, no reader, no writer (R277). -/
def State.makeRun (s : State) (base : Word) (wlog : Nat) (records : List (List Byte)) : Option State :=
  let n := records.length
  if 6 < wlog ∨ base.toNat % 64 ≠ 0 ∨ n = 0 ∨ (records.any fun b => decide (b.length ≠ 2 ^ wlog)) then none
  else
    (s.pkg.freeDesc s.cur.die (Config.freeChoice s.fresh)).bind fun i =>
      let d := (s.pkg.desc s.cur.die i).create wlog base (wordOf n)
      match s.writeStream s.xlVexud d none 0 records.flatten with
      | .error _ => none
      | .ok (_, s) =>
        let h := handleOf d.gen s.cur.die i false
        let s := s.mapPkg fun p => (p.setDesc s.cur.die i { d.seal with mark := wordOf n }).madeUnder s.cur.die i (0, 0)
        some (((s.bump 1).mapVexud fun v => { v with runs := v.runs ++ [h] }).report (.runCreated h))

/-- A request for a run is answered with its handle, or that it cannot be made (R338). -/
def State.createRun (s : State) (base : Word) (wlog : Nat) (records : List (List Byte)) : State :=
  if !s.hostReady then s else (s.makeRun base wlog records).getD (s.report .runRefused)

/-- A sealed run read back, or that it cannot be read (R338). -/
def State.readRun (s : State) (h : Word) : State :=
  if !s.hostReady then s
  else
    match s.run h with
    | none => s.report (.readRefused h)
    | some r =>
      if r.state ≠ .sealed then s.report (.readRefused h)
      else
        match s.readStream s.xlVexud r none 0 (r.mark.toNat * r.w) with
        | .error e => (s.noteErr e).report (.readRefused h)
        | .ok (_, bs) =>
          s.report (.runData h ((List.range r.mark.toNat).map fun k => (bs.drop (k * r.w)).take r.w))

/-! ### Starts (R279) -/

/-- The records of a start, sixteen words each. -/
def records : Nat → List Word → List (List Word)
  | 0, _ => []
  | n + 1, ws => if ws.length < 16 then [] else ws.take 16 :: records n (ws.drop 16)

/-- Spawn a listing's records in a root scope, in order: all of them, or nothing. -/
def State.spawnListing (s : State) (root : Word) (l : Nat) : List (List Word) → Option State
  | [] => some s
  | r :: rs =>
    let r := r.set 5 root
    if !recOk r none then none
    else
      match s.placeRec s.cur.die (s.newRec r none 0 0 (some l)) with
      | .queued s => s.spawnListing root l rs
      | _ => none

/-- The listing loaded last on the focused die whose code holds the first instruction of the first record. -/
def State.listingOf (s : State) (rs : List (List Word)) : Option Nat :=
  let at0 := bitsOf (recW (rs.headD []) 0) 47 0
  (List.range s.pkg.vexud.listings.length).reverse.find? fun k =>
    (s.pkg.vexud.listings[k]?).any fun l => decide (l.die = s.cur.die ∧ l.lo ≤ at0 ∧ at0 < l.hi)

/-- The listing has been started, and its start is not reported. -/
def Vexud.running (v : Vexud) (l : Nat) : Bool := v.starts.any fun t => decide (t.listing = some l) && !t.reported

/-- Vexud opens a root scope on the focused die for a start (R338). -/
def State.openStart (s : State) (listing : Option Nat) (replay : Bool) : Option (State × Word) :=
  (s.pkg.freeScope s.cur.die (Config.freeChoice s.fresh)).map fun i =>
    let r := s.pkg.openScope s.cur.die i 0
    let t : Start := { id := s.fresh, scope := r.2, listing := listing, replay := replay, firstCause := 0, firstPc := 0
                       traps := 0, tasks := 0, reported := false }
    (({ s with pkg := r.1 }.bump 1).mapVexud fun v => { v with starts := v.starts ++ [t] }, r.2)

/-- A start of a graph replay, or of a loaded listing that does not run already (R279). -/
def State.tryStart (s : State) (recs : List Word) (replay : Option (Word × Word)) : Option State :=
  match replay with
  | some (g, b) =>
    if !recs.isEmpty then none
    else
      (s.openStart none true).bind fun r =>
        match r.1.replayGraph ⟨s.xlVexud, none, r.2, none⟩ g b with
        | .ok s => some s
        | .error _ => none
  | none =>
    let rs := records recs.length recs
    (s.listingOf rs).bind fun l =>
      if rs.isEmpty || s.pkg.vexud.running l then none
      else (s.openStart (some l) false).bind fun r => r.1.spawnListing r.2 l rs

/-- A request for a start is carried out, or answered that it cannot be (R338) (DEDUCED, log entry 58). -/
def State.hostStart (s : State) (recs : List Word) (replay : Option (Word × Word)) : State :=
  if !s.hostReady then s else (s.tryStart recs replay).getD (s.report .startRefused)

/-- A start is over (R338): after a trap, or of a replay, once its root scope's cancel is acknowledged; a replay also once it has
ended; a listing once every scope of its subtree is empty, with no acknowledgement pending. -/
def State.startOver (s : State) (t : Start) : Bool :=
  let acked := decide (s.pkg.scopeState t.scope = some .cancelled)
  if t.traps ≠ 0 then acked
  else if t.replay then acked || !s.pkg.replays.any fun r => decide (r.owner = none ∧ r.scope = t.scope)
  else
    (s.pkg.subtree t.scope).all fun h =>
      decide (s.pkg.scopeState h ≠ some .cancelling) && !s.holdsTask h

/-- Vexud reports the end of its k-th start: with the first trap and the acknowledgement's counts where one trapped. -/
def State.reportStart (s : State) (k : Nat) : State :=
  match s.pkg.vexud.starts[k]? with
  | none => s
  | some t =>
    if t.reported || !s.startOver t then s
    else
      (s.mapVexud fun v => { v with starts := v.starts.set k { t with reported := true } }).report
        (if t.traps = 0 then .ended t.id t.tasks
         else .cancelled t.id t.firstCause t.firstPc (t.traps - 1)
           [s.pkg.scopeWord t.scope 4, s.pkg.scopeWord t.scope 5, s.pkg.scopeWord t.scope 6])

/-- The place of the start to which the focused hart's task belongs. -/
def State.startIx (s : State) : Option Nat :=
  s.pkg.vexud.starts.findIdx? fun t => !t.reported && s.pkg.under s.ownScope t.scope

/-- Vexud's default handler: it records the trap, cancels the root scope of the start and returns; the kill point follows. It
stands at the vector while no other handler has been set, for user-mode traps of a start's tasks
(DEDUCED, log entry 69). -/
def State.defaultHandler (s : State) : Option State :=
  if s.hart.svec ≠ 0 ∨ s.hart.atVector = false ∨ bitOf s.hart.trcause 8 = true then none
  else
    s.startIx.bind fun k =>
      (s.pkg.vexud.starts[k]?).map fun t =>
        let t' : Start := if t.traps = 0 then { t with firstCause := s.hart.trcause, firstPc := s.hart.trpc, traps := 1 }
                          else { t with traps := t.traps + 1 }
        let s := s.mapVexud fun v => { v with starts := v.starts.set k t' }
        let s := if s.pkg.scopeState t.scope = some .live then s.cancel t.scope else s
        tick ((leaveTrap s.hart.trpc s).mapHart fun h => { h with atVector := false, held := false })

/-! ### Attestation (R339) -/

/-- The CAP words of all cores of the package (DESIGN CHOICE, log entry 93). -/
def Pkg.allCaps (p : Pkg) : List Word :=
  (List.range 4).flatMap fun d => (List.range 40).flatMap fun q => (List.range 5).map fun c => p.capOf ⟨d, q, c, 0⟩

/-- The part's number. -/
def partF900 : Nat := 0xF900

/-- The words of an attestation report: part, package, nonce, measurements, CAP words, key pairs
(DESIGN CHOICE, log entry 93). -/
def State.attestWords (s : State) (nonce : Word) : List Word :=
  [wordOf partF900, wordOf s.pkg.id, nonce] ++ s.pkg.vexud.measurements ++ s.pkg.allCaps ++ [wordOf s.pkg.keys.length]

/-- The attestation report, signed with the device's key (DESIGN CHOICE, log entry 93). -/
def State.attest (s : State) (nonce : Word) : State :=
  if !s.hostReady then s
  else
    s.report (.attestation partF900 nonce s.pkg.id s.pkg.vexud.measurements s.pkg.allCaps s.pkg.keys.length
      (Config.sign (s.attestWords nonce)))

/-- A firmware image is hashed and checked: its measurement is kept, or the failure reported. One that fails in boot keeps the
module there (R339). -/
def State.verifyImage (s : State) (digest : Word) (ok : Bool) : State :=
  if ok then s.mapVexud fun v => { v with measurements := v.measurements ++ [digest], verified := true }
  else (s.mapVexud fun v => { v with failed := v.failed || decide (v.phase = .verifying) }).report .bootFailed

/-! ### The start from cold (R340) -/

def State.setClocks (s : State) (mhz : Nat) : State :=
  (List.range 4).foldl (fun s d => s.putDie d { s.getDie d with mhz := mhz }) s

/-- Step 1 begins: Vexud boots from ROM; the dies run at 1.2 GHz. -/
def State.coldStart (s : State) : State :=
  if s.pkg.vexud.phase = .off then (s.setClocks 1200).mapVexud fun v => { v with phase := .verifying } else s

/-- Steps 1 and 2 end: the images are verified, and every die is warm. -/
def State.heated (s : State) : State :=
  if s.pkg.vexud.phase = .verifying ∧ s.pkg.vexud.verified = true ∧ s.pkg.vexud.failed = false then
    s.mapVexud fun v => { v with phase := .training }
  else s

/-- The tables of a die: every core trusted with every class its kind may hold (DESIGN CHOICE, log entry 45). -/
def State.setTables (s : State) (d : Nat) : State :=
  (List.range 200).foldl (fun s k =>
    let h : HartId := ⟨d, k / 5, k % 5, 0⟩
    (s.setCapWord h 0 (capLimit h.core)).setCapWord h 1 (capLimit h.core)) s

/-- Where the poison bitmap is placed in Bulk: which frame is free (R171, R340, DESIGN CHOICE, log entry 12). -/
def State.bitmapPlace (s : State) : Nat := Config.freeChoice s.fresh % ((2 ^ 39 - poisonBytes) / 4096 + 1) * 4096

/-- The ID that Vexud gives the package in its pod: a free value from 0 to 1,023 (R340, DESIGN CHOICE, log entry 1). -/
def State.podId (s : State) : Nat := Config.freeChoice (s.fresh + 1) % 1024

/-- Step 3 ends, and step 4 follows: an empty poison bitmap, the nominal clock, the capability tables, the pod ID and the routes, which
Vexud reports to the host (R327). -/
def State.trained (s : State) : State :=
  if s.pkg.vexud.phase = .training then
    let t := (List.range 4).foldl State.setTables (s.setClocks 1700)
    let t := t.mapPkg fun p =>
      { p with mem := p.mem.clear s.bitmapPlace poisonBytes, poisonAt := s.bitmapPlace, id := s.podId, routes := s.fresh + 2
               vexud := { p.vexud with phase := .nominal } }
    (t.bump 1026).report (.routes ((List.range 1024).map t.pkg.portTo))
  else s

/-! ### Clock, memory and surroundings (R341 to R343) -/

/-- The clock of the focused die moves between 1.2 and 1.7 GHz, once step 4 has raised it (R340)
(DESIGN CHOICE, log entry 91). -/
def State.stretch (s : State) (mhz : Nat) : State :=
  if s.pkg.vexud.phase = .nominal then s.mapDie fun d => { d with mhz := max 1200 (min 1700 mhz) } else s

/-- One of the 64 channels is trained again. -/
def State.retrainChannel (s : State) (ch : Nat) : State :=
  if ch < 64 then s.mapVexud fun v => { v with retrained := ch :: v.retrained } else s

/-- The surroundings are outside their limits: the clock is lowered, then the dies stop
(DESIGN CHOICE, log entry 91). -/
def State.outside (s : State) (stop : Bool) : State :=
  let s := s.setClocks 1200
  if stop then s.mapVexud fun v => { v with stopped := true } else s

/-- Vexud loads a key pair (R172). -/
def State.loadKeys (s : State) (k : Nat) (a b : BitVec 256) : State :=
  if k < 128 then s.mapPkg fun p => { p with keys := assocSet p.keys k (a, b) } else s

end Sys2Proof.Machine
end

