-- ==== Sys2Proof/Machine/Events.lean ====
section
/-! DEFINITION. The events of the table, which no word encodes: each is one step of the part, and where what it needs is not
there it does not take place and nothing changes. -/
namespace Sys2Proof.Machine

/-! ### The front and the units of a hart -/

/-- The line the front fetches next: that of the PC, which a transfer asks for when it issues, else the next one, ahead of need
(R17) (DEDUCED, log entry 10). -/
def Hart.wantedLine (h : Hart) : Option Nat :=
  let l := h.pc.toNat / 64
  if !h.lines.contains l then some l else if !h.lines.contains (l + 1) then some (l + 1) else none

/-- A line the focused hart's front fetches arrives; the buffer holds the eight fetched last (R17) (DEDUCED, log entry 10). -/
def State.fillLine (s : State) : State :=
  match s.hart.wantedLine with
  | some l => s.mapHart fun h => { h with lines := (l :: h.lines).take 8 }
  | none => s

/-- The head entry starts, or its trap is taken. -/
def State.entryStarts (s : State) : State :=
  match s.startEntry false with
  | .blocked => s.idleBeat
  | .moved s => s
  | .trap s d => s.takeDeferred d

/-- A waiting `vwait` reads again, and completes when every word is met (R195). -/
def State.vwaitReads (s : State) : State :=
  let s := s.vwaitAgain
  match s.core.oldest .pipe s.cur.hid with
  | some o =>
    match o.ent.op with
    | .vwait _ _ _ => if o.unmet = 0 then s.unitComplete .pipe else s
    | _ => s
  | none => s

/-- The cause of a TRCAUSE word that an engine fault carries. -/
def engineCause (w : Word) : Cause :=
  match bitsOf w 7 0 with
  | 6 => .beacon
  | 8 => .runend
  | 9 => .poison
  | _ => .runfault

/-- An engine fault of the focused hart's context can be delivered: in user mode, whatever holds the front
(R290, R296, R332) (DEDUCED, log entry 75). -/
def State.faultDue (s : State) : Option EngFault :=
  if s.hart.hst.mode then none else s.hart.ctx.bind fun c => c.faults.head?

/-- The fault has been taken. -/
def State.popFault (s : State) : State :=
  s.mapHart fun h => { h with ctx := h.ctx.map fun c => { c with faults := c.faults.drop 1 } }

/-- The oldest pending engine fault traps, unless an older deferred trap of the queue goes before it (R290, R296). -/
def State.deliverFault (s : State) : State :=
  match s.faultDue with
  | none => s
  | some f =>
    let s := landAll (inflBound s.hart + 1) s
    let t : TrapRec :=
      { cause := engineCause f.cause, aux := bitsOf f.cause 63 32, tk := bitsOf f.cause 19 16, can := true, qf := false
        eng := true, dfd := true, pc := f.addr, src := s.hart.pc, dones := [] }
    match drain s.drainFuel s with
    | .done s => enterTrap { t with src := s.hart.pc } s.popFault
    | .trap s d => s.takeDeferred d
    | .waits s ds => enterTrap { t with src := s.hart.pc, qf := true, dones := ds } s.popFault
    | .stuck s => s.hold

/-- A trap of the focused hart: of a lost slice or a mirror mismatch, else of the word at its front
(DESIGN CHOICE, log entry 84). -/
def State.trapArrives (s : State) (c : Cause) (aux : Nat) : State :=
  if s.hart.idle || s.hart.stopped then s
  else
    match c with
    | .lanelost => s.sliceLost aux
    | .mirror => if s.hart.hst.prot then s.laneTrap .mirror aux true else s
    | _ => trapAt (TrapRec.atIssue c aux s.hart.pc) s

/-! ### The events -/

/-- FIXED_LATENCY_WRITEBACK (R19), and the increments that waited for a merge (R111); the oldest scalar Chart access may perform
with it, before its fourth slot (R198) (DEDUCED, log entry 97). -/
def execFixedLatencyWriteback (s : State) : Out := .next (storeFirst (lateDue (mergeDue (landDue s))))
/-- CODE_LINE_FILL (R17). -/
def execCodeLineFill (s : State) : Out := .next s.fillLine
/-- DIVIDER_COMPLETION (R83). -/
def execDividerCompletion (s : State) : Out := .next s.divComplete
/-- VECTOR_ENTRY_START (R107). -/
def execVectorEntryStart (s : State) : Out := .next s.entryStarts
/-- SHARED_UNIT_CYCLE (R116). -/
def execSharedUnitCycle (u : SharedUnit) (s : State) : Out := .next (s.unitCycle u)
/-- VECTOR_POSTING_COMPLETION (R136). -/
def execVectorPostingCompletion (u : SharedUnit) (s : State) : Out := .next (s.unitComplete u)
/-- PORT_READ_RESUME (R163). -/
def execPortReadResume (s : State) : Out := .next s.portResume
/-- BEACON_ACCESS_COMPLETION (R198). -/
def execBeaconAccessCompletion (k : Nat) (s : State) : Out := .next (s.bopStep k false)
/-- ATOMIC_COMPLETION (R192). -/
def execAtomicCompletion (k : Nat) (s : State) : Out := .next (s.bopStep k true)
/-- VWAIT_REREAD (R195). -/
def execVwaitReread (s : State) : Out := .next s.vwaitReads
/-- VWAIT_TIMEOUT (R195). -/
def execVwaitTimeout (s : State) : Out := .next s.vwaitExpire
/-- SORTER_PASS_START (R215). -/
def execSorterPassStart (s : State) : Out := .next s.sorterStart
/-- SORTER_CHUNK (R210). -/
def execSorterChunk (s : State) : Out := .next s.sorterChunk
/-- COPY_START (R233). -/
def execCopyStart (ch : Chan) (s : State) : Out := .next (s.copyStart ch)
/-- COPY_CHUNK (R238). -/
def execCopyChunk (ch : Chan) (fails : Bool) (s : State) : Out := .next (s.copyChunk ch fails)
/-- MATRIX_OP_HEAD (R253). -/
def execMatrixOpHead (s : State) : Out := .next s.mopHead
/-- MATRIX_OP_READ (R253). -/
def execMatrixOpRead (s : State) : Out := .next s.mopRead
/-- MATRIX_OP_COMPLETION (R253). -/
def execMatrixOpCompletion (s : State) : Out := .next s.mopComplete
/-- TRAP_ENTRY (R288). -/
def execTrapEntry (c : Cause) (aux : BitVec 32) (s : State) : Out := .next (s.trapArrives c aux.toNat)
/-- ENGINE_FAULT_DELIVERY (R296). -/
def execEngineFaultDelivery (s : State) : Out := .next s.deliverFault
/-- KILL_POINT (R266). -/
def execKillPoint (s : State) : Out := .next s.killPoint
/-- CANCEL_ACKNOWLEDGEMENT (R267). -/
def execCancelAcknowledgement (h : Word) (s : State) : Out := .next (s.acknowledge h)
/-- BWAIT_TIMEOUT (R272). -/
def execBwaitTimeout (s : State) : Out := .next s.bwaitExpire
/-- SWAIT_TIMEOUT (R269). -/
def execSwaitTimeout (s : State) : Out := .next s.swaitExpire
/-- PLOTTER_CYCLE (R261). -/
def execPlotterCycle (s : State) : Out := .next s.plotterCycle
/-- RECORD_PROMOTION (R262). -/
def execRecordPromotion (prio k : Nat) (s : State) : Out := .next (s.promote prio k)
/-- SPILL_RETURN (R270). -/
def execSpillReturn (s : State) : Out := .next s.spillBack
/-- PREFETCH_PARAMETER_BLOCK (R263). -/
def execPrefetchParameterBlock (k : Nat) (s : State) : Out := .next (s.prefetch k)
/-- PREBIND (R263). -/
def execPrebind (k : Nat) (s : State) : Out := .next (s.prebind k)
/-- TASK_START (R263). -/
def execTaskStart (s : State) : Out := .next s.taskStart
/-- GRAPH_NODE_SPAWN (R275). -/
def execGraphNodeSpawn (g : Word) (node : Nat) (s : State) : Out := .next (s.nodeSpawn g node)
/-- FULL_SAVE (R301). -/
def execFullSave (s : State) : Out := .next s.fullSave
/-- CONTEXT_RESTORE (R301). -/
def execContextRestore (k : Nat) (s : State) : Out := .next (s.plotterRestore k)
/-- ELEMENT_GROUP_REPLAY (R312). -/
def execElementGroupReplay (lane reg mism : Nat) (s : State) : Out := .next (s.groupReplay lane reg mism)
/-- ECC_WRITEBACK (R309): RPL counts it; the word is the same. -/
def execEccWriteback (core : Nat) (s : State) : Out := .next (s.countRpl { s.cur with core := core % 5, hid := 0 })
/-- CAPABILITY_FENCE (R319). -/
def execCapabilityFence (bits : BitVec 24) (s : State) : Out :=
  .next (s.setCap { s.cur with hid := 0 } (s.pkg.capOf s.cur &&& ~~~(bits.setWidth 64)))
/-- SOUNDING (R320). -/
def execSounding (s : State) : Out := .next s.startSounding
/-- SOUNDING_DRAIN_TIMEOUT (R320). -/
def execSoundingDrainTimeout (s : State) : Out := .next s.drainExpire
/-- SCAN_TEST (R321). -/
def execScanTest (fails : List (BitVec 24)) (alus : List (Option Nat)) (s : State) : Out := .next (s.scan fails alus)
/-- STEAL_REQUEST (R328). -/
def execStealRequest (victim : Nat) (s : State) : Out := .next (s.stealAsk victim)
/-- LEND (R328). -/
def execLend (thief : Nat) (s : State) : Out := .next (s.lend thief)
/-- STEAL_ENTER (R328). -/
def execStealEnter (s : State) : Out := .next s.stealEnter
/-- STEAL_ACKNOWLEDGEMENT (R328). -/
def execStealAcknowledgement (s : State) : Out := .next s.stealAck
/-- LEND_RECLAIM (R329). -/
def execLendReclaim (s : State) : Out := .next s.lendBack
/-- LINK_FLIT_RETRY (R309). -/
def execLinkFlitRetry (l : Nat) (s : State) : Out := .next (s.flitRetry l)
/-- CHUNK_REFETCH (R325). -/
def execChunkRefetch (l : Nat) (s : State) : Out := .next (s.refetch l)
/-- LINK_LOST (R326). -/
def execLinkLost (l : Nat) (s : State) : Out := .next (s.loseLink l)
/-- DIE_RESET (R323). -/
def execDieReset (d : Nat) (s : State) : Out := .next (s.resetDie d)
/-- PACKAGE_LOST (R330). -/
def execPackageLost (p : Nat) (s : State) : Out := .next (s.losePackage p)
/-- HELLO (R334). -/
def execHello (gen : Nat) (members : BitVec 1024) (answer : HelloAnswer) (s : State) : Out :=
  .next (s.helloArrives gen members answer)
/-- CFORM_TIMEOUT (R334). -/
def execCformTimeout (lost : Bool) (s : State) : Out := .next (s.formExpire lost)
/-- RING_STEP (R336). -/
def execRingStep (others : List (List Byte)) (s : State) : Out := .next (s.ringAdvance others)
/-- COLLECTIVE_TIMEOUT (R337). -/
def execCollectiveTimeout (who : Nat) (s : State) : Out := .next (s.collExpire who)
/-- ABORT_FLOOD (R337). -/
def execAbortFlood (gen : Nat) (failId : Option Nat) (s : State) : Out := .next (s.abort gen failId)
/-- CORE_RESET (R230). -/
def execCoreReset (s : State) : Out := .next s.coreReset
/-- HOST_LOAD_IMAGE (R338). -/
def execHostLoadImage (kind : Nat) (dva : Word) (pa : Nat) (bytes : List Byte) (ok : Bool) (s : State) : Out :=
  .next (s.loadImage kind dva pa bytes ok)
/-- HOST_CREATE_RUN (R338). -/
def execHostCreateRun (base : Word) (wlog : Nat) (records : List (List Byte)) (s : State) : Out :=
  .next (s.createRun base wlog records)
/-- HOST_READ_RUN (R338). -/
def execHostReadRun (h : Word) (s : State) : Out := .next (s.readRun h)
/-- HOST_START (R279). -/
def execHostStart (recs : List Word) (replay : Option (Word × Word)) (s : State) : Out := .next (s.hostStart recs replay)
/-- START_REPORT (R279). -/
def execStartReport (k : Nat) (s : State) : Out := .next (s.reportStart k)
/-- ATTESTATION_REPORT (R339). -/
def execAttestationReport (nonce : Word) (s : State) : Out := .next (s.attest nonce)
/-- IMAGE_VERIFY (R339). -/
def execImageVerify (digest : Word) (ok : Bool) (s : State) : Out := .next (s.verifyImage digest ok)
/-- COLD_START (R340). -/
def execColdStart (s : State) : Out := .next s.coldStart
/-- HEATING_COMPLETE (R340). -/
def execHeatingComplete (s : State) : Out := .next s.heated
/-- LPDDR_TRAINING (R340). -/
def execLpddrTraining (s : State) : Out := .next s.trained
/-- CLOCK_STRETCH (R341). -/
def execClockStretch (mhz : Nat) (s : State) : Out := .next (s.stretch mhz)
/-- CHANNEL_RETRAIN (R342). -/
def execChannelRetrain (ch : Nat) (s : State) : Out := .next (s.retrainChannel ch)
/-- ENVIRONMENT_LIMIT (R343). -/
def execEnvironmentLimit (stop : Bool) (s : State) : Out := .next (s.outside stop)
/-- LINK_RETRAIN (R326). -/
def execLinkRetrain (l : Nat) (s : State) : Out := .next (s.retrain l)
/-- CAPABILITY_TABLE_WRITE (R318). -/
def execCapabilityTableWrite (entry word : Nat) (v : Word) (s : State) : Out := .next (s.writeCapTable entry word v)
/-- SOUNDING_INTERVAL_SET (R320). -/
def execSoundingIntervalSet (v : Nat) (s : State) : Out := .next (s.mapDie fun d => { d with sndInterval := v, sndAt := d.cycles + v })
/-- KEY_PAIR_LOAD (R172). -/
def execKeyPairLoad (k : Nat) (key1 key2 : BitVec 256) (s : State) : Out := .next (s.loadKeys k key1 key2)
/-- DIE_POWER_GATING (R329). -/
def execDiePowerGating (d : Nat) (s : State) : Out := .next (s.powerGate d)

end Sys2Proof.Machine
end

