-- ==== Sys2Proof/Machine/Dispatch.lean ====
section
/-! DEFINITION. The dispatch: one arm per instruction, each one direct call of the instruction's meaning. -/
namespace Sys2Proof.Machine

def exec (i : Instr) (s : State) : Host.Outcome State Fault Refusal :=
  match i with
  | .add sz d a b => Sys2Proof.Machine.execAdd sz d a b s
  | .sub sz d a b => Sys2Proof.Machine.execSub sz d a b s
  | .and sz d a b => Sys2Proof.Machine.execAnd sz d a b s
  | .or sz d a b => Sys2Proof.Machine.execOr sz d a b s
  | .xor sz d a b => Sys2Proof.Machine.execXor sz d a b s
  | .andn sz d a b => Sys2Proof.Machine.execAndn sz d a b s
  | .slli sz d a amt => Sys2Proof.Machine.execSlli sz d a amt s
  | .srli sz d a amt => Sys2Proof.Machine.execSrli sz d a amt s
  | .srai sz d a amt => Sys2Proof.Machine.execSrai sz d a amt s
  | .rori sz d a amt => Sys2Proof.Machine.execRori sz d a amt s
  | .sll sz d a b => Sys2Proof.Machine.execSll sz d a b s
  | .srl sz d a b => Sys2Proof.Machine.execSrl sz d a b s
  | .sra sz d a b => Sys2Proof.Machine.execSra sz d a b s
  | .ror sz d a b => Sys2Proof.Machine.execRor sz d a b s
  | .slt sz d a b => Sys2Proof.Machine.execSlt sz d a b s
  | .sltu sz d a b => Sys2Proof.Machine.execSltu sz d a b s
  | .seq sz d a b => Sys2Proof.Machine.execSeq sz d a b s
  | .min sz d a b => Sys2Proof.Machine.execMin sz d a b s
  | .max sz d a b => Sys2Proof.Machine.execMax sz d a b s
  | .minu sz d a b => Sys2Proof.Machine.execMinu sz d a b s
  | .maxu sz d a b => Sys2Proof.Machine.execMaxu sz d a b s
  | .sel sz d a b => Sys2Proof.Machine.execSel sz d a b s
  | .mul sz d a b => Sys2Proof.Machine.execMul sz d a b s
  | .mulh sz d a b => Sys2Proof.Machine.execMulh sz d a b s
  | .mulhu sz d a b => Sys2Proof.Machine.execMulhu sz d a b s
  | .mulhsu sz d a b => Sys2Proof.Machine.execMulhsu sz d a b s
  | .addi d a imm => Sys2Proof.Machine.execAddi d a imm s
  | .andi d a imm => Sys2Proof.Machine.execAndi d a imm s
  | .ori d a imm => Sys2Proof.Machine.execOri d a imm s
  | .xori d a imm => Sys2Proof.Machine.execXori d a imm s
  | .lhi d imm => Sys2Proof.Machine.execLhi d imm s
  | .adpc d imm => Sys2Proof.Machine.execAdpc d imm s
  | .beq a b off => Sys2Proof.Machine.execBeq a b off s
  | .bne a b off => Sys2Proof.Machine.execBne a b off s
  | .blt a b off => Sys2Proof.Machine.execBlt a b off s
  | .bge a b off => Sys2Proof.Machine.execBge a b off s
  | .bltu a b off => Sys2Proof.Machine.execBltu a b off s
  | .bgeu a b off => Sys2Proof.Machine.execBgeu a b off s
  | .j off => Sys2Proof.Machine.execJ off s
  | .call off => Sys2Proof.Machine.execCall off s
  | .jr d a => Sys2Proof.Machine.execJr d a s
  | .ldc sz d a off => Sys2Proof.Machine.execLdc sz d a off s
  | .ldcs sz d a off => Sys2Proof.Machine.execLdcs sz d a off s
  | .stc sz d a off => Sys2Proof.Machine.execStc sz d a off s
  | .div d a b tk => Sys2Proof.Machine.execDiv d a b tk s
  | .divu d a b tk => Sys2Proof.Machine.execDivu d a b tk s
  | .rem d a b tk => Sys2Proof.Machine.execRem d a b tk s
  | .remu d a b tk => Sys2Proof.Machine.execRemu d a b tk s
  | .divw d a b tk => Sys2Proof.Machine.execDivw d a b tk s
  | .divuw d a b tk => Sys2Proof.Machine.execDivuw d a b tk s
  | .remw d a b tk => Sys2Proof.Machine.execRemw d a b tk s
  | .remuw d a b tk => Sys2Proof.Machine.execRemuw d a b tk s
  | .isqrt d a tk => Sys2Proof.Machine.execIsqrt d a tk s
  | .fsqrt d a tk => Sys2Proof.Machine.execFsqrt d a tk s
  | .fadd d a b => Sys2Proof.Machine.execFadd d a b s
  | .fsub d a b => Sys2Proof.Machine.execFsub d a b s
  | .fmul d a b => Sys2Proof.Machine.execFmul d a b s
  | .fmadd d a b => Sys2Proof.Machine.execFmadd d a b s
  | .fmsub d a b => Sys2Proof.Machine.execFmsub d a b s
  | .fnmsub d a b => Sys2Proof.Machine.execFnmsub d a b s
  | .feq d a b => Sys2Proof.Machine.execFeq d a b s
  | .flt d a b => Sys2Proof.Machine.execFlt d a b s
  | .fle d a b => Sys2Proof.Machine.execFle d a b s
  | .fmin d a b => Sys2Proof.Machine.execFmin d a b s
  | .fmax d a b => Sys2Proof.Machine.execFmax d a b s
  | .fsgnj d a b => Sys2Proof.Machine.execFsgnj d a b s
  | .fsgnjn d a b => Sys2Proof.Machine.execFsgnjn d a b s
  | .fsgnjx d a b => Sys2Proof.Machine.execFsgnjx d a b s
  | .fclass d a => Sys2Proof.Machine.execFclass d a s
  | .cvtfs d a => Sys2Proof.Machine.execCvtfs d a s
  | .cvtfu d a => Sys2Proof.Machine.execCvtfu d a s
  | .cvtfsz d a => Sys2Proof.Machine.execCvtfsz d a s
  | .cvtfuz d a => Sys2Proof.Machine.execCvtfuz d a s
  | .cvtsf d a => Sys2Proof.Machine.execCvtsf d a s
  | .cvtuf d a => Sys2Proof.Machine.execCvtuf d a s
  | .cvtfh d a => Sys2Proof.Machine.execCvtfh d a s
  | .cvthf d a => Sys2Proof.Machine.execCvthf d a s
  | .crr d c => Sys2Proof.Machine.execCrr d c s
  | .crw d c a => Sys2Proof.Machine.execCrw d c a s
  | .crset d c a => Sys2Proof.Machine.execCrset d c a s
  | .crclr d c a => Sys2Proof.Machine.execCrclr d c a s
  | .nop => Sys2Proof.Machine.execNop s
  | .dly cnt => Sys2Proof.Machine.execDly cnt s
  | .tkwThreshold tk a => Sys2Proof.Machine.execTkwThreshold tk a s
  | .tkwDrain tk => Sys2Proof.Machine.execTkwDrain tk s
  | .tkr d tk => Sys2Proof.Machine.execTkr d tk s
  | .tkc tk a => Sys2Proof.Machine.execTkc tk a s
  | .vadd d a b m => Sys2Proof.Machine.execVadd d a b m s
  | .vsub d a b m => Sys2Proof.Machine.execVsub d a b m s
  | .vrsub d a b m => Sys2Proof.Machine.execVrsub d a b m s
  | .vand d a b m => Sys2Proof.Machine.execVand d a b m s
  | .vor d a b m => Sys2Proof.Machine.execVor d a b m s
  | .vxor d a b m => Sys2Proof.Machine.execVxor d a b m s
  | .vsll d a b m => Sys2Proof.Machine.execVsll d a b m s
  | .vsrl d a b m => Sys2Proof.Machine.execVsrl d a b m s
  | .vsra d a b m => Sys2Proof.Machine.execVsra d a b m s
  | .vmv d b m => Sys2Proof.Machine.execVmv d b m s
  | .vmul d a b m => Sys2Proof.Machine.execVmul d a b m s
  | .vmulh d a b m => Sys2Proof.Machine.execVmulh d a b m s
  | .vmulhu d a b m => Sys2Proof.Machine.execVmulhu d a b m s
  | .vmulhsu d a b m => Sys2Proof.Machine.execVmulhsu d a b m s
  | .vmacc d a b m => Sys2Proof.Machine.execVmacc d a b m s
  | .vmin d a b m => Sys2Proof.Machine.execVmin d a b m s
  | .vmax d a b m => Sys2Proof.Machine.execVmax d a b m s
  | .vminu d a b m => Sys2Proof.Machine.execVminu d a b m s
  | .vmaxu d a b m => Sys2Proof.Machine.execVmaxu d a b m s
  | .vsadd d a b m => Sys2Proof.Machine.execVsadd d a b m s
  | .vsaddu d a b m => Sys2Proof.Machine.execVsaddu d a b m s
  | .vssub d a b m => Sys2Proof.Machine.execVssub d a b m s
  | .vssubu d a b m => Sys2Proof.Machine.execVssubu d a b m s
  | .vwadd d a b m => Sys2Proof.Machine.execVwadd d a b m s
  | .vwaddu d a b m => Sys2Proof.Machine.execVwaddu d a b m s
  | .vwsub d a b m => Sys2Proof.Machine.execVwsub d a b m s
  | .vwsubu d a b m => Sys2Proof.Machine.execVwsubu d a b m s
  | .vwmul d a b m => Sys2Proof.Machine.execVwmul d a b m s
  | .vwmulu d a b m => Sys2Proof.Machine.execVwmulu d a b m s
  | .vnsra d a b m => Sys2Proof.Machine.execVnsra d a b m s
  | .vnclip d a b m => Sys2Proof.Machine.execVnclip d a b m s
  | .vfadd d a b m => Sys2Proof.Machine.execVfadd d a b m s
  | .vfsub d a b m => Sys2Proof.Machine.execVfsub d a b m s
  | .vfrsub d a b m => Sys2Proof.Machine.execVfrsub d a b m s
  | .vfmul d a b m => Sys2Proof.Machine.execVfmul d a b m s
  | .vfmin d a b m => Sys2Proof.Machine.execVfmin d a b m s
  | .vfmax d a b m => Sys2Proof.Machine.execVfmax d a b m s
  | .vfsgnj d a b m => Sys2Proof.Machine.execVfsgnj d a b m s
  | .vfsgnjn d a b m => Sys2Proof.Machine.execVfsgnjn d a b m s
  | .vfsgnjx d a b m => Sys2Proof.Machine.execVfsgnjx d a b m s
  | .vfclass d a m => Sys2Proof.Machine.execVfclass d a m s
  | .vfaddBf d a b m => Sys2Proof.Machine.execVfaddBf d a b m s
  | .vfsubBf d a b m => Sys2Proof.Machine.execVfsubBf d a b m s
  | .vfrsubBf d a b m => Sys2Proof.Machine.execVfrsubBf d a b m s
  | .vfmulBf d a b m => Sys2Proof.Machine.execVfmulBf d a b m s
  | .vfminBf d a b m => Sys2Proof.Machine.execVfminBf d a b m s
  | .vfmaxBf d a b m => Sys2Proof.Machine.execVfmaxBf d a b m s
  | .vfsgnjBf d a b m => Sys2Proof.Machine.execVfsgnjBf d a b m s
  | .vfsgnjnBf d a b m => Sys2Proof.Machine.execVfsgnjnBf d a b m s
  | .vfsgnjxBf d a b m => Sys2Proof.Machine.execVfsgnjxBf d a b m s
  | .vfclassBf d a m => Sys2Proof.Machine.execVfclassBf d a m s
  | .vfwaddBf d a b m => Sys2Proof.Machine.execVfwaddBf d a b m s
  | .vfwsubBf d a b m => Sys2Proof.Machine.execVfwsubBf d a b m s
  | .vfwmulBf d a b m => Sys2Proof.Machine.execVfwmulBf d a b m s
  | .vfwaddWbf d a b m => Sys2Proof.Machine.execVfwaddWbf d a b m s
  | .vfwsubWbf d a b m => Sys2Proof.Machine.execVfwsubWbf d a b m s
  | .vfmacc d a b m => Sys2Proof.Machine.execVfmacc d a b m s
  | .vfnmacc d a b m => Sys2Proof.Machine.execVfnmacc d a b m s
  | .vfmsac d a b m => Sys2Proof.Machine.execVfmsac d a b m s
  | .vfnmsac d a b m => Sys2Proof.Machine.execVfnmsac d a b m s
  | .vfmadd d a b m => Sys2Proof.Machine.execVfmadd d a b m s
  | .vfmaccBf d a b m => Sys2Proof.Machine.execVfmaccBf d a b m s
  | .vfnmaccBf d a b m => Sys2Proof.Machine.execVfnmaccBf d a b m s
  | .vfmsacBf d a b m => Sys2Proof.Machine.execVfmsacBf d a b m s
  | .vfnmsacBf d a b m => Sys2Proof.Machine.execVfnmsacBf d a b m s
  | .vfmaddBf d a b m => Sys2Proof.Machine.execVfmaddBf d a b m s
  | .vfwmaccBf d a b m => Sys2Proof.Machine.execVfwmaccBf d a b m s
  | .vfwnmaccBf d a b m => Sys2Proof.Machine.execVfwnmaccBf d a b m s
  | .vfwmsacBf d a b m => Sys2Proof.Machine.execVfwmsacBf d a b m s
  | .vfwnmsacBf d a b m => Sys2Proof.Machine.execVfwnmsacBf d a b m s
  | .vfcvtXF d a m => Sys2Proof.Machine.execVfcvtXF d a m s
  | .vfcvtXuF d a m => Sys2Proof.Machine.execVfcvtXuF d a m s
  | .vfcvtRtzXF d a m => Sys2Proof.Machine.execVfcvtRtzXF d a m s
  | .vfcvtRtzXuF d a m => Sys2Proof.Machine.execVfcvtRtzXuF d a m s
  | .vfcvtFX d a m => Sys2Proof.Machine.execVfcvtFX d a m s
  | .vfcvtFXu d a m => Sys2Proof.Machine.execVfcvtFXu d a m s
  | .vfcvtXBf d a m => Sys2Proof.Machine.execVfcvtXBf d a m s
  | .vfcvtBfX d a m => Sys2Proof.Machine.execVfcvtBfX d a m s
  | .vfwcvtFBf d a m => Sys2Proof.Machine.execVfwcvtFBf d a m s
  | .vfwcvtXF d a m => Sys2Proof.Machine.execVfwcvtXF d a m s
  | .vfwcvtFX d a m => Sys2Proof.Machine.execVfwcvtFX d a m s
  | .vfncvtBfF d a m => Sys2Proof.Machine.execVfncvtBfF d a m s
  | .vfncvtXF d a m => Sys2Proof.Machine.execVfncvtXF d a m s
  | .vfncvtXuF d a m => Sys2Proof.Machine.execVfncvtXuF d a m s
  | .vfncvtFX d a m => Sys2Proof.Machine.execVfncvtFX d a m s
  | .vsext2 d a m => Sys2Proof.Machine.execVsext2 d a m s
  | .vzext2 d a m => Sys2Proof.Machine.execVzext2 d a m s
  | .vsext4 d a m => Sys2Proof.Machine.execVsext4 d a m s
  | .vzext4 d a m => Sys2Proof.Machine.execVzext4 d a m s
  | .vsext8 d a m => Sys2Proof.Machine.execVsext8 d a m s
  | .vzext8 d a m => Sys2Proof.Machine.execVzext8 d a m s
  | .vmseq d a b m => Sys2Proof.Machine.execVmseq d a b m s
  | .vmsne d a b m => Sys2Proof.Machine.execVmsne d a b m s
  | .vmslt d a b m => Sys2Proof.Machine.execVmslt d a b m s
  | .vmsltu d a b m => Sys2Proof.Machine.execVmsltu d a b m s
  | .vmsle d a b m => Sys2Proof.Machine.execVmsle d a b m s
  | .vmsleu d a b m => Sys2Proof.Machine.execVmsleu d a b m s
  | .vmsgt d a b m => Sys2Proof.Machine.execVmsgt d a b m s
  | .vmsgtu d a b m => Sys2Proof.Machine.execVmsgtu d a b m s
  | .vmfeq d a b m => Sys2Proof.Machine.execVmfeq d a b m s
  | .vmfne d a b m => Sys2Proof.Machine.execVmfne d a b m s
  | .vmflt d a b m => Sys2Proof.Machine.execVmflt d a b m s
  | .vmfle d a b m => Sys2Proof.Machine.execVmfle d a b m s
  | .vmfgt d a b m => Sys2Proof.Machine.execVmfgt d a b m s
  | .vmfge d a b m => Sys2Proof.Machine.execVmfge d a b m s
  | .vmfeqBf d a b m => Sys2Proof.Machine.execVmfeqBf d a b m s
  | .vmfneBf d a b m => Sys2Proof.Machine.execVmfneBf d a b m s
  | .vmfltBf d a b m => Sys2Proof.Machine.execVmfltBf d a b m s
  | .vmfleBf d a b m => Sys2Proof.Machine.execVmfleBf d a b m s
  | .vmfgtBf d a b m => Sys2Proof.Machine.execVmfgtBf d a b m s
  | .vmfgeBf d a b m => Sys2Proof.Machine.execVmfgeBf d a b m s
  | .vmand d a b m => Sys2Proof.Machine.execVmand d a b m s
  | .vmor d a b m => Sys2Proof.Machine.execVmor d a b m s
  | .vmxor d a b m => Sys2Proof.Machine.execVmxor d a b m s
  | .vmandn d a b m => Sys2Proof.Machine.execVmandn d a b m s
  | .vmorn d a b m => Sys2Proof.Machine.execVmorn d a b m s
  | .vmnand d a b m => Sys2Proof.Machine.execVmnand d a b m s
  | .vmnor d a b m => Sys2Proof.Machine.execVmnor d a b m s
  | .vmxnor d a b m => Sys2Proof.Machine.execVmxnor d a b m s
  | .vmsbf d a m => Sys2Proof.Machine.execVmsbf d a m s
  | .vmsif d a m => Sys2Proof.Machine.execVmsif d a m s
  | .vmsof d a m => Sys2Proof.Machine.execVmsof d a m s
  | .viota d a m => Sys2Proof.Machine.execViota d a m s
  | .vid d m => Sys2Proof.Machine.execVid d m s
  | .vmpopc d a m => Sys2Proof.Machine.execVmpopc d a m s
  | .vmfirst d a m => Sys2Proof.Machine.execVmfirst d a m s
  | .vrgather d a b m tk => Sys2Proof.Machine.execVrgather d a b m tk s
  | .vrgatherx d a b m tk => Sys2Proof.Machine.execVrgatherx d a b m tk s
  | .vslideup d a b m tk => Sys2Proof.Machine.execVslideup d a b m tk s
  | .vslidedown d a b m tk => Sys2Proof.Machine.execVslidedown d a b m tk s
  | .vslide1up d a b m tk => Sys2Proof.Machine.execVslide1up d a b m tk s
  | .vslide1down d a b m tk => Sys2Proof.Machine.execVslide1down d a b m tk s
  | .vcompress d a b tk => Sys2Proof.Machine.execVcompress d a b tk s
  | .vmvxs d a b tk => Sys2Proof.Machine.execVmvxs d a b tk s
  | .vmvsx d a m tk => Sys2Proof.Machine.execVmvsx d a m tk s
  | .vrev d a m tk => Sys2Proof.Machine.execVrev d a m tk s
  | .vredoFsum d a b m tk => Sys2Proof.Machine.execVredoFsum d a b m tk s
  | .vredoFmax d a b m tk => Sys2Proof.Machine.execVredoFmax d a b m tk s
  | .vredoFmin d a b m tk => Sys2Proof.Machine.execVredoFmin d a b m tk s
  | .vredoBfsum d a b m tk => Sys2Proof.Machine.execVredoBfsum d a b m tk s
  | .vredoSum d a b m tk => Sys2Proof.Machine.execVredoSum d a b m tk s
  | .vredoMax d a b m tk => Sys2Proof.Machine.execVredoMax d a b m tk s
  | .vredoMin d a b m tk => Sys2Proof.Machine.execVredoMin d a b m tk s
  | .vredoMinu d a b m tk => Sys2Proof.Machine.execVredoMinu d a b m tk s
  | .vredtFsum d a b m tk => Sys2Proof.Machine.execVredtFsum d a b m tk s
  | .vredtFmax d a b m tk => Sys2Proof.Machine.execVredtFmax d a b m tk s
  | .vredtFmin d a b m tk => Sys2Proof.Machine.execVredtFmin d a b m tk s
  | .vredtBfsum d a b m tk => Sys2Proof.Machine.execVredtBfsum d a b m tk s
  | .vredtSum d a b m tk => Sys2Proof.Machine.execVredtSum d a b m tk s
  | .vredtMax d a b m tk => Sys2Proof.Machine.execVredtMax d a b m tk s
  | .vredtMin d a b m tk => Sys2Proof.Machine.execVredtMin d a b m tk s
  | .vredtMaxu d a b m tk => Sys2Proof.Machine.execVredtMaxu d a b m tk s
  | .vsortu d a tk => Sys2Proof.Machine.execVsortu d a tk s
  | .vsorts d a tk => Sys2Proof.Machine.execVsorts d a tk s
  | .vsortf d a tk => Sys2Proof.Machine.execVsortf d a tk s
  | .vsortkvu d a tk => Sys2Proof.Machine.execVsortkvu d a tk s
  | .vsortkvs d a tk => Sys2Proof.Machine.execVsortkvs d a tk s
  | .vsortkvf d a tk => Sys2Proof.Machine.execVsortkvf d a tk s
  | .vmergeu d a b tk => Sys2Proof.Machine.execVmergeu d a b tk s
  | .vmerges d a b tk => Sys2Proof.Machine.execVmerges d a b tk s
  | .vmergef d a b tk => Sys2Proof.Machine.execVmergef d a b tk s
  | .vtag d a b m tk => Sys2Proof.Machine.execVtag d a b m tk s
  | .vsegm d a tk => Sys2Proof.Machine.execVsegm d a tk s
  | .vsetvl d a => Sys2Proof.Machine.execVsetvl d a s
  | .vcfg d a b => Sys2Proof.Machine.execVcfg d a b s
  | .vbr k off => Sys2Proof.Machine.execVbr k off s
  | .vjoin off => Sys2Proof.Machine.execVjoin off s
  | .vloop a k off => Sys2Proof.Machine.execVloop a k off s
  | .vldc d a m tk => Sys2Proof.Machine.execVldc d a m tk s
  | .vldcs d a b m tk => Sys2Proof.Machine.execVldcs d a b m tk s
  | .vldcx d a b m tk => Sys2Proof.Machine.execVldcx d a b m tk s
  | .vstc d a m tk => Sys2Proof.Machine.execVstc d a m tk s
  | .vstcs d a b m tk => Sys2Proof.Machine.execVstcs d a b m tk s
  | .vstcx d a b m tk => Sys2Proof.Machine.execVstcx d a b m tk s
  | .vstp d a m tk => Sys2Proof.Machine.execVstp d a m tk s
  | .vstpb d a b m tk => Sys2Proof.Machine.execVstpb d a b m tk s
  | .vtrdr d a b m => Sys2Proof.Machine.execVtrdr d a b m s
  | .vtrdc d a b m => Sys2Proof.Machine.execVtrdc d a b m s
  | .vtrdrz d a b m => Sys2Proof.Machine.execVtrdrz d a b m s
  | .vtrdcz d a b m => Sys2Proof.Machine.execVtrdcz d a b m s
  | .vtwrr d a b m => Sys2Proof.Machine.execVtwrr d a b m s
  | .vtwrc d a b m => Sys2Proof.Machine.execVtwrc d a b m s
  | .rmk d a b => Sys2Proof.Machine.execRmk d a b s
  | .rseal d a => Sys2Proof.Machine.execRseal d a s
  | .rrel d a => Sys2Proof.Machine.execRrel d a s
  | .rmark d a => Sys2Proof.Machine.execRmark d a s
  | .rhdr d a => Sys2Proof.Machine.execRhdr d a s
  | .rview d a b => Sys2Proof.Machine.execRview d a b s
  | .pbind d a b => Sys2Proof.Machine.execPbind d a b s
  | .punbind d a => Sys2Proof.Machine.execPunbind d a s
  | .pseal d a => Sys2Proof.Machine.execPseal d a s
  | .pseek d a b => Sys2Proof.Machine.execPseek d a b s
  | .ppos d a => Sys2Proof.Machine.execPpos d a s
  | .pstat d a => Sys2Proof.Machine.execPstat d a s
  | .phnd d a => Sys2Proof.Machine.execPhnd d a s
  | .vprd d a m tk => Sys2Proof.Machine.execVprd d a m tk s
  | .vprdff d a m tk => Sys2Proof.Machine.execVprdff d a m tk s
  | .vpwr d a m tk => Sys2Proof.Machine.execVpwr d a m tk s
  | .vppeek d a m tk => Sys2Proof.Machine.execVppeek d a m tk s
  | .vprdnF d a b tk => Sys2Proof.Machine.execVprdnF d a b tk s
  | .vprdnBf d a b tk => Sys2Proof.Machine.execVprdnBf d a b tk s
  | .vprdnffF d a b tk => Sys2Proof.Machine.execVprdnffF d a b tk s
  | .vprdnffBf d a b tk => Sys2Proof.Machine.execVprdnffBf d a b tk s
  | .vprdnC d a tk => Sys2Proof.Machine.execVprdnC d a tk s
  | .vprdnffC d a tk => Sys2Proof.Machine.execVprdnffC d a tk s
  | .vpwrnF d a b tk => Sys2Proof.Machine.execVpwrnF d a b tk s
  | .vpwrnBf d a b tk => Sys2Proof.Machine.execVpwrnBf d a b tk s
  | .vpwrnC d a tk => Sys2Proof.Machine.execVpwrnC d a tk s
  | .bld d a oc tk => Sys2Proof.Machine.execBld d a oc tk s
  | .bst d a oc => Sys2Proof.Machine.execBst d a oc s
  | .bstk d a oc tk => Sys2Proof.Machine.execBstk d a oc tk s
  | .vbld d a oc tk => Sys2Proof.Machine.execVbld d a oc tk s
  | .vbst d a oc tk => Sys2Proof.Machine.execVbst d a oc tk s
  | .bldsc d a tk => Sys2Proof.Machine.execBldsc d a tk s
  | .bstsc d a tk => Sys2Proof.Machine.execBstsc d a tk s
  | .aadd d a b oc tk => Sys2Proof.Machine.execAadd d a b oc tk s
  | .amax d a b oc tk => Sys2Proof.Machine.execAmax d a b oc tk s
  | .amin d a b oc tk => Sys2Proof.Machine.execAmin d a b oc tk s
  | .aswp d a b oc tk => Sys2Proof.Machine.execAswp d a b oc tk s
  | .acas d a b oc tk => Sys2Proof.Machine.execAcas d a b oc tk s
  | .amaxe d a b oc tk => Sys2Proof.Machine.execAmaxe d a b oc tk s
  | .amine d a b oc tk => Sys2Proof.Machine.execAmine d a b oc tk s
  | .vamaxe d a b oc tk => Sys2Proof.Machine.execVamaxe d a b oc tk s
  | .fenc a => Sys2Proof.Machine.execFenc a s
  | .vwait d a b oc tk => Sys2Proof.Machine.execVwait d a b oc tk s
  | .cprr d a b tk => Sys2Proof.Machine.execCprr d a b tk s
  | .cprc d a b tk => Sys2Proof.Machine.execCprc d a b tk s
  | .cprp d a b tk => Sys2Proof.Machine.execCprp d a b tk s
  | .cpmark d a tk => Sys2Proof.Machine.execCpmark d a tk s
  | .cpseq d a tk => Sys2Proof.Machine.execCpseq d a tk s
  | .cpstat d a b tk => Sys2Proof.Machine.execCpstat d a b tk s
  | .cpretry d a tk => Sys2Proof.Machine.execCpretry d a tk s
  | .cpabort d a tk => Sys2Proof.Machine.execCpabort d a tk s
  | .ssort d a b tk => Sys2Proof.Machine.execSsort d a b tk s
  | .smerge d a b tk => Sys2Proof.Machine.execSmerge d a b tk s
  | .sjoin d a b tk => Sys2Proof.Machine.execSjoin d a b tk s
  | .stag d a b tk => Sys2Proof.Machine.execStag d a b tk s
  | .sprog d a b tk => Sys2Proof.Machine.execSprog d a b tk s
  | .sabort d a tk => Sys2Proof.Machine.execSabort d a tk s
  | .mcfg d a b => Sys2Proof.Machine.execMcfg d a b s
  | .msetl d a b => Sys2Proof.Machine.execMsetl d a b s
  | .men d a => Sys2Proof.Machine.execMen d a s
  | .mdis d a => Sys2Proof.Machine.execMdis d a s
  | .mma d a b tk => Sys2Proof.Machine.execMma d a b tk s
  | .mmaz d a b tk => Sys2Proof.Machine.execMmaz d a b tk s
  | .mzero d tk => Sys2Proof.Machine.execMzero d tk s
  | .tspawn d a => Sys2Proof.Machine.execTspawn d a s
  | .tretire => Sys2Proof.Machine.execTretire s
  | .tscope d => Sys2Proof.Machine.execTscope d s
  | .titer d => Sys2Proof.Machine.execTiter d s
  | .sopen d a => Sys2Proof.Machine.execSopen d a s
  | .scancel d a => Sys2Proof.Machine.execScancel d a s
  | .swait d a b => Sys2Proof.Machine.execSwait d a b s
  | .sclose d a => Sys2Proof.Machine.execSclose d a s
  | .sread d a b => Sys2Proof.Machine.execSread d a b s
  | .sself d => Sys2Proof.Machine.execSself d s
  | .grbeg d a b => Sys2Proof.Machine.execGrbeg d a b s
  | .gadd d a b => Sys2Proof.Machine.execGadd d a b s
  | .gdep d a b => Sys2Proof.Machine.execGdep d a b s
  | .grend d a => Sys2Proof.Machine.execGrend d a s
  | .grplay d a b tk => Sys2Proof.Machine.execGrplay d a b tk s
  | .gfree d a => Sys2Proof.Machine.execGfree d a s
  | .bjoin l d a => Sys2Proof.Machine.execBjoin l d a s
  | .bwait l d a b => Sys2Proof.Machine.execBwait l d a b s
  | .bleave l d a => Sys2Proof.Machine.execBleave l d a s
  | .scall => Sys2Proof.Machine.execScall s
  | .brk => Sys2Proof.Machine.execBrk s
  | .sret a => Sys2Proof.Machine.execSret a s
  | .svec d a => Sys2Proof.Machine.execSvec d a s
  | .swatch d a => Sys2Proof.Machine.execSwatch d a s
  | .subr d a => Sys2Proof.Machine.execSubr d a s
  | .subw d a b => Sys2Proof.Machine.execSubw d a b s
  | .ctxsave d a => Sys2Proof.Machine.execCtxsave d a s
  | .ctxrest d a => Sys2Proof.Machine.execCtxrest d a s
  | .ctxdrop d a => Sys2Proof.Machine.execCtxdrop d a s
  | .spool d a b => Sys2Proof.Machine.execSpool d a b s
  | .sring d a b => Sys2Proof.Machine.execSring d a b s
  | .xrng d a b => Sys2Proof.Machine.execXrng d a b s
  | .xrrd d a b => Sys2Proof.Machine.execXrrd d a b s
  | .xctx d a b => Sys2Proof.Machine.execXctx d a b s
  | .xinv d a b => Sys2Proof.Machine.execXinv d a b s
  | .xpois d a b => Sys2Proof.Machine.execXpois d a b s
  | .lrecl d a => Sys2Proof.Machine.execLrecl d a s
  | .lgive d a => Sys2Proof.Machine.execLgive d a s
  | .lspare d a => Sys2Proof.Machine.execLspare d a s
  | .lmir d a => Sys2Proof.Machine.execLmir d a s
  | .lstat d a => Sys2Proof.Machine.execLstat d a s
  | .cform d a b => Sys2Proof.Machine.execCform d a b s
  | .callr d a => Sys2Proof.Machine.execCallr d a s
  | .cabort d a => Sys2Proof.Machine.execCabort d a s
  | .cid d => Sys2Proof.Machine.execCid d s
  | .lkstat d a => Sys2Proof.Machine.execLkstat d a s
  | .fixedLatencyWriteback => Sys2Proof.Machine.execFixedLatencyWriteback s
  | .codeLineFill => Sys2Proof.Machine.execCodeLineFill s
  | .dividerCompletion => Sys2Proof.Machine.execDividerCompletion s
  | .vectorEntryStart => Sys2Proof.Machine.execVectorEntryStart s
  | .sharedUnitCycle u => Sys2Proof.Machine.execSharedUnitCycle u s
  | .vectorPostingCompletion u => Sys2Proof.Machine.execVectorPostingCompletion u s
  | .portReadResume => Sys2Proof.Machine.execPortReadResume s
  | .beaconAccessCompletion k => Sys2Proof.Machine.execBeaconAccessCompletion k s
  | .atomicCompletion k => Sys2Proof.Machine.execAtomicCompletion k s
  | .vwaitReread => Sys2Proof.Machine.execVwaitReread s
  | .vwaitTimeout => Sys2Proof.Machine.execVwaitTimeout s
  | .sorterPassStart => Sys2Proof.Machine.execSorterPassStart s
  | .sorterChunk => Sys2Proof.Machine.execSorterChunk s
  | .copyStart ch => Sys2Proof.Machine.execCopyStart ch s
  | .copyChunk ch fails => Sys2Proof.Machine.execCopyChunk ch fails s
  | .matrixOpHead => Sys2Proof.Machine.execMatrixOpHead s
  | .matrixOpRead => Sys2Proof.Machine.execMatrixOpRead s
  | .matrixOpCompletion => Sys2Proof.Machine.execMatrixOpCompletion s
  | .trapEntry c aux => Sys2Proof.Machine.execTrapEntry c aux s
  | .engineFaultDelivery => Sys2Proof.Machine.execEngineFaultDelivery s
  | .killPoint => Sys2Proof.Machine.execKillPoint s
  | .cancelAcknowledgement h => Sys2Proof.Machine.execCancelAcknowledgement h s
  | .bwaitTimeout => Sys2Proof.Machine.execBwaitTimeout s
  | .swaitTimeout => Sys2Proof.Machine.execSwaitTimeout s
  | .plotterCycle => Sys2Proof.Machine.execPlotterCycle s
  | .recordPromotion prio k => Sys2Proof.Machine.execRecordPromotion prio k s
  | .spillReturn => Sys2Proof.Machine.execSpillReturn s
  | .prefetchParameterBlock k => Sys2Proof.Machine.execPrefetchParameterBlock k s
  | .prebind k => Sys2Proof.Machine.execPrebind k s
  | .taskStart => Sys2Proof.Machine.execTaskStart s
  | .graphNodeSpawn g node => Sys2Proof.Machine.execGraphNodeSpawn g node s
  | .fullSave => Sys2Proof.Machine.execFullSave s
  | .contextRestore k => Sys2Proof.Machine.execContextRestore k s
  | .elementGroupReplay lane reg mism => Sys2Proof.Machine.execElementGroupReplay lane reg mism s
  | .eccWriteback core => Sys2Proof.Machine.execEccWriteback core s
  | .capabilityFence bits => Sys2Proof.Machine.execCapabilityFence bits s
  | .sounding => Sys2Proof.Machine.execSounding s
  | .soundingDrainTimeout => Sys2Proof.Machine.execSoundingDrainTimeout s
  | .scanTest fails alus => Sys2Proof.Machine.execScanTest fails alus s
  | .stealRequest victim => Sys2Proof.Machine.execStealRequest victim s
  | .lend thief => Sys2Proof.Machine.execLend thief s
  | .stealEnter => Sys2Proof.Machine.execStealEnter s
  | .stealAcknowledgement => Sys2Proof.Machine.execStealAcknowledgement s
  | .lendReclaim => Sys2Proof.Machine.execLendReclaim s
  | .linkFlitRetry l => Sys2Proof.Machine.execLinkFlitRetry l s
  | .chunkRefetch l => Sys2Proof.Machine.execChunkRefetch l s
  | .linkLost l => Sys2Proof.Machine.execLinkLost l s
  | .dieReset d => Sys2Proof.Machine.execDieReset d s
  | .packageLost p => Sys2Proof.Machine.execPackageLost p s
  | .hello gen members answer => Sys2Proof.Machine.execHello gen members answer s
  | .cformTimeout lost => Sys2Proof.Machine.execCformTimeout lost s
  | .ringStep others => Sys2Proof.Machine.execRingStep others s
  | .collectiveTimeout who => Sys2Proof.Machine.execCollectiveTimeout who s
  | .abortFlood gen failId => Sys2Proof.Machine.execAbortFlood gen failId s
  | .coreReset => Sys2Proof.Machine.execCoreReset s
  | .hostLoadImage kind dva pa bytes ok => Sys2Proof.Machine.execHostLoadImage kind dva pa bytes ok s
  | .hostCreateRun base wlog records => Sys2Proof.Machine.execHostCreateRun base wlog records s
  | .hostReadRun h => Sys2Proof.Machine.execHostReadRun h s
  | .hostStart recs replay => Sys2Proof.Machine.execHostStart recs replay s
  | .startReport k => Sys2Proof.Machine.execStartReport k s
  | .attestationReport nonce => Sys2Proof.Machine.execAttestationReport nonce s
  | .imageVerify digest ok => Sys2Proof.Machine.execImageVerify digest ok s
  | .coldStart => Sys2Proof.Machine.execColdStart s
  | .heatingComplete => Sys2Proof.Machine.execHeatingComplete s
  | .lpddrTraining => Sys2Proof.Machine.execLpddrTraining s
  | .clockStretch mhz => Sys2Proof.Machine.execClockStretch mhz s
  | .channelRetrain ch => Sys2Proof.Machine.execChannelRetrain ch s
  | .environmentLimit stop => Sys2Proof.Machine.execEnvironmentLimit stop s
  | .linkRetrain l => Sys2Proof.Machine.execLinkRetrain l s
  | .capabilityTableWrite entry word v => Sys2Proof.Machine.execCapabilityTableWrite entry word v s
  | .soundingIntervalSet v => Sys2Proof.Machine.execSoundingIntervalSet v s
  | .keyPairLoad k key1 key2 => Sys2Proof.Machine.execKeyPairLoad k key1 key2 s
  | .diePowerGating d => Sys2Proof.Machine.execDiePowerGating d s

end Sys2Proof.Machine
end

