-- ==== Sys2Proof/Machine/Schedule.lean ====
section
/-! DEFINITION. Which event of the part comes next when the agenda says nothing (DESIGN CHOICE, log entry 4). A kill point comes first; then
what takes no time of its own: the starts of queue entries, ends of waits, tasks that start; then the slots of the fronts
that are due in the present cycle; then a cycle passes, in which every busy unit takes one step. -/
namespace Sys2Proof.Machine

/-- An event that changes something. -/
def State.attempt (s : State) (may : Bool) (f : State → State) : Option State :=
  if may then (let t := f s; if t = s then none else some t) else none

/-- The first of several attempts that succeeds. -/
def firstOf : List (Unit → Option State) → Option State
  | [] => none
  | f :: fs =>
    match f () with
    | some s => some s
    | none => firstOf fs

/-! ### Events of a hart -/

/-- The first issued access of the focused hart that may perform now. -/
def State.readyBop (s : State) : Option (Nat × BOp) :=
  ((List.range s.hart.bops.length).zip s.hart.bops).find? fun p =>
    p.2.started && !(p.2.kind matches .fence _) && !s.bopHeld p.2

/-- What happens at the focused hart without waiting for a cycle. -/
def State.hartEvent (s : State) : Option State :=
  firstOf [
    fun _ => s.attempt (!s.hart.vq.isEmpty) State.entryStarts,
    fun _ => s.attempt (decide (s.hart.hold ≠ .none)) State.bwaitExpire,
    fun _ => s.attempt (decide (s.hart.hold ≠ .none)) State.swaitExpire,
    fun _ => s.attempt s.hart.inColl State.collLate,
    fun _ => s.attempt (!s.hart.late.isEmpty) lateDue,
    fun _ => s.attempt s.hart.savePend State.fullSave,
    fun _ => s.attempt (!s.hart.idle && !s.hart.stopped) State.fillLine ]

/-- One of several steps, if one can be taken. -/
def State.oneOf (s : State) (fs : List (State → State)) : State :=
  (firstOf (fs.map fun f _ => s.attempt true f)).getD s

/-- A cycle of what works for the focused hart: its operations in the shared units, an access to the beacons, its divisions. On a
free hart slots pass while a handler's operations are still to complete (R22). -/
def State.hartCycle (s : State) : State :=
  let s := if s.hart.idle && !s.ownDone s.cur then tick s else s
  let s := if s.core.pipe.isEmpty then s
    else s.oneOf [State.portResume, (State.unitComplete · .pipe), State.vwaitReads, State.vwaitExpire]
  let s := if s.core.net.isEmpty then s else s.oneOf [(State.unitComplete · .net)]
  let s := if s.hart.bops.isEmpty then s
    else
      match s.readyBop with
      | some p => s.bopStep p.1 p.2.kind.isAtomic
      | none => s
  if s.core.divider.isEmpty then s else s.divComplete

/-! ### Events of a core, a quad, a die and the package -/

def chanOf (k : Nat) : Chan := ⟨k % 4, Nat.mod_lt _ (by decide)⟩

/-- What happens at the focused core without waiting for a cycle: its prefetcher, and the start of tasks. -/
def State.coreEvent (s : State) : Option State :=
  let waiting := !s.core.shadow.isEmpty
  firstOf [
    fun _ => s.attempt waiting (State.prefetch · 0), fun _ => s.attempt waiting (State.prefetch · 1),
    fun _ => s.attempt waiting (State.prebind · 0), fun _ => s.attempt waiting (State.prebind · 1),
    fun _ => s.attempt waiting State.taskStart ]

/-- A cycle of the focused core: each shared unit advances one element group of one operation (R116), and its channels work
(DESIGN CHOICE, log entry 85). -/
def State.coreCycle (s : State) : State :=
  let s := (s.unitCycle .pipe).unitCycle .net
  (List.range 4).foldl (fun s k =>
    if s.core.chans[chanOf k].q.isEmpty && s.core.chans[chanOf k].aborts.isEmpty then s
    else s.oneOf [(State.copyStart · (chanOf k)), fun s => s.copyChunk (chanOf k) false]) s

/-- A cycle of the focused quad's Sorter and array. -/
def State.quadCycle (s : State) : State :=
  let s := if s.quad.passes.isEmpty then s else s.oneOf [State.sorterSettle, State.sorterStart, State.sorterChunk]
  if s.quad.mops.isEmpty then s else s.oneOf [State.mopHead, State.mopRead, State.mopComplete]

/-- Restore a saved context on the first hart that takes it. -/
def State.restoreNext (s : State) : State :=
  match s.nextSaved s.cur.die with
  | none => s
  | some v =>
    match s.restoreHarts s.cur.die v with
    | [] => s
    | h :: _ =>
      match s.die.saved.findIdx? fun w => decide (w.ctx.id = v.ctx.id) with
      | some k => s.at h fun s => s.plotterRestore k
      | none => s

/-- The first record that may be promoted moves (R262) (DESIGN CHOICE, log entry 116). -/
def State.promoteNext (s : State) : State :=
  match ((List.range 7).flatMap fun p => (List.range (s.die.queue p).length).map fun k => (p, k)).find? fun q =>
      ((s.die.queue q.1)[q.2]?).any s.die.mayPromote with
  | some q => s.promote q.1 q.2
  | none => s

/-- What happens at the focused die without waiting for a cycle: its ring, promotions, restores, lends, sounding
(DESIGN CHOICE, log entry 85). -/
def State.dieEvent (s : State) : Option State :=
  let queued := !s.die.queues.isEmpty
  firstOf [
    fun _ => s.attempt (!s.die.ring.isEmpty) State.spillBack,
    fun _ => s.attempt queued State.promoteNext,
    fun _ => s.attempt (!s.die.saved.isEmpty) State.restoreNext,
    fun _ =>
      match (List.range 4).find? fun d => decide ((s.getDie d).stealing.map Prod.fst = some s.cur.die) with
      | some d => s.attempt true (State.lend · d)
      | none => none,
    fun _ => s.attempt (!s.pkg.lends.isEmpty) State.stealEnter,
    fun _ => s.attempt (!s.pkg.lends.isEmpty) State.stealAck,
    fun _ => s.attempt (!s.pkg.lends.isEmpty) State.lendBack,
    fun _ => s.attempt (decide (s.die.sndInterval ≠ 0)) State.startSounding,
    fun _ => s.attempt s.die.draining.isSome (State.scan · [] []),
    fun _ => s.attempt s.die.draining.isSome State.drainExpire ]

/-- The next event of the package: collectives that a trap ends, acknowledgements, nodes of replays, reports. -/
def State.pkgEvent (s : State) : Option State :=
  let scopes := s.pkg.scopes.map fun c => fun (_ : Unit) => s.attempt true (State.acknowledge · c.handle)
  let nodes := s.pkg.replays.flatMap fun r => (List.range r.recs.length).map fun k =>
    fun (_ : Unit) => s.attempt true fun s => s.nodeSpawn r.graph k
  let starts := (List.range s.pkg.vexud.starts.length).map fun k => fun (_ : Unit) => s.attempt true (State.reportStart · k)
  firstOf ((fun _ => s.attempt (!s.pkg.colls.isEmpty) State.collsLeft) :: scopes ++ nodes ++ starts)

/-- The same at a place, seen from where the focus stands. -/
def State.eventAt (s : State) (f : State → Option State) (h : HartId) : Option State :=
  (f (s.focus h)).map fun t => t.focus s.cur

def firstAt (s : State) (f : State → Option State) : List HartId → Option State
  | [] => none
  | h :: hs =>
    match s.eventAt f h with
    | some t => some t
    | none => firstAt s f hs

/-- The place of a hart in the order of a cycle: in a core the lower HID goes first, among the cores of a quad the lower core
(R16, R210, R230). -/
def HartId.place (h : HartId) : Nat := ((h.die * 64 + h.quad) * 8 + h.core) * 8 + h.hid

/-- Put a hart into a list that rises by place. -/
def insertPlace (h : HartId) : List HartId → List HartId
  | [] => [h]
  | g :: gs => if h.place ≤ g.place then h :: g :: gs else g :: insertPlace h gs

/-- The harts in the order of their places. -/
def State.hartIds (s : State) : List HartId := (s.allHarts.map (·.1)).foldr insertPlace []

/-- The next event anywhere. -/
def State.nextEvent (s : State) : Option State :=
  firstOf [
    fun _ => firstAt s State.hartEvent s.hartIds, fun _ => firstAt s State.coreEvent s.coreIds,
    fun _ => firstAt s State.dieEvent (s.dieIds.map fun d => if d = s.cur.die then s.cur else ⟨d, 0, 0, 0⟩),
    fun _ => s.pkgEvent ]

/-! ### Whose front issues -/

/-- A hart whose front may act. -/
def Hart.runs (h : Hart) : Bool := !h.idle && !h.stopped

/-- The harts in the order of their turns. -/
def State.order (s : State) : List HartId :=
  let ids := s.harts.map (·.1)
  if ids.contains s.cur then ids else ids ++ [s.cur]

/-- A member hart of a cancelled scope, at its kill point. -/
def State.nextKill (s : State) : Option HartId := s.order.find? fun h => (s.getHart h).runs && (s.focus h).killDue

/-- A hart that runs and is due in the present cycle of its die. -/
def State.frontDue (s : State) (h : HartId) : Bool :=
  (s.getHart h).runs && decide ((s.getHart h).clock ≤ (s.getDie h.die).cycles)

/-- The first hart by place that is due (DEDUCED, log entry 92). -/
def State.nextFront (s : State) : Option HartId :=
  (s.order.filter fun h => s.frontDue h).foldl (fun b h =>
    match b with
    | none => some h
    | some g => if h.place < g.place then some h else some g) none

/-- A cycle of the part: every busy unit takes one step, and so does each Plotter (DEDUCED, log entry 92). -/
def State.cycle (s : State) : State :=
  let s := s.hartIds.foldl (fun s h => s.at h State.hartCycle) s
  let s := s.coreIds.foldl (fun s h => s.at h State.coreCycle) s
  let s := s.quadIds.foldl (fun s h => s.at h State.quadCycle) s
  s.dieIds.foldl (fun s d => s.at (if d = s.cur.die then s.cur else ⟨d, 0, 0, 0⟩) State.plotterCycle) s

end Sys2Proof.Machine
end

