-- ==== Sys2Proof/Machine/Front.lean ====
section
/-! DEFINITION. A slot of a hart's front: what goes before the issuing word (R290), its fetch, and its issue; and one action
of the machine. -/
namespace Sys2Proof.Machine

/-- The back end holds the front: a vector control transfer or a fault-only-first read is not over (R110, R184), or the array
of a helm core is full (R253) (DEDUCED, log entry 22). -/
def State.frontHeld (s : State) : Bool :=
  (!s.hart.queueFrozen && ((s.hart.vq.any fun x => x.op.isVct || x.op.isFf) ||
    s.core.pipe.any fun u => decide (u.hid = s.cur.hid) && u.ent.op.isFf)) ||
    (s.hart.hst.helm && decide (arrayEntries ≤ s.quad.mops.length))

/-- The trap of a word that cannot be fetched (R79, R285, R294); at the trap vector the hart stops, and Vexud receives the
record (R288) (DEDUCED, log entry 74). -/
def State.fetchFails (s : State) (aux : Nat) : State :=
  let s := s.fetchNote s.hart.pc
  if s.hart.atVector then
    (s.mapHart fun h => { h with stopped := true }).report (.trapRecord s.hart.trpc s.hart.trcause)
  else trapAt { TrapRec.atIssue .fetch aux s.hart.pc with src := s.hart.lastTransfer.getD s.hart.pc } s

/-- What goes before the issuing word in a slot of the focused hart: nothing where the word is fetched now
(DEDUCED, log entry 10). -/
def State.beforeIssue (s : State) : Option State :=
  if !s.hart.runs then some s
  else if s.hart.frozen ≠ 0 then some (s.mapHart fun h => { h with frozen := h.frozen - 1, held := true, clock := h.clock + 1 })
  else if s.killDue then some s.killPoint
  else if s.faultDue.isSome then some s.deliverFault
  else if s.hart.hold ≠ .none then some s.holdSlot
  else if s.frontHeld then some s.hold
  else
    match s.defaultHandler with
    | some t => some t
    | none => if s.hart.lines.contains (s.hart.pc.toNat / 64) then none else some s.hold

/-- A user word stands at the watch address (R306). -/
def State.watched (s : State) : Bool := !s.hart.hst.mode && decide (s.hart.watch ≠ 0 ∧ s.hart.pc = s.hart.watch)

/-- The word at the PC is fetched, checked and issued. -/
noncomputable def State.issueWord (s : State) : Out :=
  match s.fetchWord s.hart.pc with
  | .error aux => .next (s.fetchFails aux)
  | .ok w =>
    if s.watched then .next (s.trapHere .watch)
    else
      match decode w with
      | none => .next (s.trapHere .illegal)
      | some i => exec i s

/-- A slot of the focused hart's front. -/
noncomputable def State.front (s : State) : Out :=
  match s.beforeIssue with
  | some t => .next t
  | none => s.issueWord

/-- What comes next of itself: a kill point, else an event that waits for no time, else a slot of a front that is due, else
a cycle passes. -/
noncomputable def State.unprompted (s : State) : Out :=
  match s.nextKill with
  | some h => State.front (s.focus h)
  | none =>
    match s.nextEvent with
    | some t => .next t
    | none =>
      match s.nextFront with
      | some h => State.front (s.focus h)
      | none => .next s.cycle

/-- A slot in which what the word issued last asks for has not answered (R355): the front holds. -/
def State.stillAsked (s : State) : State :=
  if s.hart.runs && s.hart.asked && !s.killDue && s.faultDue.isNone && decide (s.hart.frozen = 0) then s.hold else s

/-- One action: what the agenda says, else what comes next of itself. -/
noncomputable def State.act (s : State) : Out :=
  match s.agenda with
  | .front h :: rest => State.front ({ s with agenda := rest }.focus h)
  | .held h :: rest => .next (State.stillAsked ({ s with agenda := rest }.focus h))
  | .event h e :: rest =>
    if e.isEvent then exec e ({ s with agenda := rest }.focus h) else .next { s with agenda := rest }
  | [] => s.unprompted

/-! ### A word at the front (`withFetchWord`) -/

/-- The classes that only a helm core runs. -/
noncomputable def wordIsMatrix (w : Nat) : Bool := (decode (BitVec.ofNat 32 w)).any fun i =>
  match i with
  | .mcfg _ _ _ => true
  | .msetl _ _ _ => true
  | .men _ _ => true
  | .mdis _ _ => true
  | .mma _ _ _ _ => true
  | .mmaz _ _ _ _ => true
  | .mzero _ _ => true
  | _ => false

/-- Where the word stands: its DVA and its place in Hold. -/
def firstWordAt : Word := 0x1000000000
def firstWordPa : Nat := 0x10000000000

/-- A user context that declares every class. -/
def firstCtx : Ctx :=
  { id := 1, use := 0xFFFFFF, scope := 0, iter := 0, tctx := 0, root := 0, cwLen := 0, cwBase := 0, graph := none, block := (0, 0), age := 0
    faults := [], lostFaults := 0, lost := false }

/-- A loaded task on hart 0 of a core of quad 0, its first word in place and its line fetched; its front acts next. -/
def State.withWord (s : State) (core w : Nat) : State :=
  let s := { s.focus ⟨0, 0, core, 0⟩ with agenda := [.front ⟨0, 0, core, 0⟩] }
  let r : Range := ⟨firstWordAt, firstWordAt + 4096, 0xF000000000, 0xFF0000000000001F⟩
  ((s.mapHart fun h =>
      { h with pc := firstWordAt, ctx := some firstCtx, hst := { h.hst with mode := false }, lines := [firstWordAt.toNat / 64]
               stopped := false, held := false, frozen := 0, hold := .none, atVector := false, asked := false }).mapDie fun d =>
      { d with ranges := assocSet d.ranges 0 r }).mapMem fun m => m.writeLE firstWordPa 4 w

end Sys2Proof.Machine
end

