-- ==== Sys2Proof/Machine/Step.lean ====
section
/-! DEFINITION. One step of the machine, and the state in which a given word is the next one fetched. -/
namespace Sys2Proof.Machine

/-- One step: nothing once Vexud has stopped the dies, else one action. -/
noncomputable def step (s : State) : Host.Outcome State Fault Refusal :=
  if s.pkg.vexud.stopped then .fault .diesStopped else s.act

/-- The state in which the next step fetches and runs the word of a table row (DESIGN CHOICE, log entry 4). -/
noncomputable def State.withFetchWord (s : State) (nbits w : Nat) : State :=
  let word := w % 2 ^ nbits % 2 ^ 32
  s.withWord (if wordIsMatrix word then 4 else 0) word

end Sys2Proof.Machine
end

