-- ==== Sys2Proof/Safety.lean ====
section
/-! DEFINITION. What claims call a safe run, and the terms they are stated in. -/
namespace Sys2Proof.Machine

/-- A run of the machine that neither faults nor is refused within n steps. -/
def State.SafeFor (s : State) (n : Nat) : Prop := ∃ t, Sys2Proof.core.run n s = .next t

end Sys2Proof.Machine

namespace Sys2Proof.Claims
open Sys2Proof.Machine

/-! ### When a word has its own effect -/

/-- No result is to come for these registers: no fixed latency is uncovered, no posting operation incomplete (R27). -/
def Free (s : State) (rs : List SReg) : Prop := ∀ r ∈ rs, s.hart.pendingReg r = false

/-- The checks 5 to 7 of R42 and the race check let a word of a class without restriction issue: its capability bit is
declared, its registers are free. -/
structure Issues (s : State) (bit : Nat) (rs : List SReg) : Prop where
  declared : s.useMask.getLsbD bit = true
  free : Free s rs

/-- The same for a class that the helm core refuses. -/
structure IssuesVector (s : State) (bit : Nat) (rs : List SReg) : Prop where
  core : s.hart.hst.helm = false
  declared : s.useMask.getLsbD bit = true
  free : Free s rs

/-- The same for a privileged word, in supervisor mode. -/
structure IssuesPrivileged (s : State) (rs : List SReg) : Prop where
  mode : s.hart.hst.mode = true
  declared : s.useMask.getLsbD 0 = true
  free : Free s rs

/-- Nothing is in flight on the hart. -/
structure Quiet (s : State) : Prop where
  infl : s.hart.infl = []
  merges : s.hart.merges = []
  stores : s.hart.stores = []
  loads : s.hart.loads = []

/-! ### What a word leaves -/

/-- The state with the value v on its way to s[d], readable L slots after the present one (R19); s0 takes nothing (R3). -/
def withResult (s : State) (d : SReg) (v : Word) (L : Nat) : State :=
  if d = 0 then s
  else { s with hart := { s.hart with
    infl := s.hart.infl ++ [{ dest := .sreg (s.hart.hst.mode && decide (28 ≤ d.val)) d, val := v, ready := s.hart.slot + L
                              flags := 0 }] } }

/-- The state with flags on their way to XST (R89). -/
def withFlags (s : State) (f : FFlags) (L : Nat) : State :=
  if f = 0 then s
  else { s with hart := { s.hart with
    infl := s.hart.infl ++ [{ dest := .none, val := 0, ready := s.hart.slot + L, flags := f }] } }

/-- The state with a write of a control register on its way (R92). -/
def withCreg (s : State) (c : CReg) (v : Word) (L : Nat) : State :=
  { s with hart := { s.hart with
    infl := s.hart.infl ++ [{ dest := .creg c, val := v, ready := s.hart.slot + L, flags := 0 }] } }

/-! ### Posting operations and queue entries -/

/-- Another posting operation may issue on the hart (R18). -/
def MayPost (s : State) : Prop := s.hart.outstanding < 64

/-- The number the next operation of the hart takes. -/
def opId (s : State) : Nat := s.fresh + 64

/-- The hart with one more operation outstanding on a token of its mode's bank, the operation's scalar destination pending
(R22); s0 never is. -/
def posting (s : State) (tk : Option Tok) (d : Option SReg) : Hart :=
  let h := match tk with
    | none => s.hart
    | some t =>
      if s.hart.hst.mode then { s.hart with supTk := s.hart.supTk.set t { s.hart.supTk[t] with out := s.hart.supTk[t].out + 1 } }
      else { s.hart with tk := s.hart.tk.set t { s.hart.tk[t] with out := s.hart.tk[t].out + 1 } }
  match d with
  | none => h
  | some r => if r = 0 then h else { h with pendS := h.pendS ++ [(s.hart.hst.mode && decide (28 ≤ r.val), r, opId s)] }

/-- The state after the issue of a posting operation that is no queue entry. -/
def posted (s : State) (tk : Tok) (d : Option SReg) : State := { s with hart := posting s (some tk) d, fresh := s.fresh + 65 }

/-- The queue entry that an instruction makes, with what it captures at issue (R102). -/
def queued (s : State) (op : VOp) (sv : List Word) (tok : Option Tok) : VEntry :=
  { id := opId s, op := op, word := s.issuedWord, addr := s.hart.pc, vl := s.hart.vl, vcfg := s.hart.vcfg, cap := s.hart.vcap
    rm := s.hart.fcr, sv := sv, tok := tok, sup := s.hart.hst.mode, slot := s.hart.slot, dones := [], fm := s.hart.fm }

/-- The queue takes an entry: no handler holds it frozen (R289), it has room (R107), a posting entry finds a place among the
outstanding operations (R18), and the operands fit the configuration (R101, R119). -/
structure Enters (s : State) (op : VOp) (tok : Option Tok) : Prop where
  thawed : s.hart.queueFrozen = false
  room : s.hart.vq.length < 32
  post : tok.isSome = true → MayPost s
  operands : op.operandsOk s.hart.vcfg = true

/-- The state with the entry at the end of the queue; a beacon access takes its place in the order of its class too. -/
def entered (s : State) (op : VOp) (sv : List Word) (tok : Option Tok) (d : Option SReg) (bs : List BOp) : State :=
  { s with
    fresh := s.fresh + 65
    hart := { posting s tok d with vq := s.hart.vq ++ [queued s op sv tok], bops := s.hart.bops ++ bs } }

/-! ### Values -/

/-- A bit of a word that stands for a truth value. -/
def truth (p : Prop) [Decidable p] : Word := if p then 1 else 0

/-- n bytes of a memory from address a on, the lowest in the low bits (R4). -/
def leWord (m : Mem) (a : Nat) : Nat → Word
  | 0 => 0
  | n + 1 => leWord m (a + 1) n <<< 8 ||| (m.read a).setWidth 64

end Sys2Proof.Claims
end

