-- ==== Sys2Proof/Certificates/Slice0/Obligations.lean ====
section
/-! DEFINITION. The statements about the model, one `Obligations.<Name>` each, and the terms they alone use. -/
open Sys2Proof Sys2Proof.Machine Sys2Proof.Claims

/-! ### Scalar arithmetic -/

/-- 04_scalar_instructions.md, R71 to R73: the SOP results at every operand size, sign-extended to s[D]; the multiplies are
readable three slots on, the others in the next. -/
def Obligations.IntegerRegisterResults : Prop :=
  ∀ (z : Size) (d a b : SReg) (amt : Fin 64) (s : State),
    let w := z.bits
    let x : BitVec w := (s.hart.reg a).setWidth w
    let y : BitVec w := (s.hart.reg b).setWidth w
    let k := y.toNat % w
    let out (i : Instr) (v : BitVec w) (L : Nat) : Prop :=
      exec i s = .next (withResult s d (v.signExtend 64) L).advance
    (Issues s 0 [a, b, d] →
      out (.add z d a b) (x + y) 1 ∧ out (.sub z d a b) (x - y) 1 ∧ out (.and z d a b) (x &&& y) 1 ∧
      out (.or z d a b) (x ||| y) 1 ∧ out (.xor z d a b) (x ^^^ y) 1 ∧ out (.andn z d a b) (x &&& ~~~y) 1 ∧
      out (.sll z d a b) (x <<< k) 1 ∧ out (.srl z d a b) (x >>> k) 1 ∧ out (.sra z d a b) (x.sshiftRight k) 1 ∧
      out (.ror z d a b) (x.rotateRight k) 1 ∧
      out (.slt z d a b) (if x.toInt < y.toInt then 1 else 0) 1 ∧ out (.sltu z d a b) (if x.toNat < y.toNat then 1 else 0) 1 ∧
      out (.seq z d a b) (if x = y then 1 else 0) 1 ∧
      out (.min z d a b) (if x.toInt ≤ y.toInt then x else y) 1 ∧ out (.max z d a b) (if x.toInt ≤ y.toInt then y else x) 1 ∧
      out (.minu z d a b) (if x.toNat ≤ y.toNat then x else y) 1 ∧ out (.maxu z d a b) (if x.toNat ≤ y.toNat then y else x) 1 ∧
      out (.sel z d a b) (if s.hart.reg d ≠ 0 then x else y) 1) ∧
    (Issues s 1 [a, b, d] →
      out (.mul z d a b) (x * y) 3 ∧
      out (.mulh z d a b) (BitVec.ofInt w (x.toInt * y.toInt / 2 ^ w)) 3 ∧
      out (.mulhu z d a b) (BitVec.ofNat w (x.toNat * y.toNat / 2 ^ w)) 3 ∧
      out (.mulhsu z d a b) (BitVec.ofInt w (x.toInt * (y.toNat : Int) / 2 ^ w)) 3) ∧
    (Issues s 0 [a, d] → amt.val < w →
      out (.slli z d a amt) (x <<< amt.val) 1 ∧ out (.srli z d a amt) (x >>> amt.val) 1 ∧
      out (.srai z d a amt) (x.sshiftRight amt.val) 1 ∧ out (.rori z d a amt) (x.rotateRight amt.val) 1)

/-- R74: the immediate functions act on all 64 bits with imm14 sign-extended. -/
def Obligations.ImmediateResults : Prop :=
  ∀ (d a : SReg) (imm : BitVec 14) (s : State), Issues s 0 [a, d] →
    let x := s.hart.reg a
    let y := imm.signExtend 64
    exec (.addi d a imm) s = .next (withResult s d (x + y) 1).advance ∧
    exec (.andi d a imm) s = .next (withResult s d (x &&& y) 1).advance ∧
    exec (.ori d a imm) s = .next (withResult s d (x ||| y) 1).advance ∧
    exec (.xori d a imm) s = .next (withResult s d (x ^^^ y) 1).advance

/-- R76: the conditions of the branches, where they go, and the two reserved conditions. R77: `j` and `call`; and R75, R78:
`lhi`, `adpc`, `jr`. A `jr` to an address that is not a multiple of 4 traps FETCH at itself and keeps no link. -/
def Obligations.BranchesAndJumps : Prop :=
  ((∀ (a b : SReg) (off : BitVec 13) (s : State), Issues s 0 [a, b] →
    let x := s.hart.reg a
    let y := s.hart.reg b
    let dest := s.hart.pc + off.signExtend 64 * 4
    let out (i : Instr) (taken : Bool) : Prop := exec i s = .next (if taken then s.jump dest else s.advance)
    out (.beq a b off) (decide (x = y)) ∧ out (.bne a b off) (decide (x ≠ y)) ∧
    out (.blt a b off) (x.slt y) ∧ out (.bge a b off) (!x.slt y) ∧
    out (.bltu a b off) (x.ult y) ∧ out (.bgeu a b off) (!x.ult y)) ∧
  (∀ s : State, s.advance.hart.pc = s.hart.pc + 4) ∧ (∀ (s : State) (t : Word), (s.jump t).hart.pc = t) ∧
  ∀ w : BitVec 32, w.extractLsb' 26 6 = 4 → 6 ≤ (w.extractLsb' 23 3).toNat → decode w = none) ∧
  (∀ (off : BitVec 25) (s : State), Issues s 0 [] →
    exec (.j off) s = .next (s.jump (s.hart.pc + off.signExtend 64 * 4))) ∧
  (∀ (off : BitVec 25) (s : State), Issues s 0 [31] →
    exec (.call off) s =
      .next ((withResult s 31 (s.hart.pc + 4) 1).jump (s.hart.pc + off.signExtend 64 * 4))) ∧
  (∀ (d a : SReg) (s : State), Issues s 0 [a, d] →
    let dest := s.hart.reg a
    exec (.jr d a) s = .next (if dest.toNat % 4 = 0 then (withResult s d (s.hart.pc + 4) 1).jump dest else s.trapHere .fetch 3)) ∧
  ∀ (d : SReg) (imm : BitVec 19) (s : State), Issues s 0 [d] →
    exec (.lhi d imm) s = .next (withResult s d (imm.signExtend 64 <<< 14) 1).advance ∧
    exec (.adpc d imm) s = .next (withResult s d (s.hart.pc + (imm.signExtend 64 <<< 14)) 1).advance

/-- 01_sequential_machine.md, R19: a result is readable L slots after its issue, and until then its register reads the old value
and is pending. A result to the same place under another name is none of the instruction set's; a register that a Chart load has still
to write is pending too. -/
def Obligations.ResultReadableAfterItsLatency : Prop :=
  ∀ (s : State) (d : SReg) (v : Word) (L : Nat), d ≠ 0 → 1 ≤ L → s.hart.pendingReg d = false →
    (∀ x ∈ s.hart.infl, ∀ q, x.dest = .sreg true q → q.val % 4 = d.val % 4 → q = d) →
    (∀ l ∈ s.hart.loads, (l.sup, l.d) ≠ (s.hart.hst.mode && decide (28 ≤ d.val), d)) →
    (∀ k < L, (ticks k (withResult s d v L)).hart.reg d = s.hart.reg d ∧
      (ticks k (withResult s d v L)).hart.pendingReg d = true) ∧
    (ticks L (withResult s d v L)).hart.reg d = v ∧ (ticks L (withResult s d v L)).hart.pendingReg d = false

/-- 02 and 04: what a scalar word of the classes SOP, SIM, SUI, SBR, SJ, SJR, SFP and `tkr` can write. -/
def Sys2Proof.Claims.scalarDest : Instr → Option (List SReg)
  | .add _ d _ _ => some [d] | .sub _ d _ _ => some [d] | .and _ d _ _ => some [d] | .or _ d _ _ => some [d]
  | .xor _ d _ _ => some [d] | .andn _ d _ _ => some [d] | .slli _ d _ _ => some [d] | .srli _ d _ _ => some [d]
  | .srai _ d _ _ => some [d] | .rori _ d _ _ => some [d] | .sll _ d _ _ => some [d] | .srl _ d _ _ => some [d]
  | .sra _ d _ _ => some [d] | .ror _ d _ _ => some [d] | .slt _ d _ _ => some [d] | .sltu _ d _ _ => some [d]
  | .seq _ d _ _ => some [d] | .min _ d _ _ => some [d] | .max _ d _ _ => some [d] | .minu _ d _ _ => some [d]
  | .maxu _ d _ _ => some [d] | .sel _ d _ _ => some [d] | .mul _ d _ _ => some [d] | .mulh _ d _ _ => some [d]
  | .mulhu _ d _ _ => some [d] | .mulhsu _ d _ _ => some [d] | .addi d _ _ => some [d] | .andi d _ _ => some [d]
  | .ori d _ _ => some [d] | .xori d _ _ => some [d] | .lhi d _ => some [d] | .adpc d _ => some [d]
  | .beq _ _ _ => some [] | .bne _ _ _ => some [] | .blt _ _ _ => some [] | .bge _ _ _ => some [] | .bltu _ _ _ => some []
  | .bgeu _ _ _ => some [] | .j _ => some [] | .call _ => some [31]
  | .fadd d _ _ => some [d] | .fsub d _ _ => some [d] | .fmul d _ _ => some [d] | .fmadd d _ _ => some [d]
  | .fmsub d _ _ => some [d] | .fnmsub d _ _ => some [d] | .feq d _ _ => some [d] | .flt d _ _ => some [d]
  | .fle d _ _ => some [d] | .fmin d _ _ => some [d] | .fmax d _ _ => some [d] | .fsgnj d _ _ => some [d]
  | .fsgnjn d _ _ => some [d] | .fsgnjx d _ _ => some [d] | .fclass d _ => some [d] | .cvtfs d _ => some [d]
  | .cvtfu d _ => some [d] | .cvtfsz d _ => some [d] | .cvtfuz d _ => some [d] | .cvtsf d _ => some [d]
  | .cvtuf d _ => some [d] | .cvtfh d _ => some [d] | .cvthf d _ => some [d] | .tkr d _ => some [d]
  | _ => none

/-- What these words leave alone, when they neither trap nor wait: every register but their destination and those that
earlier results reach; memory, tiles, the vector registers, the special registers; the Chart too, where no earlier store of the
hart has still to perform; and with nothing in flight every field but the PC, the time and the result on its way. -/
def Obligations.ScalarWordsLeaveTheRest : Prop :=
  ∀ (i : Instr) (ds : List SReg) (s t : State), scalarDest i = some ds → exec i s = .next t → t.hart.held = false →
    t.hart.atVector = false →
    (∀ r, r ∉ ds → s.hart.pendingReg r = false →
      (∀ x ∈ s.hart.infl, ∀ q, x.dest = .sreg true q → q.val % 4 = r.val % 4 → q = r) → t.hart.reg r = s.hart.reg r) ∧
    (∀ a, t.pkg.mem.read a = s.pkg.mem.read a ∧ t.quad.plane.read a = s.quad.plane.read a ∧
      t.quad.tiles.read a = s.quad.tiles.read a) ∧
    (s.hart.stores = [] → t.core = s.core ∧ ∀ a, t.core.chart.read a = s.core.chart.read a) ∧
    t.core = { s.core with chart := t.core.chart, chartPoison := t.core.chartPoison } ∧
    t.pkg = s.pkg ∧ t.die = s.die ∧ t.harts = s.harts ∧ t.cores = s.cores ∧ t.quads = s.quads ∧
    t.dies = s.dies ∧ t.hart.v = s.hart.v ∧ t.hart.m = s.hart.m ∧ t.hart.hst.mode = s.hart.hst.mode ∧
    (Quiet s → t = { s with
      fresh := t.fresh
      hart := { s.hart with
        pc := t.hart.pc, s := t.hart.s, supS := t.hart.supS, infl := t.hart.infl, pendS := t.hart.pendS
        slot := t.hart.slot, clock := t.hart.clock, held := false, atVector := false, asked := false
        lastTransfer := t.hart.lastTransfer } })

/-! ### The Chart, the divider, floating point, control registers, tokens -/

/-- The state with the bank of a Chart address reached by the focused hart in the present cycle (R13, R16). -/
def Sys2Proof.Claims.inBank (s : State) (a : Nat) : State :=
  { s with core := { s.core with
      banks := (s.cur.hid, s.hart.clock, a / 8 % 32) :: s.core.banks.filter fun x => decide (x.1 ≠ s.cur.hid) } }

/-- A byte of the Chart when some stores have performed in their order: what the youngest that reaches it writes, else the Chart's own
(R15). -/
def Sys2Proof.Claims.byteAfter (s : State) (xs : List ChartStore) (a : Nat) : Byte :=
  match xs.reverse.find? (fun x => decide (x.addr ≤ a ∧ a < x.addr + x.size)) with
  | some x => BitVec.ofNat 8 (x.val / 256 ^ (a - x.addr))
  | none => s.core.chart.read a

/-- n such bytes, the lowest in the low bits. -/
def Sys2Proof.Claims.wordAfter (s : State) (xs : List ChartStore) (a : Nat) : Nat → Word
  | 0 => 0
  | n + 1 => wordAfter s xs (a + 1) n <<< 8 ||| (byteAfter s xs a).setWidth 64

/-- What a Chart load delivers when it performs: its bytes after the hart's stores before it, extended as the load says (R15, R80). -/
def Sys2Proof.Claims.loaded (s : State) (l : ChartLoad) : Word :=
  let v := wordAfter s (s.hart.stores.takeWhile fun x => decide (x.id < l.id)) l.addr l.size
  if l.signed then (v.setWidth (8 * l.size)).signExtend 64 else v

/-- The state in which a Chart load has issued: its result is on its way, its value to be formed when the load performs. -/
def Sys2Proof.Claims.loading (s : State) (d : SReg) (a n : Nat) (signed : Bool) : State :=
  let t := withResult s d 0 4
  { t with
    fresh := s.fresh + 65
    hart := { t.hart with
      loads := s.hart.loads ++ if d = 0 then ([] : List ChartLoad) else
        [⟨s.fresh + 64, a, n, signed, s.hart.hst.mode && decide (28 ≤ d.val), d, s.hart.slot + 4⟩] } }

/-- A byte, and n bytes, of the Chart when all stores of the focused hart that have issued have performed (R15, R146). -/
def Sys2Proof.Claims.ownByte (s : State) (a : Nat) : Byte := byteAfter s s.hart.stores a
def Sys2Proof.Claims.ownWord (s : State) (a n : Nat) : Word := wordAfter s s.hart.stores a n

/-- A word of the Chart is poisoned for the focused hart: marked, and no store that has still to perform writes it whole (R310). -/
def Sys2Proof.Claims.ownPoison (s : State) (w : Nat) : Prop :=
  w ∈ s.core.chartPoison ∧ ∀ x ∈ s.hart.stores, ¬(x.addr ≤ 8 * w ∧ 8 * w + 8 ≤ x.addr + x.size)

/-- R80, R81, with R13, R14 and R243 for the size: a Chart access by the scalar front end. One whose bank a hart of lower HID
reaches in the same cycle freezes for a cycle (R16). A load or store joins those that have still to perform, a load with its
result on its way for the fourth slot (R198; log entries 24 and 97); with nothing else in flight its register reads the Chart's
bytes then. R15, R198, R310: the scalar Chart accesses perform in program order: those due with a slot that passes, the oldest
with a write-back (log entry 97). A store writes its bytes, leaves every other byte, and clears the poison of the words it
writes whole; a load forms its result from the bytes that the stores before it leave, and that result is readable in its fourth
slot. -/
def Obligations.ScalarChartAccess : Prop :=
  (∀ (z : Size) (d a : SReg) (off : BitVec 12) (s : State), Issues s 0 [a, d] →
    let ea : Int := ((s.hart.reg a).toNat : Int) + off.toInt
    let n := z.bytes
    let size : Int := if s.hart.hst.helm then 0x10000 else 0x60000
    if ea < 0 ∨ ea % n ≠ 0 ∨ size < ea + n then
      exec (.ldc z d a off) s = .next (s.trapHere .chart) ∧ exec (.ldcs z d a off) s = .next (s.trapHere .chart) ∧
      exec (.stc z d a off) s = .next (s.trapHere .chart)
    else
      let at0 := ea.toNat
      let u := inBank s at0
      if ∃ x ∈ s.core.banks, x.1 < s.cur.hid ∧ x.2.1 = s.hart.clock ∧ x.2.2 = at0 / 8 % 32 then
        let t := { s with hart := { s.hart with held := true, clock := s.hart.clock + 1 } }
        exec (.ldc z d a off) s = .next t ∧ exec (.ldcs z d a off) s = .next t ∧ exec (.stc z d a off) s = .next t
      else
        ((∀ w, ownPoison s w → at0 + n ≤ 8 * w ∨ 8 * w + 8 ≤ at0) →
          exec (.ldc z d a off) s = .next (loading u d at0 n false).advance ∧
          exec (.ldcs z d a off) s = .next (loading u d at0 n true).advance ∧
          (Quiet s → s.core.chart.wf = true → d ≠ 0 →
            let v := wordAfter s [] at0 n
            (ticks 3 (loading u d at0 n false).advance).hart.reg d = v ∧
            (ticks 3 (loading u d at0 n true).advance).hart.reg d = (v.setWidth (8 * n)).signExtend 64)) ∧
        ((∃ w, ownPoison s w ∧ 8 * w < at0 + n ∧ at0 < 8 * w + 8) →
          exec (.ldc z d a off) s = .next ((s.countPsn s.cur).trapHere .poison) ∧
          exec (.ldcs z d a off) s = .next ((s.countPsn s.cur).trapHere .poison)) ∧
        exec (.stc z d a off) s = .next ({ u with
          fresh := s.fresh + 65
          hart := { s.hart with
            stores := s.hart.stores ++ ([⟨s.fresh + 64, at0, n, (s.hart.reg d).toNat, s.hart.slot + 4⟩] : List ChartStore) } }.advance)) ∧
  (∀ (s : State) (x : ChartStore) (rest : List ChartStore), s.hart.stores = x :: rest → s.core.chart.wf = true →
    s.hart.infl = [] → s.hart.merges = [] →
    let wrote (t : State) : Prop := t.core.chart.wf = true ∧
      (∀ a, t.core.chart.read a =
        if x.addr ≤ a ∧ a < x.addr + x.size then BitVec.ofNat 8 (x.val / 256 ^ (a - x.addr)) else s.core.chart.read a) ∧
      (∀ w, w ∈ t.core.chartPoison ↔ w ∈ s.core.chartPoison ∧ ¬(x.addr ≤ 8 * w ∧ 8 * w + 8 ≤ x.addr + x.size)) ∧
      t.core = { s.core with chart := t.core.chart, chartPoison := t.core.chartPoison } ∧ t.pkg = s.pkg ∧ t.quad = s.quad
    (s.hart.late = [] → (∀ l, s.hart.loads.head? = some l → x.id ≤ l.id) →
      ∃ t, exec .fixedLatencyWriteback s = .next t ∧ wrote t ∧ t.hart = { s.hart with stores := rest }) ∧
    (s.hart.loads = [] →
      (x.due ≤ s.hart.slot + 1 → (∀ y ∈ rest, s.hart.slot + 1 < y.due) → wrote (tick s) ∧ (tick s).hart.stores = rest) ∧
      (s.hart.slot + 1 < x.due → (tick s).core = s.core ∧ (tick s).hart.stores = s.hart.stores))) ∧
  ∀ (s : State) (l : ChartLoad) (rest : List ChartLoad), s.hart.loads = l :: rest → (∀ y ∈ rest, y.id ≠ l.id) →
    1 ≤ l.size → l.size ≤ 8 → s.core.chart.wf = true →
    (s.hart.late = [] → s.hart.merges = [] → (∀ x ∈ s.hart.infl, s.hart.slot < x.ready) →
      (∀ x, s.hart.stores.head? = some x → l.id < x.id) →
      exec .fixedLatencyWriteback s = .next { s with hart := { s.hart with
        loads := rest
        infl := s.hart.infl.map fun x => if x.dest = .sreg l.sup l.d ∧ x.ready = l.due then { x with val := loaded s l } else x } }) ∧
    (l.due ≤ s.hart.slot + 1 → (∀ y ∈ rest, s.hart.slot + 1 < y.due) → l.d ≠ 0 →
      (∃ x ∈ s.hart.infl, x.dest = .sreg l.sup l.d ∧ x.ready = l.due) →
      (∀ x ∈ s.hart.infl, ∀ q, x.dest = .sreg l.sup q → (q = l.d ∧ x.ready = l.due) ∨ s.hart.slot + 1 < x.ready) →
      (tick s).hart.regIn l.sup l.d = loaded s l ∧ (tick s).hart.loads = rest)

/-- The state with a division in the core's divider (R83). -/
def Sys2Proof.Claims.inDivider (s : State) (tk : Tok) (d : SReg) (v : Word) (f : FFlags) : State :=
  let t := posted s tk (some d)
  { t with core := { t.core with
    divider := t.core.divider ++ [{ hid := s.cur.hid, sup := s.hart.hst.mode, tok := tk, d := d, id := opId s, val := v, flags := f }] } }

/-- R82, R83: what the divider is given, with the fixed results for a zero divisor and for overflow; integer results are
sign-extended from their width. R22, R83: the divider's oldest operation completes: its destination, its flags, then the
increment, at the hart that issued it; no other hart, and no memory, changes. -/
def Obligations.Divisions : Prop :=
  (∀ (d a b : SReg) (tk : Tok) (s : State), Free s [a, b, d] → MayPost s →
    let x := s.hart.reg a
    let y := s.hart.reg b
    let x32 : BitVec 32 := x.setWidth 32
    let y32 : BitVec 32 := y.setWidth 32
    let out (i : Instr) (v : Word) : Prop := exec i s = .next (inDivider s tk d v 0).advance
    (s.useMask.getLsbD 1 = true →
      out (.div d a b tk) (if y = 0 then BitVec.allOnes 64 else x.sdiv y) ∧
      out (.divu d a b tk) (if y = 0 then BitVec.allOnes 64 else BitVec.ofNat 64 (x.toNat / y.toNat)) ∧
      out (.rem d a b tk) (if y = 0 then x else x.srem y) ∧
      out (.remu d a b tk) (if y = 0 then x else BitVec.ofNat 64 (x.toNat % y.toNat)) ∧
      out (.divw d a b tk) ((if y32 = 0 then BitVec.allOnes 32 else x32.sdiv y32).signExtend 64) ∧
      out (.divuw d a b tk) ((if y32 = 0 then BitVec.allOnes 32 else BitVec.ofNat 32 (x32.toNat / y32.toNat)).signExtend 64) ∧
      out (.remw d a b tk) ((if y32 = 0 then x32 else x32.srem y32).signExtend 64) ∧
      out (.remuw d a b tk) ((if y32 = 0 then x32 else BitVec.ofNat 32 (x32.toNat % y32.toNat)).signExtend 64) ∧
      out (.isqrt d a tk) (BitVec.ofNat 64 x.toNat.sqrt)) ∧
    (s.useMask.getLsbD 2 = true →
      exec (.fsqrt d a tk) s =
        .next (inDivider s tk d (BitVec.ofNat 64 (fSqrt s.hart.fcr x32.toNat).1) (fSqrt s.hart.fcr x32.toNat).2).advance)) ∧
  ∀ (s : State) (o : DivOp) (rest : List DivOp), s.core.divider = o :: rest →
    let h : HartId := { s.cur with hid := o.hid }
    ∃ t, exec .dividerCompletion s = .next t ∧ t.core = { s.core with divider := rest } ∧ t.pkg = s.pkg ∧
      (t.getHart h).xst = (s.getHart h).xst ||| o.flags ∧
      (t.getHart h).token o.sup o.tok = ⟨((s.getHart h).token o.sup o.tok).cnt + 1, ((s.getHart h).token o.sup o.tok).out - 1⟩ ∧
      (∀ sup d, (s.getHart h).pendS.find? (fun p => decide (p.2.2 = o.id)) = some (sup, d, o.id) → d ≠ 0 →
        (t.getHart h).regIn sup d = o.val) ∧
      (∀ p ∈ (t.getHart h).pendS, p.2.2 ≠ o.id) ∧
      ∀ k, k ≠ h → t.getHart k = s.getHart k

/-- 04_scalar_instructions.md, R84 to R89: the SFP words. The arithmetic, compares and conversions are the functions of
03_number_formats.md; sources are FP32 in the low bits, results zero-extended. -/
def Obligations.ScalarFpResults : Prop :=
  ∀ (d a b : SReg) (s : State), Issues s 2 [a, b, d] →
    let rm := s.hart.fcr
    let x := (s.hart.reg a).toNat % 2 ^ 32
    let y := (s.hart.reg b).toNat % 2 ^ 32
    let z := (s.hart.reg d).toNat % 2 ^ 32
    let neg (n : Nat) : Nat := n ^^^ 2 ^ 31
    let sign (n : Nat) : Nat := n / 2 ^ 31
    let mag (n : Nat) : Nat := n % 2 ^ 31
    let out (i : Instr) (L : Nat) (r : Nat × FFlags) : Prop :=
      exec i s = .next (withFlags (withResult s d (BitVec.ofNat 64 r.1) L) r.2 L).advance
    out (.fadd d a b) 4 (fAdd .f32 rm x y) ∧ out (.fsub d a b) 4 (fAdd .f32 rm x (neg y)) ∧
    out (.fmul d a b) 4 (fMul .f32 rm x y) ∧ out (.fmadd d a b) 4 (fFma .f32 rm x y z [x, y, z]) ∧
    out (.fmsub d a b) 4 (fFma .f32 rm x y (neg z) [x, y, neg z]) ∧
    out (.fnmsub d a b) 4 (fFma .f32 rm (neg x) y z [neg x, y, z]) ∧
    out (.feq d a b) 2 (if fEq .f32 x y then 1 else 0, if isSNaN .f32 x ∨ isSNaN .f32 y then fNV else 0) ∧
    out (.flt d a b) 2 (if fLt .f32 x y then 1 else 0, if isNaN .f32 x ∨ isNaN .f32 y then fNV else 0) ∧
    out (.fle d a b) 2 (if fLe .f32 x y then 1 else 0, if isNaN .f32 x ∨ isNaN .f32 y then fNV else 0) ∧
    out (.fmin d a b) 2 (fMinMax .f32 false x y) ∧ out (.fmax d a b) 2 (fMinMax .f32 true x y) ∧
    out (.fsgnj d a b) 2 (sign y * 2 ^ 31 + mag x, 0) ∧ out (.fsgnjn d a b) 2 ((1 - sign y) * 2 ^ 31 + mag x, 0) ∧
    out (.fsgnjx d a b) 2 ((sign x + sign y) % 2 * 2 ^ 31 + mag x, 0) ∧
    out (.fclass d a) 2 (fClass .f32 x, 0) ∧
    out (.cvtfs d a) 3 (f32ToInt rm 64 true x) ∧ out (.cvtfu d a) 3 (f32ToInt rm 64 false x) ∧
    out (.cvtfsz d a) 3 (f32ToInt .rtz 64 true x) ∧ out (.cvtfuz d a) 3 (f32ToInt .rtz 64 false x) ∧
    out (.cvtsf d a) 3 (roundDyadic .f32 rm (s.hart.reg a).toInt 0 false) ∧
    out (.cvtuf d a) 3 (roundDyadic .f32 rm (s.hart.reg a).toNat 0 false) ∧
    out (.cvtfh d a) 3 (f32ToBf rm x) ∧ out (.cvthf d a) 3 ((s.hart.reg a).toNat % 2 ^ 16 * 2 ^ 16, 0)

/-- R60: the order of `min` and `max` in both formats, their NaNs and their one flag. -/
def Obligations.MinMaxZerosAndNaNs : Prop :=
  ∀ (f : FFmt) (x y : Nat), x < 2 ^ (9 + f.frac) → y < 2 ^ (9 + f.frac) →
    let place (n : Nat) : Int := if n < 2 ^ (8 + f.frac) then n else -(n - 2 ^ (8 + f.frac) : Nat) - 1
    (∀ wantMax, (fMinMax f wantMax x y).2 = if isSNaN f x ∨ isSNaN f y then fNV else 0) ∧
    (∀ wantMax, isNaN f x = true → isNaN f y = false → (fMinMax f wantMax x y).1 = y) ∧
    (∀ wantMax, isNaN f x = false → isNaN f y = true → (fMinMax f wantMax x y).1 = x) ∧
    (∀ wantMax, isNaN f x = true → isNaN f y = true → (fMinMax f wantMax x y).1 = quiet f x) ∧
    (isNaN f x = false → isNaN f y = false →
      (fMinMax f false x y).1 = (if place x ≤ place y then x else y) ∧
      (fMinMax f true x y).1 = if place x ≤ place y then y else x)

/-- R53: the value of a finite encoding, from its fields. -/
def Sys2Proof.Claims.fpValue (f : FFmt) (x : Nat) : ℚ :=
  let F := f.frac
  let e : Int := x / 2 ^ F % 256
  let m : ℚ := if e = 0 then (x % 2 ^ F : ℕ) / 2 ^ F else 1 + (x % 2 ^ F : ℕ) / 2 ^ F
  (if x / 2 ^ (8 + F) % 2 = 1 then -1 else 1) * m * 2 ^ (if e = 0 then -126 else e - 127)

/-- R53: an encoding of a finite value. -/
def Sys2Proof.Claims.FiniteFp (f : FFmt) (x : Nat) : Prop := x / 2 ^ f.frac % 256 ≠ 255

/-- R57: the encoding and the flags that `round_f32` or `round_bf16` of a real x other than 0 deliver. What the magnitude is when it
is rounded as if the exponent were unbounded decides overflow and tininess: to nearest, away from zero, or toward zero. -/
def Sys2Proof.Claims.Rounded (f : FFmt) (rm : Rm) (x : ℝ) (r : Nat × FFlags) : Prop :=
  let F : Int := f.frac
  let away : Prop := (rm = .rup ∧ 0 < x) ∨ (rm = .rdn ∧ x < 0)
  let near : Prop := rm = .rne
  let large : Prop := (near ∧ (2 : ℝ) ^ (128 : Int) - 2 ^ (126 - F) ≤ |x|) ∨ (away ∧ (2 : ℝ) ^ (128 : Int) - 2 ^ (127 - F) < |x|) ∨
    (2 : ℝ) ^ (128 : Int) ≤ |x|
  let tiny : Prop := (near ∧ |x| < (2 : ℝ) ^ (-126 : Int) - 2 ^ (-128 - F)) ∨ (away ∧ |x| ≤ (2 : ℝ) ^ (-126 : Int) - 2 ^ (-127 - F)) ∨
    (¬near ∧ ¬away ∧ |x| < (2 : ℝ) ^ (-126 : Int))
  let v : ℝ := fpValue f r.1
  (large → (near ∨ away → r.1 = infBits f (decide (x < 0))) ∧ (¬near → ¬away → r.1 = maxFinite f (decide (x < 0))) ∧
    r.2 = fOF ||| fNX) ∧
  (¬large → r.1 < 2 ^ (9 + f.frac) ∧ FiniteFp f r.1 ∧ (fSign f r.1 = true ↔ x < 0) ∧
    (∀ y, FiniteFp f y →
      (near → |x - v| ≤ |x - fpValue f y| ∧ (|x - v| = |x - fpValue f y| → v = fpValue f y ∨ r.1 % 2 = 0)) ∧
      (rm = .rdn → v ≤ x ∧ ((fpValue f y : ℝ) ≤ x → (fpValue f y : ℝ) ≤ v)) ∧
      (rm = .rup → x ≤ v ∧ (x ≤ (fpValue f y : ℝ) → v ≤ fpValue f y)) ∧
      (rm = .rtz → |v| ≤ |x| ∧ (|(fpValue f y : ℝ)| ≤ |x| → |(fpValue f y : ℝ)| ≤ |v|))) ∧
    (v = x → r.2 = 0) ∧ (v ≠ x → tiny → r.2 = fNX ||| fUF) ∧ (v ≠ x → ¬tiny → r.2 = fNX))

/-- R57, R61: y is the integer that x rounds to in a mode. -/
def Sys2Proof.Claims.RoundedInt (rm : Rm) (x : ℚ) (y : Int) : Prop :=
  match rm with
  | .rne => |x - y| ≤ 1 / 2 ∧ (|x - y| = 1 / 2 → y % 2 = 0)
  | .rdn => (y : ℚ) ≤ x ∧ x < y + 1
  | .rup => (y : ℚ) - 1 < x ∧ x ≤ y
  | .rtz => |(y : ℚ)| ≤ |x| ∧ |x| < |(y : ℚ)| + 1 ∧ (y ≠ 0 → (0 < y ↔ 0 < x))

/-- R57: what a sum whose exact value is x delivers where both terms are finite; an exact zero takes the common sign of its terms,
else + but in RDN −. -/
def Sys2Proof.Claims.SumIs (f : FFmt) (rm : Rm) (x : ℚ) (n1 n2 : Bool) (r : Nat × FFlags) : Prop :=
  (x ≠ 0 → Rounded f rm x r) ∧ (x = 0 → r = (zeroBits f (if n1 = n2 then n1 else decide (rm = .rdn)), 0))

/-- R59 for sums, products and fused sums: the first NaN is delivered quiet, NV for a signalling source; the invalid operations
deliver the default NaN with NV. R57 to R59, R61, R62, R82: the exact result of every floating-point operation is formed and
rounded once; infinities; the conversions. R67, R68, R252: the group sum of the BF16 array, with its window of 48 bits, its one
rounding and its special values, and the group of the block formats. (What flags a group with a NaN raises: log entry 16.) -/
def Obligations.FloatingPointFunctions : Prop :=
  (∀ (f : FFmt) (rm : Rm) (x y z : Nat),
    let nv2 : FFlags := if isSNaN f x ∨ isSNaN f y then fNV else 0
    let nv3 : FFlags := if isSNaN f x ∨ isSNaN f y ∨ isSNaN f z then fNV else 0
    let zeroInf : Prop := (isZero f x ∧ isInf f y) ∨ (isInf f x ∧ isZero f y)
    (isNaN f x = true → fAdd f rm x y = (quiet f x, nv2) ∧ fMul f rm x y = (quiet f x, nv2) ∧
      fFma f rm x y z [x, y, z] = (quiet f x, nv3)) ∧
    (isNaN f x = false → isNaN f y = true → fAdd f rm x y = (quiet f y, nv2) ∧ fMul f rm x y = (quiet f y, nv2) ∧
      fFma f rm x y z [x, y, z] = (quiet f y, nv3)) ∧
    (isNaN f x = false → isNaN f y = false → isNaN f z = true →
      fFma f rm x y z [x, y, z] = (quiet f z, if zeroInf then nv3 ||| fNV else nv3)) ∧
    (isInf f x = true → isInf f y = true → fSign f x ≠ fSign f y → fAdd f rm x y = (defNaN f, fNV)) ∧
    (zeroInf → fMul f rm x y = (defNaN f, fNV)) ∧
    (zeroInf → isNaN f z = false → fFma f rm x y z [x, y, z] = (defNaN f, fNV))) ∧
  ((∀ (f : FFmt) (rm : Rm) (a b c : Nat),
    let n (x : Nat) : Bool := fSign f x
    let inf (s : Bool) : Nat × FFlags := (infBits f s, 0)
    let ab := n a != n b
    (FiniteFp f a → FiniteFp f b →
      SumIs f rm (fpValue f a + fpValue f b) (n a) (n b) (fAdd f rm a b) ∧
      SumIs f rm (fpValue f a * fpValue f b) ab ab (fMul f rm a b)) ∧
    (FiniteFp f a → FiniteFp f b → FiniteFp f c →
      SumIs f rm (fpValue f a * fpValue f b + fpValue f c) ab (n c) (fFma f rm a b c [a, b, c])) ∧
    -- infinities without an invalid operation
    (isInf f a = true → isNaN f b = false → (isInf f b = true → n a = n b) →
      fAdd f rm a b = inf (n a) ∧ fAdd f rm b a = inf (n a)) ∧
    (isInf f a = true → isNaN f b = false → isZero f b = false →
      fMul f rm a b = inf ab ∧ fMul f rm b a = inf ab ∧
      (isNaN f c = false → (isInf f c = true → n c = ab) →
        fFma f rm a b c [a, b, c] = inf ab ∧ fFma f rm b a c [b, a, c] = inf ab) ∧
      (isInf f c = true → n c ≠ ab → fFma f rm a b c [a, b, c] = (defNaN f, fNV))) ∧
    (FiniteFp f a → FiniteFp f b → isInf f c = true → fFma f rm a b c [a, b, c] = inf (n c))) ∧
  (∀ (rm : Rm) (x : Nat), x < 2 ^ 32 →
    let v := fpValue .f32 x
    (FiniteFp .f32 x → 0 < v → Rounded .f32 rm (Real.sqrt v) (fSqrt rm x)) ∧ (FiniteFp .f32 x → v = 0 → fSqrt rm x = (x, 0)) ∧
    (x = 0x7F800000 → fSqrt rm x = (x, 0)) ∧
    (isNaN .f32 x = false → fSign .f32 x = true → isZero .f32 x = false → fSqrt rm x = (0x7FC00000, fNV)) ∧
    (isNaN .f32 x = true → fSqrt rm x = (x ||| 0x400000, if isSNaN .f32 x then fNV else 0)) ∧
    -- to BF16 and to integers
    (FiniteFp .f32 x → v ≠ 0 → Rounded .bf16 rm v (f32ToBf rm x)) ∧
    (v = 0 ∨ isInf .f32 x = true → FiniteFp .f32 x ∨ isInf .f32 x = true → f32ToBf rm x = (x / 2 ^ 16, 0)) ∧
    (isNaN .f32 x = true → f32ToBf rm x = (x / 2 ^ 16 ||| 0x40, if isSNaN .f32 x then fNV else 0)) ∧
    ∀ (w : Nat) (signed : Bool), 0 < w →
      let lo : Int := if signed then -2 ^ (w - 1) else 0
      let hi : Int := if signed then 2 ^ (w - 1) - 1 else 2 ^ w - 1
      let bits (y : Int) : Nat := (y % 2 ^ w).toNat
      (∀ y, FiniteFp .f32 x → RoundedInt rm v y → f32ToInt rm w signed x =
        if y < lo then (bits lo, fNV) else if hi < y then (bits hi, fNV) else (bits y, if v = y then 0 else fNX)) ∧
      (isInf .f32 x = true → f32ToInt rm w signed x = (bits (if fSign .f32 x then lo else hi), fNV)) ∧
      (isNaN .f32 x = true → f32ToInt rm w signed x = (0, fNV))) ∧
  (∀ (f : FFmt) (rm : Rm) (i : Int), (i ≠ 0 → Rounded f rm i (intToF f rm i)) ∧ (i = 0 → intToF f rm i = (0, 0))) ∧
  (∀ h : Nat, h < 2 ^ 16 → bfToF32 h = h * 2 ^ 16 ∧ (FiniteFp .bf16 h → fpValue .f32 (bfToF32 h) = fpValue .bf16 h)) ∧
  -- the block formats
  ∀ E b : Nat, 2 ≤ b → b ≤ 8 →
    let top : Int := 2 ^ (b - 1) - 1
    let unit : ℚ := 2 ^ ((E : Int) - 127) / 2 ^ (b - 1)
    (∀ m : Int, E < 255 → -2 ^ (b - 1) ≤ m → m ≤ top → FiniteFp .f32 (decBfp m E b) ∧ fpValue .f32 (decBfp m E b) = m * unit) ∧
    (∀ m : Int, decBfp m 255 b = 0x7FC00000) ∧
    ∀ (x : Nat) (y : Int), E < 255 → FiniteFp .f32 x → RoundedInt .rne (fpValue .f32 x / unit) y →
      satBfp x E b =
        if top < y then ((top % 2 ^ b).toNat, fOF ||| fNX) else if y < -top then ((-top % 2 ^ b).toNat, fOF ||| fNX)
        else ((y % 2 ^ b).toNat, if fpValue .f32 x = y * unit then 0 else fNX)) ∧
  (∀ (c : Nat) (ab : List (BfOp × BfOp)),
    let opIs (p : BfOp → Prop) : Prop := ∃ x ∈ ab, p x.1 ∨ p x.2
    let nan : Prop := opIs (fun o => ∃ s, o = .nan s) ∨ isNaN .f32 c = true
    let signalling : Prop := opIs (· = .nan true) ∨ isSNaN .f32 c = true
    -- infinite products by sign, and 0 × ∞
    let infinite (s : Bool) : Prop := c = infBits .f32 s ∨ ∃ x ∈ ab,
      (∃ n n', x = (.inf n, .inf n') ∧ (n != n') = s) ∨ (∃ n n' m e, x = (.inf n, .num n' m e) ∧ (n != n') = s) ∨
      ∃ n n' m e, x = (.num n m e, .inf n') ∧ (n != n') = s
    let invalid : Prop := (infinite true ∧ infinite false) ∨ ∃ x ∈ ab, ∃ n, x = (.zero, .inf n) ∨ x = (.inf n, .zero)
    (nan → (signalling ∨ invalid → bfGroup c ab = (0x7FC00000, fNV)) ∧ (¬signalling → ¬invalid → bfGroup c ab = (0x7FC00000, 0))) ∧
    (¬nan → invalid → bfGroup c ab = (0x7FC00000, fNV)) ∧
    (¬nan → ¬invalid → ∀ s, infinite s → bfGroup c ab = (infBits .f32 s, 0)) ∧
    (FiniteFp .f32 c → (∀ x ∈ ab, (x.1 = .zero ∨ ∃ n m e, x.1 = .num n m e) ∧ (x.2 = .zero ∨ ∃ n m e, x.2 = .num n m e)) →
      let products : List (Bool × Nat × Int) := ab.filterMap fun x => match x with
        | (.num n m e, .num n' m' e') => some (n != n', m * m', e + e')
        | _ => none
      (products = [] → bfGroup c ab = (c, 0)) ∧
      ∀ p ∈ products, (∀ q ∈ products, q.2.2 ≤ p.2.2) →
        let shift (q : Bool × Nat × Int) : Int := q.2.2 - p.2.2 + 26
        let mag (q : Bool × Nat × Int) : Nat :=
          if 0 ≤ shift q then q.2.1 * 2 ^ (shift q).toNat else q.2.1 / 2 ^ (-shift q).toNat
        let window : Int := (products.map fun q => if q.1 then -(mag q : Int) else mag q).sum
        let sticky : Prop := ∃ q ∈ products, shift q < 0 ∧ q.2.1 % 2 ^ (-shift q).toNat ≠ 0
        let T : ℚ := fpValue .f32 c + window * 2 ^ (p.2.2 - 40)
        let tie : Prop := ∃ x y, FiniteFp .f32 x ∧ FiniteFp .f32 y ∧ fpValue .f32 x < fpValue .f32 y ∧
          2 * T = fpValue .f32 x + fpValue .f32 y ∧ ∀ z, FiniteFp .f32 z → ¬(fpValue .f32 x < fpValue .f32 z ∧ fpValue .f32 z < fpValue .f32 y)
        let r := bfGroup c ab
        (T = 0 → r.1 = 0 ∧ (sticky → r.2 = fNX) ∧ (¬sticky → r.2 = 0)) ∧
        (T ≠ 0 → ∃ q, Rounded .f32 .rne T q ∧ (sticky → r.2 = q.2 ||| fNX) ∧ (¬sticky → r.2 = q.2) ∧
          (¬sticky ∨ ¬tie → r.1 = q.1) ∧
          (sticky → tie → FiniteFp .f32 r.1 ∧ (fSign .f32 r.1 = true ↔ T < 0) ∧ |T| < |fpValue .f32 r.1| ∧
            ∀ z, FiniteFp .f32 z → |T| < |fpValue .f32 z| → |fpValue .f32 r.1| ≤ |fpValue .f32 z|)))) ∧
  ∀ (c Ea Eb ba bb : Nat) (ab : List (Int × Int)),
    let S : Int := (ab.map fun p => p.1 * p.2).sum
    let T : ℚ := fpValue .f32 c + S * 2 ^ (((Ea : Int) - 127) + ((Eb : Int) - 127) - ((ba : Int) - 1) - ((bb : Int) - 1))
    let r := bfpGroupSum c Ea Eb ba bb ab
    let nan : Prop := isNaN .f32 c = true ∨ Ea = 255 ∨ Eb = 255
    (nan → r = (0x7FC00000, if isSNaN .f32 c then fNV else 0)) ∧
    (¬nan → S = 0 ∨ isInf .f32 c = true → r = (c, 0)) ∧
    (¬nan → S ≠ 0 → FiniteFp .f32 c → (T = 0 → r = (0, 0)) ∧ (T ≠ 0 → Rounded .f32 .rne T r))

/-- R90 to R92: the SCR words give the old value, readable two slots on, and put the new one on its way. The trap registers are
read and written in supervisor mode only (R41): in user mode each of these words traps PRIV. R9 to R11, R91, R92, R284, R287: a
write of a control register shows in the second slot after its issue and no earlier, in the fields the register lets software
write; flags that merge in the same slot are ORed into what the write leaves. -/
def Obligations.ControlRegisters : Prop :=
  (∀ (d a : SReg) (c : CReg) (s : State), Issues s 0 [a, d] →
    let trapReg := c = .trpc ∨ c = .trcause ∨ c = .trfrom ∨ ∃ k, c = .trlg k
    let old := s.hart.creg c
    let x := s.hart.reg a
    (¬trapReg ∨ s.hart.hst.mode = true →
      exec (.crr d c) s = .next (withResult s d old 2).advance ∧
      exec (.crw d c a) s = .next (withCreg (withResult s d old 2) c x 2).advance ∧
      exec (.crset d c a) s = .next (withCreg (withResult s d old 2) c (old ||| x) 2).advance ∧
      exec (.crclr d c a) s = .next (withCreg (withResult s d old 2) c (old &&& ~~~x) 2).advance) ∧
    (trapReg → s.hart.hst.mode = false →
      exec (.crr d c) s = .next (s.trapHere .priv) ∧ exec (.crw d c a) s = .next (s.trapHere .priv) ∧
      exec (.crset d c a) s = .next (s.trapHere .priv) ∧ exec (.crclr d c a) s = .next (s.trapHere .priv))) ∧
  (∀ (s : State) (c : CReg) (v : Word) (f : FFlags), Quiet s → s.hart.queueFrozen = false →
    (ticks 1 (withFlags (withCreg s c v 2) f 2)).hart.creg c = s.hart.creg c ∧
    let t := ticks 2 (withFlags (withCreg s c v 2) f 2)
    (c = .fcr → t.hart.creg c = v &&& 3) ∧ (c = .xst → t.hart.creg c = (v &&& 0x1F) ||| f.setWidth 64) ∧
    (c = .hst → t.hart.creg c = (s.hart.creg c &&& ~~~0x40) ||| (v &&& 0x40)) ∧
    (c = .vl ∨ c = .vcfg ∨ c = .vcap → t.hart.creg c = s.hart.creg c) ∧
    ((∃ k, c = .xi k) → t.hart.creg c = v) ∧
    (c = .trpc ∨ c = .trfrom → t.hart.creg c = v &&& 0xFFFFFFFFFFFF) ∧
    (c = .trcause → t.hart.creg c = v &&& 0xFFFFFFFF000FF1FF) ∧ ((∃ k, c = .trlg k) → t.hart.creg c = v &&& 0x3FFF) ∧
    ∀ c', c' ≠ c → c' ≠ .xst → t.hart.creg c' = s.hart.creg c') ∧
  ∀ s : State, s.hart.merges = [] → s.hart.stores = [] → s.hart.loads = [] → s.hart.late = [] →
    ((∀ x ∈ s.hart.infl, s.hart.slot < x.ready) → exec .fixedLatencyWriteback s = .next s) ∧
    ∀ x sup d, s.hart.infl = [x] → x.ready ≤ s.hart.slot → x.dest = .sreg sup d →
      ∃ h : Hart, exec .fixedLatencyWriteback s = .next { s with hart := h } ∧
        h = { s.hart with infl := [], s := h.s, supS := h.supS, xst := s.hart.xst ||| x.flags } ∧
        h.regIn sup d = (if d = 0 then 0 else x.val) ∧
        ∀ b r, (b ≠ sup ∨ r.val % 4 ≠ d.val % 4) → h.regIn b r = s.hart.regIn b r

/-- 04_scalar_instructions.md R93 with R24 and R26: `nop` and `dly` pass their slots, in the queue too where the core has
one; `tkw` waits for the threshold, which it reads once, or for nothing outstanding, a slot at a time; `tkr` and `tkc` read and write the
counter of the mode's bank. -/
def Obligations.TimingAndTokens : Prop :=
  ∀ (d a : SReg) (tk : Tok) (cnt : Fin 64) (s : State), Issues s 0 [a, d] →
    let k := s.hart.token s.hart.hst.mode tk
    let x := s.hart.reg a
    (s.hart.hst.helm = true → exec .nop s = .next s.advance ∧ exec (.dly cnt) s = .next (ticks cnt.val s.advance)) ∧
    (s.hart.hst.helm = false → Enters s (.idle 1) none →
      exec .nop s = .next (entered s (.idle 1) [] none none []).advance) ∧
    (s.hart.hst.helm = false → Enters s (.idle (cnt.val + 1)) none →
      exec (.dly cnt) s = .next (ticks cnt.val (entered s (.idle (cnt.val + 1)) [] none none []).advance)) ∧
    exec (.tkwThreshold tk a) s =
      .next (if (k.cnt - x.setWidth 32).toNat < 2 ^ 31 then s.advance
        else tick { s with hart := { s.hart with held := true, hold := .tkw tk (x.setWidth 32) } }) ∧
    exec (.tkwDrain tk) s = .next (if k.out = 0 then s.advance else tick { s with hart := { s.hart with held := true } }) ∧
    exec (.tkr d tk) s = .next (withResult s d (k.cnt.setWidth 64) 1).advance ∧
    ∃ h : Hart, exec (.tkc tk a) s = .next ({ s with hart := h }.advance) ∧
      h = { s.hart with tk := h.tk, supTk := h.supTk } ∧
      h.token s.hart.hst.mode tk = ⟨x.setWidth 32, k.out⟩ ∧
      (∀ b t, (b, t) ≠ (s.hart.hst.mode, tk) → h.token b t = s.hart.token b t)

/-! ### Vector words: issue -/

/-- What a vector word asks for and what it puts in the queue: capability bits (R39), scalar sources, the entry, the token
of a posting class. -/
structure Sys2Proof.Claims.VecWord where
  bits : List Nat
  srcs : List SReg
  op : VOp
  tok : Option Tok

def Sys2Proof.Claims.fixedWord (bit : Nat) (srcs : List SReg) (op : VOp) : Option VecWord := some ⟨[bit], srcs, op, none⟩
def Sys2Proof.Claims.postingWord (bits : List Nat) (srcs : List SReg) (op : VOp) (tk : Tok) : Option VecWord :=
  some ⟨bits, srcs, op, some tk⟩

/-- The scalar register of a B operand (R118). -/
def Sys2Proof.Claims.operandRegs : VSrc → List SReg
  | .scal r => [r]
  | .vec _ => []
  | .imm _ => []

/-- The four registers of an operand quartet (R231). -/
def Sys2Proof.Claims.quartet (q : Quartet) : List SReg :=
  (List.range 4).map fun k => ⟨(4 * (q.val + 1) + k) % 32, Nat.mod_lt _ (by decide)⟩

/-- The words of the vector classes, of the copy channels and of the Sorter, in the order of the opcode table. -/
def Sys2Proof.Claims.vectorWord : Instr → Option VecWord
  | .vadd d a b m => fixedWord 3 (operandRegs b) (.vin .add d a b m)
  | .vsub d a b m => fixedWord 3 (operandRegs b) (.vin .sub d a b m)
  | .vrsub d a b m => fixedWord 3 (operandRegs b) (.vin .rsub d a b m)
  | .vand d a b m => fixedWord 3 (operandRegs b) (.vin .and d a b m)
  | .vor d a b m => fixedWord 3 (operandRegs b) (.vin .or d a b m)
  | .vxor d a b m => fixedWord 3 (operandRegs b) (.vin .xor d a b m)
  | .vsll d a b m => fixedWord 3 (operandRegs b) (.vin .sll d a b m)
  | .vsrl d a b m => fixedWord 3 (operandRegs b) (.vin .srl d a b m)
  | .vsra d a b m => fixedWord 3 (operandRegs b) (.vin .sra d a b m)
  | .vmul d a b m => fixedWord 3 (operandRegs b) (.vin .mul d a b m)
  | .vmulh d a b m => fixedWord 3 (operandRegs b) (.vin .mulh d a b m)
  | .vmulhu d a b m => fixedWord 3 (operandRegs b) (.vin .mulhu d a b m)
  | .vmulhsu d a b m => fixedWord 3 (operandRegs b) (.vin .mulhsu d a b m)
  | .vmacc d a b m => fixedWord 3 (operandRegs b) (.vin .macc d a b m)
  | .vmin d a b m => fixedWord 3 (operandRegs b) (.vin .min d a b m)
  | .vmax d a b m => fixedWord 3 (operandRegs b) (.vin .max d a b m)
  | .vminu d a b m => fixedWord 3 (operandRegs b) (.vin .minu d a b m)
  | .vmaxu d a b m => fixedWord 3 (operandRegs b) (.vin .maxu d a b m)
  | .vsadd d a b m => fixedWord 3 (operandRegs b) (.vin .sadd d a b m)
  | .vsaddu d a b m => fixedWord 3 (operandRegs b) (.vin .saddu d a b m)
  | .vssub d a b m => fixedWord 3 (operandRegs b) (.vin .ssub d a b m)
  | .vssubu d a b m => fixedWord 3 (operandRegs b) (.vin .ssubu d a b m)
  | .vwadd d a b m => fixedWord 3 (operandRegs b) (.vin .wadd d a b m)
  | .vwaddu d a b m => fixedWord 3 (operandRegs b) (.vin .waddu d a b m)
  | .vwsub d a b m => fixedWord 3 (operandRegs b) (.vin .wsub d a b m)
  | .vwsubu d a b m => fixedWord 3 (operandRegs b) (.vin .wsubu d a b m)
  | .vwmul d a b m => fixedWord 3 (operandRegs b) (.vin .wmul d a b m)
  | .vwmulu d a b m => fixedWord 3 (operandRegs b) (.vin .wmulu d a b m)
  | .vnsra d a b m => fixedWord 3 (operandRegs b) (.vin .nsra d a b m)
  | .vnclip d a b m => fixedWord 3 (operandRegs b) (.vin .nclip d a b m)
  | .vmv d b m => fixedWord 3 (operandRegs b) (.vin .mv d 0 b m)
  | .vfadd d a b m => fixedWord 4 (operandRegs b) (.vfa .add .f32 d a b m)
  | .vfsub d a b m => fixedWord 4 (operandRegs b) (.vfa .sub .f32 d a b m)
  | .vfrsub d a b m => fixedWord 4 (operandRegs b) (.vfa .rsub .f32 d a b m)
  | .vfmul d a b m => fixedWord 5 (operandRegs b) (.vfa .mul .f32 d a b m)
  | .vfmin d a b m => fixedWord 4 (operandRegs b) (.vfa .min .f32 d a b m)
  | .vfmax d a b m => fixedWord 4 (operandRegs b) (.vfa .max .f32 d a b m)
  | .vfsgnj d a b m => fixedWord 4 (operandRegs b) (.vfa .sgnj .f32 d a b m)
  | .vfsgnjn d a b m => fixedWord 4 (operandRegs b) (.vfa .sgnjn .f32 d a b m)
  | .vfsgnjx d a b m => fixedWord 4 (operandRegs b) (.vfa .sgnjx .f32 d a b m)
  | .vfclass d a m => fixedWord 4 [] (.vfclass .f32 d a m)
  | .vfaddBf d a b m => fixedWord 6 (operandRegs b) (.vfa .add .bf16 d a b m)
  | .vfsubBf d a b m => fixedWord 6 (operandRegs b) (.vfa .sub .bf16 d a b m)
  | .vfrsubBf d a b m => fixedWord 6 (operandRegs b) (.vfa .rsub .bf16 d a b m)
  | .vfmulBf d a b m => fixedWord 6 (operandRegs b) (.vfa .mul .bf16 d a b m)
  | .vfminBf d a b m => fixedWord 6 (operandRegs b) (.vfa .min .bf16 d a b m)
  | .vfmaxBf d a b m => fixedWord 6 (operandRegs b) (.vfa .max .bf16 d a b m)
  | .vfsgnjBf d a b m => fixedWord 6 (operandRegs b) (.vfa .sgnj .bf16 d a b m)
  | .vfsgnjnBf d a b m => fixedWord 6 (operandRegs b) (.vfa .sgnjn .bf16 d a b m)
  | .vfsgnjxBf d a b m => fixedWord 6 (operandRegs b) (.vfa .sgnjx .bf16 d a b m)
  | .vfclassBf d a m => fixedWord 6 [] (.vfclass .bf16 d a m)
  | .vfwaddBf d a b m => fixedWord 6 (operandRegs b) (.vfw .add d a b m)
  | .vfwsubBf d a b m => fixedWord 6 (operandRegs b) (.vfw .sub d a b m)
  | .vfwmulBf d a b m => fixedWord 6 (operandRegs b) (.vfw .mul d a b m)
  | .vfwaddWbf d a b m => fixedWord 6 (operandRegs b) (.vfw .addw d a b m)
  | .vfwsubWbf d a b m => fixedWord 6 (operandRegs b) (.vfw .subw d a b m)
  | .vfmacc d a b m => fixedWord 5 (operandRegs b) (.vfm .macc .f32 d a b m)
  | .vfnmacc d a b m => fixedWord 5 (operandRegs b) (.vfm .nmacc .f32 d a b m)
  | .vfmsac d a b m => fixedWord 5 (operandRegs b) (.vfm .msac .f32 d a b m)
  | .vfnmsac d a b m => fixedWord 5 (operandRegs b) (.vfm .nmsac .f32 d a b m)
  | .vfmadd d a b m => fixedWord 5 (operandRegs b) (.vfm .madd .f32 d a b m)
  | .vfmaccBf d a b m => fixedWord 6 (operandRegs b) (.vfm .macc .bf16 d a b m)
  | .vfnmaccBf d a b m => fixedWord 6 (operandRegs b) (.vfm .nmacc .bf16 d a b m)
  | .vfmsacBf d a b m => fixedWord 6 (operandRegs b) (.vfm .msac .bf16 d a b m)
  | .vfnmsacBf d a b m => fixedWord 6 (operandRegs b) (.vfm .nmsac .bf16 d a b m)
  | .vfmaddBf d a b m => fixedWord 6 (operandRegs b) (.vfm .madd .bf16 d a b m)
  | .vfwmaccBf d a b m => fixedWord 6 (operandRegs b) (.vfm .macc .wide d a b m)
  | .vfwnmaccBf d a b m => fixedWord 6 (operandRegs b) (.vfm .nmacc .wide d a b m)
  | .vfwmsacBf d a b m => fixedWord 6 (operandRegs b) (.vfm .msac .wide d a b m)
  | .vfwnmsacBf d a b m => fixedWord 6 (operandRegs b) (.vfm .nmsac .wide d a b m)
  | .vfcvtXF d a m => fixedWord 7 [] (.vcv .xF d a m)
  | .vfcvtXuF d a m => fixedWord 7 [] (.vcv .xuF d a m)
  | .vfcvtRtzXF d a m => fixedWord 7 [] (.vcv .rtzXF d a m)
  | .vfcvtRtzXuF d a m => fixedWord 7 [] (.vcv .rtzXuF d a m)
  | .vfcvtFX d a m => fixedWord 7 [] (.vcv .fX d a m)
  | .vfcvtFXu d a m => fixedWord 7 [] (.vcv .fXu d a m)
  | .vfcvtXBf d a m => fixedWord 7 [] (.vcv .xBf d a m)
  | .vfcvtBfX d a m => fixedWord 7 [] (.vcv .bfX d a m)
  | .vfwcvtFBf d a m => fixedWord 7 [] (.vcv .wFBf d a m)
  | .vfwcvtXF d a m => fixedWord 7 [] (.vcv .wXF d a m)
  | .vfwcvtFX d a m => fixedWord 7 [] (.vcv .wFX d a m)
  | .vfncvtBfF d a m => fixedWord 7 [] (.vcv .nBfF d a m)
  | .vfncvtXF d a m => fixedWord 7 [] (.vcv .nXF d a m)
  | .vfncvtXuF d a m => fixedWord 7 [] (.vcv .nXuF d a m)
  | .vfncvtFX d a m => fixedWord 7 [] (.vcv .nFX d a m)
  | .vsext2 d a m => fixedWord 7 [] (.vcv .sext2 d a m)
  | .vzext2 d a m => fixedWord 7 [] (.vcv .zext2 d a m)
  | .vsext4 d a m => fixedWord 7 [] (.vcv .sext4 d a m)
  | .vzext4 d a m => fixedWord 7 [] (.vcv .zext4 d a m)
  | .vsext8 d a m => fixedWord 7 [] (.vcv .sext8 d a m)
  | .vzext8 d a m => fixedWord 7 [] (.vcv .zext8 d a m)
  | .vmseq d a b m => fixedWord 3 (operandRegs b) (.vcpi .eq d a b m)
  | .vmsne d a b m => fixedWord 3 (operandRegs b) (.vcpi .ne d a b m)
  | .vmslt d a b m => fixedWord 3 (operandRegs b) (.vcpi .lt d a b m)
  | .vmsltu d a b m => fixedWord 3 (operandRegs b) (.vcpi .ltu d a b m)
  | .vmsle d a b m => fixedWord 3 (operandRegs b) (.vcpi .le d a b m)
  | .vmsleu d a b m => fixedWord 3 (operandRegs b) (.vcpi .leu d a b m)
  | .vmsgt d a b m => fixedWord 3 (operandRegs b) (.vcpi .gt d a b m)
  | .vmsgtu d a b m => fixedWord 3 (operandRegs b) (.vcpi .gtu d a b m)
  | .vmfeq d a b m => fixedWord 4 (operandRegs b) (.vcpf .eq .f32 d a b m)
  | .vmfne d a b m => fixedWord 4 (operandRegs b) (.vcpf .ne .f32 d a b m)
  | .vmflt d a b m => fixedWord 4 (operandRegs b) (.vcpf .lt .f32 d a b m)
  | .vmfle d a b m => fixedWord 4 (operandRegs b) (.vcpf .le .f32 d a b m)
  | .vmfgt d a b m => fixedWord 4 (operandRegs b) (.vcpf .gt .f32 d a b m)
  | .vmfge d a b m => fixedWord 4 (operandRegs b) (.vcpf .ge .f32 d a b m)
  | .vmfeqBf d a b m => fixedWord 4 (operandRegs b) (.vcpf .eq .bf16 d a b m)
  | .vmfneBf d a b m => fixedWord 4 (operandRegs b) (.vcpf .ne .bf16 d a b m)
  | .vmfltBf d a b m => fixedWord 4 (operandRegs b) (.vcpf .lt .bf16 d a b m)
  | .vmfleBf d a b m => fixedWord 4 (operandRegs b) (.vcpf .le .bf16 d a b m)
  | .vmfgtBf d a b m => fixedWord 4 (operandRegs b) (.vcpf .gt .bf16 d a b m)
  | .vmfgeBf d a b m => fixedWord 4 (operandRegs b) (.vcpf .ge .bf16 d a b m)
  | .vmand d a b m => fixedWord 3 [] (.vmk2 .and d a b m)
  | .vmor d a b m => fixedWord 3 [] (.vmk2 .or d a b m)
  | .vmxor d a b m => fixedWord 3 [] (.vmk2 .xor d a b m)
  | .vmandn d a b m => fixedWord 3 [] (.vmk2 .andn d a b m)
  | .vmorn d a b m => fixedWord 3 [] (.vmk2 .orn d a b m)
  | .vmnand d a b m => fixedWord 3 [] (.vmk2 .nand d a b m)
  | .vmnor d a b m => fixedWord 3 [] (.vmk2 .nor d a b m)
  | .vmxnor d a b m => fixedWord 3 [] (.vmk2 .xnor d a b m)
  | .vmsbf d a m => fixedWord 3 [] (.vmk1 .sbf d a m)
  | .vmsif d a m => fixedWord 3 [] (.vmk1 .sif d a m)
  | .vmsof d a m => fixedWord 3 [] (.vmk1 .sof d a m)
  | .viota d a m => fixedWord 3 [] (.viota d a m)
  | .vmpopc d a m => fixedWord 3 [] (.vmpopc d a m)
  | .vmfirst d a m => fixedWord 3 [] (.vmfirst d a m)
  | .vid d m => fixedWord 3 [] (.vid d m)
  | .vrgather d a b m tk => postingWord [9] [] (.vgather d a b m) tk
  | .vrgatherx d a b m tk => postingWord [9] [b] (.vslide .gatherx d a m) tk
  | .vslideup d a b m tk => postingWord [9] [b] (.vslide .up d a m) tk
  | .vslidedown d a b m tk => postingWord [9] [b] (.vslide .down d a m) tk
  | .vslide1up d a b m tk => postingWord [9] [b] (.vslide .up1 d a m) tk
  | .vslide1down d a b m tk => postingWord [9] [b] (.vslide .down1 d a m) tk
  | .vcompress d a b tk => postingWord [9] [] (.vcompress d a b) tk
  | .vmvxs d a b tk => postingWord [9] [b] (.vmvxs d a) tk
  | .vmvsx d a m tk => postingWord [9] [a] (.vmvsx d m) tk
  | .vrev d a m tk => postingWord [9] [] (.vrev d a m) tk
  | .vredoFsum d a b m tk => postingWord [8] [b] (.vred false .fsum d a m) tk
  | .vredoFmax d a b m tk => postingWord [8] [b] (.vred false .fmax d a m) tk
  | .vredoFmin d a b m tk => postingWord [8] [b] (.vred false .fmin d a m) tk
  | .vredoBfsum d a b m tk => postingWord [8] [b] (.vred false .bfsum d a m) tk
  | .vredoSum d a b m tk => postingWord [8] [b] (.vred false .sum d a m) tk
  | .vredoMax d a b m tk => postingWord [8] [b] (.vred false .max d a m) tk
  | .vredoMin d a b m tk => postingWord [8] [b] (.vred false .min d a m) tk
  | .vredoMinu d a b m tk => postingWord [8] [b] (.vred false .minu d a m) tk
  | .vredtFsum d a b m tk => postingWord [8] [b] (.vred true .fsum d a m) tk
  | .vredtFmax d a b m tk => postingWord [8] [b] (.vred true .fmax d a m) tk
  | .vredtFmin d a b m tk => postingWord [8] [b] (.vred true .fmin d a m) tk
  | .vredtBfsum d a b m tk => postingWord [8] [b] (.vred true .bfsum d a m) tk
  | .vredtSum d a b m tk => postingWord [8] [b] (.vred true .sum d a m) tk
  | .vredtMax d a b m tk => postingWord [8] [b] (.vred true .max d a m) tk
  | .vredtMin d a b m tk => postingWord [8] [b] (.vred true .min d a m) tk
  | .vredtMaxu d a b m tk => postingWord [8] [b] (.vred true .maxu d a m) tk
  | .vsortu d a tk => postingWord [10] [] (.vsort .u d a) tk
  | .vsorts d a tk => postingWord [10] [] (.vsort .s d a) tk
  | .vsortf d a tk => postingWord [10] [] (.vsort .f d a) tk
  | .vsortkvu d a tk => postingWord [10] [] (.vsortkv .u d a) tk
  | .vsortkvs d a tk => postingWord [10] [] (.vsortkv .s d a) tk
  | .vsortkvf d a tk => postingWord [10] [] (.vsortkv .f d a) tk
  | .vmergeu d a b tk => postingWord [10] [b] (.vmerge .u d a) tk
  | .vmerges d a b tk => postingWord [10] [b] (.vmerge .s d a) tk
  | .vmergef d a b tk => postingWord [10] [b] (.vmerge .f d a) tk
  | .vtag d a b m tk => postingWord [10] [b] (.vtag d a m) tk
  | .vsegm d a tk => postingWord [10] [] (.vsegm d a) tk
  | .vbr k off => fixedWord 3 [] (.vbr k off)
  | .vjoin off => fixedWord 3 [] (.vjoin off)
  | .vloop a k off => fixedWord 3 [] (.vloop a k off)
  | .vldc d a m tk => postingWord [3] [a] (.vld .unit d m) tk
  | .vldcs d a b m tk => postingWord [3] [a, b] (.vld (.stride b) d m) tk
  | .vldcx d a b m tk => postingWord [3] [a] (.vld (.index b) d m) tk
  | .vstc d a m tk => postingWord [3] [a] (.vst .unit d m) tk
  | .vstcs d a b m tk => postingWord [3] [a, b] (.vst (.stride b) d m) tk
  | .vstcx d a b m tk => postingWord [3] [a] (.vst (.index b) d m) tk
  | .vstp d a m tk => postingWord [3] [a] (.vstp false d m) tk
  | .vstpb d a b m tk => postingWord [3] [a, b] (.vstp true d m) tk
  | .vtrdr d a b m => fixedWord 3 [b] (.vts .rdr d a m)
  | .vtrdc d a b m => fixedWord 3 [b] (.vts .rdc d a m)
  | .vtrdrz d a b m => fixedWord 3 [b] (.vts .rdrz d a m)
  | .vtrdcz d a b m => fixedWord 3 [b] (.vts .rdcz d a m)
  | .vtwrr d a b m => fixedWord 3 [b] (.vts .wrr d a m)
  | .vtwrc d a b m => fixedWord 3 [b] (.vts .wrc d a m)
  | .vprd d a m tk => postingWord [3] [] (.vpt .rd d a 0 m) tk
  | .vprdff d a m tk => postingWord [3] [] (.vpt .rdff d a 0 m) tk
  | .vpwr d a m tk => postingWord [3] [] (.vpt .wr d a 0 m) tk
  | .vppeek d a m tk => postingWord [3] [] (.vpt .peek d a 0 m) tk
  | .vprdnF d a b tk => postingWord [11] [] (.vpt .rdnF d a b 0) tk
  | .vprdnBf d a b tk => postingWord [11] [] (.vpt .rdnBf d a b 0) tk
  | .vprdnffF d a b tk => postingWord [11] [] (.vpt .rdnffF d a b 0) tk
  | .vprdnffBf d a b tk => postingWord [11] [] (.vpt .rdnffBf d a b 0) tk
  | .vpwrnF d a b tk => postingWord [12] [] (.vpt .wrnF d a b 0) tk
  | .vpwrnBf d a b tk => postingWord [12] [] (.vpt .wrnBf d a b 0) tk
  | .vprdnC d a tk => postingWord [11] [] (.vpt .rdnC d a 0 0) tk
  | .vprdnffC d a tk => postingWord [11] [] (.vpt .rdnffC d a 0 0) tk
  | .vpwrnC d a tk => postingWord [12] [] (.vpt .wrnC d a 0 0) tk
  | .vbld d a oc tk => postingWord [3] [] (.vbld false d a oc) tk
  | .vbst d a oc tk => postingWord [3] [] (.vbst false d a oc) tk
  | .bldsc d a tk => postingWord [3] [] (.vbld true d a 15) tk
  | .bstsc d a tk => postingWord [3] [] (.vbst true d a 15) tk
  | .vamaxe d a b oc tk => postingWord [13, 3] [] (.vamaxe d a b oc) tk
  | .vwait d a b oc tk => postingWord [3] [b] (.vwait d a oc) tk
  | .cprr d a b tk => postingWord [18] (quartet b) (.copy .rr d a) tk
  | .cprc d a b tk => postingWord [18] (quartet b) (.copy .rc d a) tk
  | .cprp d a b tk => postingWord [18] (quartet b) (.copy .rp d a) tk
  | .cpmark d a tk => postingWord [18] [] (.cpctl .mark d a) tk
  | .cpseq d a tk => postingWord [18] [] (.cpctl .seq d a) tk
  | .cpstat d a b tk => postingWord [18] [b] (.cpctl .stat d a) tk
  | .cpretry d a tk => postingWord [18] [] (.cpctl .retry d a) tk
  | .cpabort d a tk => postingWord [18] [] (.cpctl .abort d a) tk
  | .ssort d a b tk => postingWord [17] [b] (.srt .sort d a) tk
  | .smerge d a b tk => postingWord [17] [b] (.srt .merge d a) tk
  | .sjoin d a b tk => postingWord [17] [b] (.srt .join d a) tk
  | .stag d a b tk => postingWord [17] [b] (.srt .tag d a) tk
  | .sprog d a b tk => postingWord [17] [a, b] (.sprog d) tk
  | .sabort d a tk => postingWord [17] [a] (.sabort d) tk
  | _ => none

/-- The checks that single classes make at issue: R147 for plane stores, R148 for tile slices, R233 and R215 for commands,
R181 for port transfers. -/
def Sys2Proof.Claims.IssueChecks (s : State) (op : VOp) (sv : List Word) : Prop :=
  let x := (sv.headD 0).toNat
  let groups := (s.hart.vl + 15) / 16
  match op with
  | .vts _ _ _ _ => s.hart.vl ≤ 64 ∧ x < 64
  | .vstp false _ _ => s.hart.vl = 0 ∨ (x < 0x200000 ∧ x % 64 = 0 ∧ x % 0x80000 + groups * 40 ≤ 0x80000)
  | .vstp true _ _ =>
    let b := (sv[1]?.getD 0).toNat
    2 ≤ b ∧ b ≤ 8 ∧ (s.hart.vl = 0 ∨ (x < 0x200000 ∧ x % 64 = 0 ∧ x % 0x80000 + groups * (2 * b) ≤ 0x80000))
  | .copy _ _ _ => s.hart.vl ≤ 8
  | .srt f _ _ => f.vlOk s.hart.vl = true ∧ ctlOk f (sv.headD 0) = true
  | .vpt f _ p _ _ => s.vptPortOk f p = true
  | _ => True

/-- R102, R107, R109, R136: a vector word whose checks pass puts one entry at the end of the hart's queue, with VL, VCFG,
VCAP, the rounding mode and its scalar operands as they stand at issue; a posting word is outstanding on its token and its
scalar destination is pending; one slot passes. -/
def Obligations.VectorWordsEnterTheQueue : Prop :=
  ∀ (i : Instr) (w : VecWord) (s : State), vectorWord i = some w → s.hart.hst.helm = false →
    (∀ k ∈ w.bits, s.useMask.getLsbD k = true) → Free s (w.srcs ++ w.op.sdest.toList) → Enters s w.op w.tok →
    IssueChecks s w.op (w.srcs.map s.hart.reg) →
    let sv := w.srcs.map s.hart.reg
    exec i s = .next (entered s w.op sv w.tok w.op.sdest (w.op.bop (queued s w.op sv w.tok))).advance

/-- The trap of a vector word that fails a check at issue after its capability bits: of a port transfer, whose increment then
counts as cancelled (R181, R28), else precisely at the word. -/
def Sys2Proof.Claims.turnedAway (s : State) (w : VecWord) (c : Cause) : State :=
  match w.op, w.tok with
  | .vpt _ _ _ _ _, some tk =>
    trapAt { cause := c, aux := 0, tk := tk.val, can := true, qf := false, eng := false, dfd := false, pc := s.hart.pc
             src := s.hart.pc, dones := [] } s
  | _, _ => s.trapHere c

/-- A vector register operand: its first register, its element width, whether it is a scale (which is one register, R101), and whether
it is written and read. -/
structure Sys2Proof.Claims.VecOperand where
  reg : Nat
  w : Nat
  scale : Bool
  dst : Bool
  src : Bool

/-- The vector register operands of an entry, with the widths that the tables of R123 to R148, R181, R189, R192, R195, R212, R231 give
them at a SEW; n is the number of registers of a group of width SEW. -/
def Sys2Proof.Claims.vecOperands (op : VOp) (sew n : Nat) : List VecOperand :=
  let wr (r : VReg) (w : Nat) : VecOperand := ⟨r.val, w, false, true, false⟩
  let rd (r : VReg) (w : Nat) : VecOperand := ⟨r.val, w, false, false, true⟩
  let rw (r : VReg) (w : Nat) : VecOperand := ⟨r.val, w, false, true, true⟩
  let B (b : VSrc) : List VecOperand := match b with
    | .vec r => [rd r sew]
    | _ => []
  let ix (md : VcmMode) : List VecOperand := match md with
    | .index r => [rd r sew]
    | _ => []
  match op with
  | .vin f d a b _ =>
    let wd := if f ∈ [.wadd, .waddu, .wsub, .wsubu, .wmul, .wmulu] then 2 * sew else sew
    let wa := if f ∈ [.nsra, .nclip] then 2 * sew else sew
    (if f = .macc then rw d wd else wr d wd) :: (if f = .mv then [] else [rd a wa]) ++ B b
  | .vfa _ _ d a b _ => wr d sew :: rd a sew :: B b
  | .vfclass _ d a _ => [wr d sew, rd a sew]
  | .vfw f d a b _ => wr d (2 * sew) :: rd a (if f = .addw ∨ f = .subw then 2 * sew else sew) :: B b
  | .vfm _ k d a b _ => rw d (if k = .wide then 2 * sew else sew) :: rd a sew :: B b
  | .vcv f d a _ =>
    let wd := if f ∈ [.wFBf, .wXF, .wFX] then 2 * sew else sew
    let wa := if f ∈ [.nBfF, .nXF, .nXuF, .nFX] then 2 * sew else if f ∈ [.sext2, .zext2] then sew / 2
      else if f ∈ [.sext4, .zext4] then sew / 4 else if f ∈ [.sext8, .zext8] then sew / 8 else sew
    [wr d wd, rd a wa]
  | .vcpi _ _ a b _ => rd a sew :: B b
  | .vcpf _ _ _ a b _ => rd a sew :: B b
  | .viota d _ _ => [wr d sew]
  | .vid d _ => [wr d sew]
  | .vmpopc d _ _ => [wr d sew]
  | .vmfirst d _ _ => [wr d sew]
  | .vts f d _ _ => [if f = .wrr ∨ f = .wrc then rd d sew else wr d sew]
  | .vloop a _ _ => [rw a sew]
  | .vgather d a b _ => [wr d sew, rd a sew, rd b sew]
  | .vslide _ d a _ => [wr d sew, rd a sew]
  | .vcompress d a _ => [wr d sew, rd a sew]
  | .vmvxs _ a => [rd a sew]
  | .vmvsx d _ => [wr d sew]
  | .vrev d a _ => [wr d sew, rd a sew]
  | .vred _ _ _ a _ => [rd a sew]
  | .vsort _ d a => [wr d sew, rd a sew]
  | .vsortkv _ d a => [rw d sew, rw a sew]
  | .vmerge _ d a => [wr d sew, rd a sew]
  | .vtag d a _ => [wr d sew, rd a sew]
  | .vsegm _ a => [rd a sew]
  | .vld md d _ => wr d sew :: ix md
  | .vst md d _ => rd d sew :: ix md
  | .vstp _ d _ => [rd d sew]
  | .vpt f d _ b _ =>
    (if f ∈ [.wr, .wrnF, .wrnBf, .wrnC] then rd d sew else wr d sew) ::
      if f ∈ [.rdnF, .rdnBf, .rdnffF, .rdnffBf, .wrnF, .wrnBf] then [⟨b.val, 8, true, false, true⟩] else []
  | .vbld _ d a _ => [wr d sew, rd a sew]
  | .vbst _ d a _ => [rd d sew, rd a sew]
  | .vamaxe d a b _ => [wr d sew, rd a sew, rd b sew]
  | .vwait _ a _ => [rd a sew, ⟨a.val + n, sew, false, false, true⟩]
  | .copy _ _ a => [rd a 64]
  | .srt _ _ a => [rd a 64]
  | _ => []

/-- The SEW that a function needs (R119, R124 to R129, R135, R140, R141, R147, R148, R181, R189, R192, R195, R212, R231). -/
def Sys2Proof.Claims.sewFits (op : VOp) (sew : Nat) : Prop :=
  match op with
  | .vfa _ fmt _ _ _ _ => sew = if fmt = .f32 then 32 else 16
  | .vfclass fmt _ _ _ => sew = if fmt = .f32 then 32 else 16
  | .vcpf _ fmt _ _ _ _ => sew = if fmt = .f32 then 32 else 16
  | .vfw _ _ _ _ _ => sew = 16
  | .vfm _ k _ _ _ _ => sew = if k = .f32 then 32 else 16
  | .vcv f _ _ _ =>
    if f ∈ [.xF, .xuF, .rtzXF, .rtzXuF, .fX, .fXu, .wXF, .nFX] then sew = 32
    else if f ∈ [.xBf, .bfX, .wFBf, .wFX, .nBfF, .nXF, .nXuF] then sew = 16
    else if f ∈ [.sext2, .zext2] then 16 ≤ sew else if f ∈ [.sext4, .zext4] then 32 ≤ sew else sew = 64
  | .viota _ _ _ => 16 ≤ sew
  | .vid _ _ => 16 ≤ sew
  | .vmpopc _ _ _ => 16 ≤ sew
  | .vmfirst _ _ _ => 16 ≤ sew
  | .vts _ _ _ _ => sew = 32
  | .vred _ f _ _ _ => if f ∈ [.fsum, .fmax, .fmin] then sew = 32 else f = .bfsum → sew = 16
  | .vsort k _ _ => k = .f → sew = 16 ∨ sew = 32
  | .vsortkv k _ _ => k = .f → sew = 16 ∨ sew = 32
  | .vmerge k _ _ => k = .f → sew = 16 ∨ sew = 32
  | .vtag _ _ _ => sew = 64
  | .vstp bfp _ _ => sew = if bfp then 8 else 16
  | .vpt f _ _ _ _ =>
    (f ∈ [.rdnF, .rdnffF, .wrnF] → sew = 32) ∧ (f ∈ [.rdnBf, .rdnffBf, .wrnBf] → sew = 16) ∧
      (f ∈ [.rdnC, .rdnffC, .wrnC] → sew = 8)
  | .vbld _ _ _ _ => sew = 64
  | .vbst _ _ _ _ => sew = 64
  | .vamaxe _ _ _ _ => sew = 64
  | .vwait _ _ _ => sew = 64
  | .copy _ _ _ => sew = 64
  | .srt _ _ _ => sew = 64
  | _ => True

/-- R101, R119, R138, R141, R195: the operands of an entry fit a VCFG: the SEW is one that the function takes; every width lies in 8 to
64 bits and every effective group in 1/8 to 8, at a register that is a multiple of it; no destination shares a register with a source
of another width; and what single functions ask of the places. -/
def Sys2Proof.Claims.OperandsFit (op : VOp) (vcfg : BitVec 9) : Prop :=
  let sew := sewOf vcfg
  let eg8 (w : Nat) : Nat := g8Of vcfg * w / sew
  let size (q : VecOperand) : Nat := if q.scale then 1 else max 1 (eg8 q.w / 8)
  let n := max 1 (eg8 sew / 8)
  let os := vecOperands op sew n
  let apart (a b : VReg) : Prop := a.val + n ≤ b.val ∨ b.val + n ≤ a.val
  sewFits op sew ∧
  (∀ q ∈ os, q.scale = false → 8 ≤ q.w ∧ q.w ≤ 64 ∧ 1 ≤ eg8 q.w ∧ eg8 q.w ≤ 64 ∧ (8 ≤ eg8 q.w → q.reg % (eg8 q.w / 8) = 0)) ∧
  (∀ q ∈ os, ∀ p ∈ os, q.dst = true → p.src = true → q.w ≠ p.w → q.reg + size q ≤ p.reg ∨ p.reg + size p ≤ q.reg) ∧
  match op with
  | .vgather d a b _ => apart d a ∧ apart d b
  | .vslide _ d a _ => apart d a
  | .vcompress d a _ => apart d a
  | .vrev d a _ => apart d a
  | .vsort _ d a => d = a ∨ apart d a
  | .vmerge _ d a => d = a ∨ apart d a
  | .vsortkv _ d a => apart d a
  | .vwait _ a _ => a.val + 2 * n ≤ 32
  | _ => True

/-- R42, R101, R119, R243, R289, and the classes' own checks: which operands fit; where a vector word traps at issue, and R18, R107
where it waits. On a helm core it traps ILLEGAL, without its capability bit UNDECLARED, with operands that do not fit or over a frozen
queue ILLEGAL, and where its own check fails ILLEGAL, or of a port transfer RUNFAULT; the increment of a port transfer
that fails a check of R181, those of R101 and R119 among them, is cancelled. -/
def Obligations.VectorWordsTurnedAway : Prop :=
  (∀ (op : VOp) (vcfg : BitVec 9), op.operandsOk vcfg = true ↔ OperandsFit op vcfg) ∧
  ∀ (i : Instr) (w : VecWord) (s : State), vectorWord i = some w →
    (s.hart.hst.helm = true → (∀ d, w.op ≠ .sprog d) → (∀ d, w.op ≠ .sabort d) → exec i s = .next (s.trapHere .illegal)) ∧
    (s.hart.hst.helm = false →
      ((∃ k ∈ w.bits, s.useMask.getLsbD k = false) → exec i s = .next (s.trapHere .undeclared)) ∧
      ((∀ k ∈ w.bits, s.useMask.getLsbD k = true) → Free s (w.srcs ++ w.op.sdest.toList) →
        (w.op.operandsOk s.hart.vcfg = false → exec i s = .next (turnedAway s w .illegal)) ∧
        (w.op.operandsOk s.hart.vcfg = true →
          (¬IssueChecks s w.op (w.srcs.map s.hart.reg) →
            exec i s = .next (turnedAway s w (match w.op with
              | .vpt _ _ _ _ _ => .runfault
              | _ => .illegal))) ∧
          (IssueChecks s w.op (w.srcs.map s.hart.reg) →
            (s.hart.queueFrozen = true → exec i s = .next (s.trapHere .illegal)) ∧
            (s.hart.queueFrozen = false → w.tok.isSome = true → ¬MayPost s → exec i s = .next s.freeze) ∧
            (s.hart.queueFrozen = false → (w.tok.isSome = true → MayPost s) → 32 ≤ s.hart.vq.length →
              exec i s = .next s.hold)))))

/-- Every aligned group of registers at width SEW, read with l' lanes, holds below n what it held with l, above it zero (R300). -/
def Sys2Proof.Claims.groupsMoved (s t : Hart) (l l' n : Nat) : Prop :=
  let sew := sewOf s.vcfg
  let size := max 1 (g8Of s.vcfg / 8)
  ∀ k < 32 / size, ∀ i < l' * (256 / sew) * size,
    vget t.v l' sew (k * size) i = if i < n then vget s.v l sew (k * size) i else 0

/-- The elements of the longest vector with l lanes (R100). -/
def Sys2Proof.Claims.longest (h : Hart) (l : Nat) : Nat :=
  let n := 256 / sewOf h.vcfg * l * g8Of h.vcfg / 8
  if h.vcap = 0 then n else min n h.vcap

/-- The hart with its masks cut to n elements (R300). -/
def Sys2Proof.Claims.masksCut (h : Hart) (n : Nat) : Hart :=
  let low : MBits := BitVec.ofNat 8192 (2 ^ n - 1)
  { h with m := h.m.map (· &&& low), fm := h.fm &&& low
           frags := h.frags.map fun f => { f with mask := f.mask &&& low, restore := f.restore &&& low } }

/-- R133: what a `vsetvl` finds pending for its hart, one thing alone. -/
def Sys2Proof.Claims.PendsAlone (s : State) (recl give : Bool) (mir : Option Bool) (spare : Option Nat) : Prop :=
  s.hart.reclPend = recl ∧ s.hart.givePend = give ∧ s.hart.mirrorPend = mir ∧ s.core.sparePend = spare

/-- `vsetvl` and `vcfg` (R98 to R100, R132): the new VL is granted in the front, in the slot of issue. While a change of the
hart's lanes is pending, `vsetvl` holds until the queue has ended, and the change then takes effect first (R133): a reclaim (R299,
R300), a return of lanes (R299), protected mode set or cleared (R314), a sparing (R316). What clearing protected mode leaves in
the masks is log entry 25; that a return waits for nothing more, log entry 29. -/
def Obligations.VectorLengthGranted : Prop :=
  (∀ (d a : SReg) (s : State), IssuesVector s 3 [a, d] → s.boundaryPending = true → s.queueQuiet = false →
    exec (.vsetvl d a) s = .next s.hold) ∧
  (∀ (d a : SReg) (s : State), IssuesVector s 3 [a, d] → s.queueQuiet = true → vcfgOk s.hart.vcfg = true →
    let l := s.hart.leff
    let hart := s.hart
    let grants (u : State) : Prop :=
      let vl := min (s.hart.reg a).toNat (longest u.hart u.hart.leff)
      exec (.vsetvl d a) s = .next (withResult { u with hart := { u.hart with vl := vl } } d (BitVec.ofNat 64 vl) 1).advance
    let split (x : Nat) (f : Fin 4) : Prop := f.val = Nat.log2 (32 / x)
    (PendsAlone s true false none none → hart.lanes ∈ [8, 16, 32] → (hart.hst.prot = true → 16 ≤ hart.lanes) →
      ((∀ k < 8, (s.getHart { s.cur with hid := k }).lanes ≠ 0) → grants s) ∧
      ∀ k < 8, (s.getHart { s.cur with hid := k }).lanes = 0 → (∀ j < k, (s.getHart { s.cur with hid := j }).lanes ≠ 0) →
        ∃ u, grants u ∧ groupsMoved hart u.hart l (l / 2) (longest hart (l / 2)) ∧ split (hart.lanes / 2) u.hart.hst.split ∧
          u.hart = { masksCut hart (longest hart (l / 2)) with
            v := u.hart.v, lanes := hart.lanes / 2, gave := k :: hart.gave, reclPend := false
            hst := { hart.hst with split := u.hart.hst.split } } ∧
          u.getHart { s.cur with hid := k } = { Hart.reset { s.cur with hid := k } with
            lanes := hart.lanes / 2, lane0 := hart.lane0 + hart.lanes / 2
            hst := { (Hart.reset { s.cur with hid := k }).hst with split := u.hart.hst.split } } ∧
          u = { s with hart := u.hart, harts := u.harts }) ∧
    (∀ k rest, PendsAlone s false true none none → hart.lanes ∈ [4, 8, 16] → (hart.hst.prot = true → 8 ≤ hart.lanes) →
      hart.gave = k :: rest → k ≠ s.cur.hid →
      ∃ u, grants u ∧ groupsMoved hart u.hart l (2 * l) (l * (256 / sewOf hart.vcfg) * max 1 (g8Of hart.vcfg / 8)) ∧
        split (2 * hart.lanes) u.hart.hst.split ∧
        u.hart = { hart with
          v := u.hart.v, lanes := 2 * hart.lanes, gave := rest, givePend := false
          hst := { hart.hst with split := u.hart.hst.split } } ∧
        u.getHart { s.cur with hid := k } = { s.getHart { s.cur with hid := k } with lanes := 0, leaving := false } ∧
        u = { s with hart := u.hart, harts := u.harts }) ∧
    (PendsAlone s false false (some true) none → hart.hst.prot = false → hart.lanes ∈ [8, 16, 32] →
      ∃ u, grants u ∧ groupsMoved hart u.hart l (l / 2) (longest hart (l / 2)) ∧
        (∀ (r : VReg) (j : Nat), j < 256 * (l / 2) → u.hart.v[r].getLsbD (256 * (l / 2) + j) = u.hart.v[r].getLsbD j) ∧
        u = { s with hart := { masksCut hart (longest hart (l / 2)) with
          v := u.hart.v, mirrorPend := none, hst := { hart.hst with prot := true } } }) ∧
    (PendsAlone s false false (some false) none → hart.hst.prot = true → hart.lanes ∈ [8, 16, 32] →
      ∃ u, grants u ∧
        (∀ (r : VReg) (j : Nat), u.hart.v[r].getLsbD j = (decide (j < 256 * l) && hart.v[r].getLsbD j)) ∧
        (∀ (r : MReg) (slot lane : Nat), slot < 256 → lane < l →
          u.hart.m[r].getLsbD (slot * (2 * l) + lane) = hart.m[r].getLsbD (slot * l + lane) ∧
          u.hart.m[r].getLsbD (slot * (2 * l) + l + lane) = false) ∧
        u = { s with hart := { hart with
          v := u.hart.v, m := u.hart.m, mirrorPend := none, hst := { hart.hst with prot := false } } }) ∧
    (∀ lane < 32, PendsAlone s false false none (some lane) → s.hart.ownsLane lane = true → s.pkg.mem.wf = true →
      let entry : Nat := 0x20000000000 + s.cur.die * 0x400000 + 0x37E000 + 32 * (5 * s.cur.quad + s.cur.core)
      ∃ u, grants u ∧ bitsOf (u.pkg.mem.word (entry + 24)) 7 0 = 128 + lane ∧
        (∀ x, x < entry + 24 ∨ entry + 32 ≤ x → u.pkg.mem.read x = s.pkg.mem.read x) ∧
        u = { s with core := { s.core with spare := some lane, sparePend := none }, pkg := { s.pkg with mem := u.pkg.mem } })) ∧
  (∀ (d a : SReg) (s : State), IssuesVector s 3 [a, d] → s.boundaryPending = false →
    let n := 256 / sewOf s.hart.vcfg * s.hart.leff * g8Of s.hart.vcfg / 8
    let vlmax := if s.hart.vcap = 0 then n else min n s.hart.vcap
    let vl := min (s.hart.reg a).toNat vlmax
    exec (.vsetvl d a) s =
      .next (withResult { s with hart := { s.hart with vl := vl } } d (BitVec.ofNat 64 vl) 1).advance) ∧
  ∀ (d a b : SReg) (s : State), IssuesVector s 3 [a, b, d] →
    let x := s.hart.reg a
    let y := s.hart.reg b
    let vcfg : BitVec 9 := x.setWidth 9
    let cap := y.toNat % 2 ^ 14
    let n := 256 / sewOf vcfg * s.hart.leff * g8Of vcfg / 8
    let vl := min s.hart.vl (if cap = 0 then n else min n cap)
    let reserved := x.toNat / 2 ^ 9 ≠ 0 ∨ y.toNat / 2 ^ 14 ≠ 0 ∨ x.toNat / 4 % 8 = 4 ∨ x.toNat / 32 % 4 = 3
    (reserved → exec (.vcfg d a b) s = .next (s.trapHere .illegal)) ∧
    (¬reserved → exec (.vcfg d a b) s =
      .next (withResult { s with hart := { s.hart with vcfg := vcfg, vcap := cap, vl := vl } } d (BitVec.ofNat 64 vl)
        1).advance)

/-! ### Vector entries: what an entry does when it starts -/

/-- Element i of the group at a register, at a width, under the hart's geometry (R97). -/
def Sys2Proof.Claims.element (h : Hart) (w : Nat) (r : VReg) (i : Nat) : Nat := vget h.v h.leff w r.val i

/-- The head of the queue starts: nothing freezes or holds it back, it is due, none of its registers races (R107 to R109,
R191, R289, R291), its operands fit and its length lies in its group; no element of it was done before. -/
structure Sys2Proof.Claims.Starts (s : State) (x : VEntry) (rest : List VEntry) : Prop where
  head : s.hart.vq = x :: rest
  thawed : s.hart.queueFrozen = false
  passed : s.heldBack x.op = false
  due : s.hart.beat ≤ s.hart.slot ∧ x.slot ≤ s.hart.slot
  live : s.hart.frozen = 0
  unraced :
    let g := s.hart.geo { x with fm := s.hart.fm }
    s.hart.raceAt g.us g.w g.n g.g8 g.sew (tpOf x.vcfg && decide (x.vl ≠ 0)) (max s.hart.beat x.slot) x.id = none
  operands : x.op.operandsOk x.vcfg = true
  length : x.vl ≤ vlmaxOf s.hart.leff x.vcfg 0
  lanes : 0 < s.hart.leff ∧ s.hart.lanes ≤ 32
  whole : x.dones = []

/-- The predicate bit an entry sees at a position (R103). -/
def Sys2Proof.Claims.selected (s : State) (x : VEntry) (i : Nat) : Bool :=
  decide (x.op.msel = 0) || s.hart.m[x.op.msel].getLsbD i

/-- Element i is active (R103). -/
def Sys2Proof.Claims.activeAt (s : State) (x : VEntry) (i : Nat) : Bool :=
  decide (i < x.vl) && s.hart.fm.getLsbD i && selected s x i

/-- Element i of the B operand at a width (R118). -/
def Sys2Proof.Claims.operandB (s : State) (x : VEntry) (w : Nat) (shift : Bool) (b : VSrc) (i : Nat) : Nat :=
  match b with
  | .vec r => element s.hart w r i
  | .scal _ => (x.sv.headD 0).toNat % 2 ^ w
  | .imm k => if shift then k.toNat else (k.signExtend w).toNat

/-- What a fixed-latency entry with a vector destination computes: the destination's width and register, the latency
(R122, R134), and the value and flags of each active element (R123 to R127, R134). -/
structure Sys2Proof.Claims.VectorFn where
  w : Nat
  d : VReg
  lat : Nat
  f : Nat → Nat × FFlags

/-- The same where a B operand is read in another state: one that is narrower than A may meet other writes under way (R121). -/
def Sys2Proof.Claims.vectorFnB (s sb : State) (x : VEntry) : Option VectorFn :=
  let sew := sewOf x.vcfg
  let rm := x.rm
  let at' (w : Nat) (r : VReg) (i : Nat) : Nat := element s.hart w r i
  match x.op with
  | .vin f d a b _ =>
    let w := f.widths sew
    some ⟨w.2.2, d, f.lat, fun i => (f.eval sew (at' w.1 a i) (operandB sb x w.2.1 f.isShift b i) (at' w.2.2 d i), 0)⟩
  | .vfa f fmt d a b _ => some ⟨sew, d, f.lat, fun i => f.eval fmt rm (at' sew a i) (operandB sb x sew false b i)⟩
  | .vfclass fmt d a _ => some ⟨sew, d, 2, fun i => (fClass fmt (at' sew a i), 0)⟩
  | .vfw f d a b _ =>
    let wa := if f = .addw ∨ f = .subw then 2 * sew else sew
    some ⟨2 * sew, d, 4, fun i => f.eval rm (at' wa a i) (operandB sb x sew false b i)⟩
  | .vfm f k d a b _ =>
    let wd := if k = .wide then 2 * sew else sew
    some ⟨wd, d, 5, fun i => f.eval k rm (at' sew a i) (operandB sb x sew false b i) (at' wd d i)⟩
  | .vcv f d a _ =>
    let w := f.widths sew
    some ⟨w.1, d, 3, fun i => f.eval sew rm (at' w.2 a i)⟩
  | .viota d a _ =>
    some ⟨sew, d, 3, fun i => (((List.range i).filter fun j => activeAt s x j && s.hart.m[a].getLsbD j).length, 0)⟩
  | .vid d _ => some ⟨sew, d, 3, fun i => (i, 0)⟩
  | _ => none

def Sys2Proof.Claims.vectorFn (s : State) (x : VEntry) : Option VectorFn := vectorFnB s s x

/-- Registers of a group of width w (R101). -/
def Sys2Proof.Claims.groupSize (x : VEntry) (w : Nat) : Nat := max 1 (g8Of x.vcfg * w / sewOf x.vcfg / 8)

/-- The beats an entry occupies (R107), w the widest of its operands. -/
def Sys2Proof.Claims.beatCount (s : State) (x : VEntry) (w : Nat) : Nat :=
  max 1 (((x.vl + s.hart.leff - 1) / s.hart.leff * w + 63) / 64)

/-- The lowest active element that raised a flag, plus one, in the order of XI; 0 where none did (R111). -/
def Sys2Proof.Claims.lowests (s : State) (x : VEntry) (f : Nat → FFlags) : List Nat :=
  [4, 3, 2, 1, 0].map fun k =>
    match (List.range x.vl).find? (fun i => activeAt s x i && (f i).getLsbD k) with
    | some i => i + 1
    | none => 0

/-- The OR of the flags of the active elements (R111). -/
def Sys2Proof.Claims.raisedAll (s : State) (x : VEntry) (f : Nat → FFlags) : FFlags :=
  (List.range x.vl).foldl (fun a i => if activeAt s x i then a ||| f i else a) 0

/-- R103, R104, R107, R111, R120 to R127, R134: a fixed-latency entry with a vector destination takes the start beats it needs,
writes f to the active elements, fills the others as TP and MP say, leaves every other register and all else (but the marks of
lost slices that it writes again, R315), and its flags merge when its last group is written. R105: at VL = 0 the same entries
write nothing and raise nothing, whatever TP says. -/
def Obligations.FixedLatencyResults : Prop :=
  (∀ (s : State) (x : VEntry) (rest : List VEntry) (p : VectorFn), Starts s x rest → vectorFn s x = some p → 0 < x.vl →
    let b := max s.hart.beat x.slot
    let n := beatCount s x (widest (x.op.uses (sewOf x.vcfg) (groupSize x (sewOf x.vcfg))))
    let flags := raisedAll s x fun i => (p.f i).2
    ∃ t, exec .vectorEntryStart s = .next t ∧
      t = { s with
        core := { s.core with unwritten := t.core.unwritten }
        hart := { s.hart with
          v := t.hart.v, vpend := t.hart.vpend, vq := rest
          beat := b + (if s.hart.hst.prot then n - 1 + p.lat else n)
          merges := s.hart.merges ++
            (if flags = 0 then ([] : List Merge) else [⟨x.id, b + n - 1 + p.lat, flags, lowests s x fun i => (p.f i).2⟩]) } } ∧
      (∀ w ∈ t.core.unwritten, w ∈ s.core.unwritten) ∧
      (∀ i < x.vl, element t.hart p.w p.d i =
        if activeAt s x i then (p.f i).1 % 2 ^ p.w
        else if s.hart.fm.getLsbD i && mpOf x.vcfg then 0 else element s.hart p.w p.d i) ∧
      (∀ i, x.vl ≤ i → i < s.hart.leff * (256 / p.w) * groupSize x p.w →
        element t.hart p.w p.d i = if tpOf x.vcfg then 0 else element s.hart p.w p.d i) ∧
      (∀ r : VReg, r.val < p.d.val ∨ p.d.val + groupSize x p.w ≤ r.val → t.hart.v[r] = s.hart.v[r])) ∧
  ∀ (s : State) (x : VEntry) (rest : List VEntry), Starts s x rest → x.vl = 0 →
    ((vectorFn s x).isSome = true ∨ (∃ r d a b m, x.op = .vcpi r d a b m) ∨ (∃ r f d a b m, x.op = .vcpf r f d a b m) ∨
      (∃ f d a b m, x.op = .vmk2 f d a b m) ∨ (∃ f d a m, x.op = .vmk1 f d a m)) →
    ∃ t, exec .vectorEntryStart s = .next t ∧ t.hart.v = s.hart.v ∧ t.hart.m = s.hart.m ∧ t.hart.vq = rest ∧
      t.hart.merges = s.hart.merges ∧ t.pkg = s.pkg ∧ t.core = s.core ∧ t.quad = s.quad

/-- 02_instruction_words.md, R39: the capability bit of a word that no core and no mode refuses, and the scalar registers it reads
or writes. -/
def Sys2Proof.Claims.scalarNeed : Instr → Option (Nat × List SReg)
  | .add _ d a b | .sub _ d a b | .and _ d a b | .or _ d a b | .xor _ d a b | .andn _ d a b | .sll _ d a b | .srl _ d a b
  | .sra _ d a b | .ror _ d a b | .slt _ d a b | .sltu _ d a b | .seq _ d a b | .min _ d a b | .max _ d a b | .minu _ d a b
  | .maxu _ d a b | .sel _ d a b => some (0, [a, b, d])
  | .mul _ d a b | .mulh _ d a b | .mulhu _ d a b | .mulhsu _ d a b => some (1, [a, b, d])
  | .slli _ d a _ | .srli _ d a _ | .srai _ d a _ | .rori _ d a _ => some (0, [a, d])
  | .addi d a _ | .andi d a _ | .ori d a _ | .xori d a _ => some (0, [a, d])
  | .lhi d _ | .adpc d _ => some (0, [d])
  | .beq a b _ | .bne a b _ | .blt a b _ | .bge a b _ | .bltu a b _ | .bgeu a b _ => some (0, [a, b])
  | .j _ => some (0, [])
  | .call _ => some (0, [31])
  | .jr d a => some (0, [a, d])
  | .ldc _ d a _ | .ldcs _ d a _ | .stc _ d a _ => some (0, [a, d])
  | .div d a b _ | .divu d a b _ | .rem d a b _ | .remu d a b _ | .divw d a b _ | .divuw d a b _ | .remw d a b _
  | .remuw d a b _ => some (1, [a, b, d])
  | .isqrt d a _ => some (1, [a, d])
  | .fsqrt d a _ => some (2, [a, d])
  | .fadd d a b | .fsub d a b | .fmul d a b | .fmadd d a b | .fmsub d a b | .fnmsub d a b | .feq d a b | .flt d a b
  | .fle d a b | .fmin d a b | .fmax d a b | .fsgnj d a b | .fsgnjn d a b | .fsgnjx d a b => some (2, [a, b, d])
  | .fclass d a | .cvtfs d a | .cvtfu d a | .cvtfsz d a | .cvtfuz d a | .cvtsf d a | .cvtuf d a | .cvtfh d a
  | .cvthf d a => some (2, [a, d])
  | .nop | .dly _ | .tkwDrain _ | .scall | .brk => some (0, [])
  | .tkwThreshold _ a | .tkc _ a | .fenc a => some (0, [a])
  | .tkr d _ => some (0, [d])
  | .rmk d a b | .pbind d a b => some (0, [a, b, d])
  | .rseal d a | .rrel d a | .rmark d a | .rhdr d a => some (0, [a, d])
  | .rview d a b => some (19, [a, b, d])
  | .punbind d _ | .pseal d _ | .ppos d _ | .phnd d _ | .pstat d _ => some (0, [d])
  | .pseek d _ b => some (0, [b, d])
  | .bld d a _ _ | .bst d a _ | .bstk d a _ _ => some (0, [a, d])
  | .aadd d a b _ _ | .amax d a b _ _ | .amin d a b _ _ | .aswp d a b _ _ | .acas d a b _ _ => some (20, [a, b, d])
  | .amaxe d a b _ _ | .amine d a b _ _ => some (13, [a, b, d])
  | .tspawn d a | .sopen d a | .scancel d a | .sclose d a | .grend d a | .gfree d a => some (21, [a, d])
  | .tretire => some (21, [])
  | .tscope d | .titer d | .sself d => some (21, [d])
  | .sread d a b | .swait d a b | .grbeg d a b | .gadd d a b | .gdep d a b | .grplay d a b _ => some (21, [a, b, d])
  | .bjoin _ d a | .bleave _ d a => some (0, [a, d])
  | .bwait _ d a b => some (0, [a, b, d])
  | .cform d a b => some (22, [a, b, d])
  | .callr d a | .cabort d a | .lkstat d a => some (22, [a, d])
  | .cid d => some (22, [d])
  | _ => none

/-- The head of the queue is due, and one of its registers races: `r` its number and kind, 1 for vector and 2 for mask (R107, R108,
R286). -/
structure Sys2Proof.Claims.Races (s : State) (x : VEntry) (rest : List VEntry) (r : Nat × Nat) : Prop where
  head : s.hart.vq = x :: rest
  thawed : s.hart.queueFrozen = false
  passed : s.heldBack x.op = false
  due : s.hart.beatDue x = true
  raced :
    let g := s.hart.geo { x with fm := s.hart.fm }
    s.hart.raceAt g.us g.w g.n g.g8 g.sew (tpOf x.vcfg && decide (x.vl ≠ 0)) (max s.hart.beat x.slot) x.id = some r

/-- R27, R40, R42, R108, R109, R286, R289, R304: a word whose capability bit is not declared traps UNDECLARED, in supervisor
mode where the core does not hold it; in checked mode a scalar word that reads or writes a pending register traps RACE, naming
one that is pending, and a vector entry that meets a group before it can be read, or a register that a posting operation holds,
traps RACE deferred with its counters zero; in unchecked mode each read gives the old or the new value and each write leaves one
of the two. Which they are is free (log entries 1 and 6), and before a posting operation has formed its value only the old one
is there (log entry 48); that RACE goes before the operand checks is the model's choice (log entry 7); the beat in which a
posting entry reads a group is log entry 99. R108: the registers of a fixed-latency entry's destination are pending group by
group: group g, read in beat g of the entry, until beat b + g + L, and never a bit of any longer than the last group. -/
def Obligations.RacesAndUndeclared : Prop :=
  ((∀ (i : Instr) (bit : Nat) (rs : List SReg) (s : State), scalarNeed i = some (bit, rs) →
    let mask : Word := if s.hart.hst.mode then s.pkg.mem.word (capAddr s.cur.die s.cur.quad s.cur.core 0)
      else match s.hart.ctx with | some c => c.use | none => 0
    (mask.getLsbD bit = false → exec i s = .next (s.trapHere .undeclared)) ∧
    (mask.getLsbD bit = true → s.hart.hst.rchk = true → (∃ r ∈ rs, s.hart.pendingReg r = true) →
      ∃ r ∈ rs, s.hart.pendingReg r = true ∧ exec i s = .next (s.trapHere .race r.val))) ∧
  -- an unchecked race of one scalar word
  (∀ (z : Size) (d a b : SReg) (s : State) (x : Infl), s.useMask.getLsbD 0 = true → s.hart.hst.rchk = false → s.hart.pendS = [] →
    s.hart.infl = [x] → a ≠ b → d ≠ 0 →
    let bank (r : SReg) : Dest := .sreg (s.hart.hst.mode && decide (28 ≤ r.val)) r
    let sum (u v : Word) : Word := ((u.setWidth z.bits) + (v.setWidth z.bits)).signExtend 64
    let later (t : State) : State := { t with fresh := s.fresh + 64 }
    (a ≠ 0 → x.dest = bank a → d ≠ a → ∃ v, (v = s.hart.reg a ∨ v = x.val) ∧
      exec (.add z d a b) s = .next (later (withResult s d (sum v (s.hart.reg b)) 1).advance)) ∧
    (x.dest = bank d → d ≠ a → d ≠ b →
      let u : State := { s with hart := { s.hart with infl := [] } }
      exec (.add z d a b) s = .next (later (withResult u d (sum (s.hart.reg a) (s.hart.reg b)) 1).advance) ∨
      exec (.add z d a b) s = .next (later s.advance))) ∧
  -- vector entries
  (∀ (s : State) (x : VEntry) (rest : List VEntry) (r : Nat × Nat), Races s x rest r → s.hart.hst.rchk = true → Quiet s →
    (∀ y ∈ rest, y.id ≠ x.id) → (∀ o ∈ s.core.pipe ++ s.core.net, o.hid = s.cur.hid → x.id ≤ o.ent.id) →
    let tk : Tok := match x.tok with | some tk => tk | none => 0
    let n := if x.tok = none then 0 else 1
    ∃ t, exec .vectorEntryStart s = .next t ∧ t.hart.vq = { x with fm := s.hart.fm } :: rest ∧ t.hart.v = s.hart.v ∧
      t.hart.m = s.hart.m ∧ t.hart.xst = s.hart.xst ∧ t.hart.pc = s.hart.svec ∧ t.hart.hst = { s.hart.hst with mode := true } ∧
      t.hart.trpc = x.addr % 2 ^ 48 ∧ t.hart.trfrom = s.hart.pc % 2 ^ 48 ∧ t.hart.trlg = Vector.replicate 8 0 ∧
      t.hart.trcause = BitVec.ofNat 64 ((r.1 + 64 * r.2) % 2 ^ 32 * 2 ^ 32 + tk.val * 2 ^ 16 + n * 2 ^ 15 + 2 ^ 14 + 2 ^ 12 +
        s.hart.hst.mode.toNat * 2 ^ 8 + 0xA) ∧
      t.hart.token x.sup tk = ⟨(s.hart.token x.sup tk).cnt + BitVec.ofNat 32 n, (s.hart.token x.sup tk).out - n⟩) ∧
  (∀ (s : State) (x : VEntry) (u : VUse),
    let g := s.hart.geo x
    let b := max s.hart.beat x.slot
    let len := 64 * u.w / g.w
    let group (k : Nat) : Prop := u.kind = .groups ∧ k < g.n ∧ ∃ p ∈ s.hart.vpend, p.mask = u.mask ∧
      p.reg = u.reg + k * len / 256 ∧ p.lo < k * len % 256 + len ∧ k * len % 256 < p.lo + p.len ∧ b + k < p.ready
    let kept : Prop := ∃ h ∈ s.hart.vholds, h.id ≠ x.id ∧ h.mask = u.mask ∧ (h.dest = true ∨ u.dst = true) ∧
      h.reg < (u.span g.g8 g.sew).1 + (u.span g.g8 g.sew).2 ∧ (u.span g.g8 g.sew).1 < h.reg + h.num
    u ∈ g.us → (∃ k, group k) ∨ kept → s.hart.raceAt g.us g.w g.n g.g8 g.sew (tpOf x.vcfg && decide (x.vl ≠ 0)) b x.id ≠ none) ∧
  ∀ (s : State) (x : VEntry) (rest : List VEntry) (r : Nat × Nat), Races s x rest r → s.hart.hst.rchk = false →
    s.hart.hst.prot = false → x.op.operandsOk x.vcfg = true → 0 < x.vl → x.vl ≤ vlmaxOf s.hart.leff x.vcfg 0 →
    0 < s.hart.leff ∧ s.hart.lanes ≤ 32 → x.dones = [] → (vectorFn s x).isSome = true →
    let g := s.hart.geo { x with fm := s.hart.fm }
    let b := max s.hart.beat x.slot
    -- writes under way cover whole elements of every operand
    (∀ p ∈ s.hart.vpend, ∀ u ∈ g.us, p.mask = u.mask → p.lo % u.w = 0 ∧ p.len % u.w = 0) →
    ∃ (t : State) (v vb : VFile) (m : MFile), exec .vectorEntryStart s = .next t ∧ t.hart.vq = rest ∧
      let read : State := { s with hart := { s.hart with v := v, m := m } }
      let readB : State := { s with hart := { s.hart with v := vb } }
      -- element i of a group is read, or written, before the write p under way makes it readable
      let early (p : VPend) (i : Nat) : Prop := p ∈ s.hart.vpend ∧ b + i / s.hart.leff * g.w / 64 < p.ready
      -- a posting operation has still to deliver registers, and has formed them
      let posted (h : VHold) (new : VFile × MFile) : Prop := h ∈ s.hart.vholds ∧ h.id ≠ x.id ∧ h.dest = true ∧
        s.formedFiles h.id = some new
      let oldOrNew (f : VFile) (u : VUse) (i : Nat) : Prop := ∀ e : VReg, e.val = u.reg →
        let is (f' : VFile) : Prop := vget f s.hart.leff u.w e.val i = vget f' s.hart.leff u.w e.val i
        is s.hart.v ∨ (∃ p, early p i ∧ p.mask = false ∧ ∃ q : VReg, q.val = p.reg ∧ is (s.hart.v.set q p.old)) ∨
        ∃ h new, posted h new ∧ h.mask = false ∧ ∃ q : VReg, h.reg ≤ q.val ∧ q.val < h.reg + h.num ∧ is (s.hart.v.set q new.1[q])
      let narrow (u : VUse) : Prop := u.w = g.sew ∧ u.dst = false ∧
        ∃ a ∈ g.us, a.src = true ∧ a.dst = false ∧ a.mask = false ∧ a.w ≠ g.sew
      (∀ u ∈ g.us, u.src = true → ∀ i < x.vl,
        (u.mask = false → ¬narrow u → oldOrNew v u i) ∧ (u.mask = false → narrow u → oldOrNew vb u i) ∧
        (u.mask = true → ∀ e : MReg, e.val = u.reg → m[e].getLsbD i = s.hart.m[e].getLsbD i ∨
          (∃ p, early p i ∧ p.mask = true ∧ p.reg = u.reg ∧ m[e].getLsbD i = p.old.getLsbD i) ∨
          ∃ h new, posted h new ∧ h.mask = true ∧ h.reg ≤ u.reg ∧ u.reg < h.reg + h.num ∧ m[e].getLsbD i = new.2[e].getLsbD i)) ∧
      ((∀ u ∈ g.us, u.src = true → ¬narrow u) → vb = v) ∧
      ∀ p, vectorFnB read readB x = some p → ∀ i < x.vl, activeAt read x i = true →
        element t.hart p.w p.d i = (p.f i).1 % 2 ^ p.w ∨
        (element t.hart p.w p.d i = element s.hart p.w p.d i ∧ ∃ q, early q i ∧ q.mask = false)) ∧
  ∀ (s : State) (x : VEntry) (rest : List VEntry) (p : VectorFn), Starts s x rest → vectorFn s x = some p → 0 < x.vl →
    let b := max s.hart.beat x.slot
    let wide := widest (x.op.uses (sewOf x.vcfg) (groupSize x (sewOf x.vcfg)))
    let n := beatCount s x wide
    let len := 64 * p.w / wide
    ∃ t, exec .vectorEntryStart s = .next t ∧
      (∀ g < n, ∃ q ∈ t.hart.vpend, q.mask = false ∧ q.reg = (p.d.val + g * len / 256) % 32 ∧ q.lo = g * len % 256 ∧
        q.len = len ∧ q.ready = b + g + p.lat) ∧
      ∀ q ∈ t.hart.vpend, q ∉ s.hart.vpend → b + p.lat ≤ q.ready ∧ q.ready ≤ b + n - 1 + p.lat

/-- What an entry with a mask destination computes of each active bit (R128, R134). -/
structure Sys2Proof.Claims.MaskFnOf where
  d : MReg
  f : Nat → Bool × FFlags

def Sys2Proof.Claims.maskFn (s : State) (x : VEntry) : Option MaskFnOf :=
  let sew := sewOf x.vcfg
  let at' (r : VReg) (i : Nat) : Nat := element s.hart sew r i
  let bit (r : MReg) (i : Nat) : Bool := s.hart.m[r].getLsbD i
  let first (a : MReg) : Option Nat := (List.range x.vl).find? fun i => activeAt s x i && bit a i
  match x.op with
  | .vcpi r d a b _ => some ⟨d, fun i => (r.eval sew (at' a i) (operandB s x sew false b i), 0)⟩
  | .vcpf r fmt d a b _ => some ⟨d, fun i => r.eval fmt (at' a i) (operandB s x sew false b i)⟩
  | .vmk2 f d a b _ => some ⟨d, fun i => (f.eval (bit a i) (bit b i), 0)⟩
  | .vmk1 .sbf d a _ => some ⟨d, fun i => ((first a).all (fun k => decide (i < k)), 0)⟩
  | .vmk1 .sif d a _ => some ⟨d, fun i => ((first a).all (fun k => decide (i ≤ k)), 0)⟩
  | .vmk1 .sof d a _ => some ⟨d, fun i => ((first a).any (fun k => decide (i = k)), 0)⟩
  | _ => none

/-- R103, R104, R107, R111, R128, R134: compares and mask functions write the active bits of their mask, the others as TP and MP
say; every source bit is read before a bit is written (R135). R134, R135, R105: `vmpopc` and `vmfirst` write element 0 whatever
is active, leave the elements below VL, and apply the tail policy above it unless VL is 0. -/
def Obligations.MaskResults : Prop :=
  (∀ (s : State) (x : VEntry) (rest : List VEntry) (p : MaskFnOf), Starts s x rest → maskFn s x = some p → 0 < x.vl →
    let b := max s.hart.beat x.slot
    let n := beatCount s x (widest (x.op.uses (sewOf x.vcfg) (groupSize x (sewOf x.vcfg))))
    let flags := raisedAll s x fun i => (p.f i).2
    ∃ t, exec .vectorEntryStart s = .next t ∧
      t = { s with
        core := { s.core with unwritten := t.core.unwritten }
        hart := { s.hart with
          m := t.hart.m, vpend := t.hart.vpend, vq := rest
          beat := b + (if s.hart.hst.prot then n - 1 + 2 else n)
          merges := s.hart.merges ++
            (if flags = 0 then ([] : List Merge) else [⟨x.id, b + n - 1 + 2, flags, lowests s x fun i => (p.f i).2⟩]) } } ∧
      (∀ w ∈ t.core.unwritten, w ∈ s.core.unwritten) ∧
      (∀ i < 8192, t.hart.m[p.d].getLsbD i =
        if activeAt s x i then (p.f i).1
        else if x.vl ≤ i then !tpOf x.vcfg && s.hart.m[p.d].getLsbD i
        else !(s.hart.fm.getLsbD i && mpOf x.vcfg) && s.hart.m[p.d].getLsbD i) ∧
      ∀ k : MReg, k ≠ p.d → t.hart.m[k] = s.hart.m[k]) ∧
  ∀ (s : State) (x : VEntry) (rest : List VEntry) (d : VReg) (a : MReg) (m : MSel), Starts s x rest →
    let sew := sewOf x.vcfg
    let on (i : Nat) : Bool := activeAt s x i && s.hart.m[a].getLsbD i
    let out (r : Nat) : Prop := ∃ t, exec .vectorEntryStart s = .next t ∧ t.hart.vq = rest ∧ t.hart.m = s.hart.m ∧
      element t.hart sew d 0 = r ∧ (∀ i, 0 < i → i < x.vl → element t.hart sew d i = element s.hart sew d i) ∧
      ∀ i, 0 < i → x.vl ≤ i → i < s.hart.leff * (256 / sew) * groupSize x sew →
        element t.hart sew d i = if tpOf x.vcfg = true ∧ 0 < x.vl then 0 else element s.hart sew d i
    (x.op = .vmpopc d a m → out ((List.range x.vl).filter on).length) ∧
    (x.op = .vmfirst d a m → out (((List.range x.vl).find? on).getD (2 ^ sew - 1)))

/-- R97: what is written to an element is read back, cut to the width, and every other element of the group, every register
outside it, stays. R123 with R122: the integer functions at every SEW that R119 admits, against the machine words they stand
for. R53, R59, R60, R86, R87, R124 to R128, R134, R140 against the number formats: the classes of an encoding, the comparisons
(an infinity lies beyond every finite value in `fpValue`), the floating-point functions with their NaN order, the conversions
with their widths, the relations and mask functions, and the keys of the sorts. -/
def Obligations.VectorElementFunctions : Prop :=
  (∀ (v : VFile) (leff w base regs i j x : Nat), w ∈ [8, 16, 32, 64] → 0 < leff → leff ≤ 32 → base + regs ≤ 32 →
    i < leff * (256 / w) * regs → j < leff * (256 / w) * regs →
    vget (vput v leff w base i x) leff w base j = (if i = j then x % 2 ^ w else vget v leff w base j) ∧
    (∀ r : VReg, r.val < base ∨ base + regs ≤ r.val → (vput v leff w base i x)[r] = v[r])) ∧
  (∀ (w : Nat) (x y z : BitVec w) (wide : BitVec (2 * w)), w ∈ [8, 16, 32, 64] →
    let ev (f : VinFn) : Nat := f.eval w x.toNat y.toNat z.toNat
    let k := y.toNat % w
    let clamp (v : Int) : BitVec w := BitVec.ofInt w (max (-2 ^ (w - 1)) (min (2 ^ (w - 1) - 1) v))
    let shifted : Int := wide.toInt / 2 ^ (y.toNat % (2 * w))
    ev .add = (x + y).toNat ∧ ev .sub = (x - y).toNat ∧ ev .rsub = (y - x).toNat ∧ ev .and = (x &&& y).toNat ∧
    ev .or = (x ||| y).toNat ∧ ev .xor = (x ^^^ y).toNat ∧ ev .sll = (x <<< k).toNat ∧ ev .srl = (x >>> k).toNat ∧
    ev .sra = (x.sshiftRight k).toNat ∧ ev .mv = y.toNat ∧ ev .mul = (x * y).toNat ∧
    ev .mulh = (BitVec.ofInt w (x.toInt * y.toInt / 2 ^ w)).toNat ∧
    ev .mulhu = (BitVec.ofNat w (x.toNat * y.toNat / 2 ^ w)).toNat ∧
    ev .mulhsu = (BitVec.ofInt w (x.toInt * (y.toNat : Int) / 2 ^ w)).toNat ∧ ev .macc = (z + x * y).toNat ∧
    ev .min = (if x.toInt ≤ y.toInt then x else y).toNat ∧ ev .max = (if x.toInt ≤ y.toInt then y else x).toNat ∧
    ev .minu = min x.toNat y.toNat ∧ ev .maxu = max x.toNat y.toNat ∧
    ev .sadd = (clamp (x.toInt + y.toInt)).toNat ∧ ev .ssub = (clamp (x.toInt - y.toInt)).toNat ∧
    ev .saddu = min (x.toNat + y.toNat) (2 ^ w - 1) ∧ ev .ssubu = x.toNat - y.toNat ∧
    ev .wadd = (x.signExtend (2 * w) + y.signExtend (2 * w)).toNat ∧
    ev .waddu = (x.setWidth (2 * w) + y.setWidth (2 * w)).toNat ∧
    ev .wsub = (x.signExtend (2 * w) - y.signExtend (2 * w)).toNat ∧
    ev .wsubu = (x.setWidth (2 * w) - y.setWidth (2 * w)).toNat ∧
    ev .wmul = (x.signExtend (2 * w) * y.signExtend (2 * w)).toNat ∧
    ev .wmulu = (x.setWidth (2 * w) * y.setWidth (2 * w)).toNat ∧
    VinFn.nsra.eval w wide.toNat y.toNat 0 = (BitVec.ofInt w shifted).toNat ∧
    VinFn.nclip.eval w wide.toNat y.toNat 0 = (clamp shifted).toNat ∧
    ∀ f : VinFn, f.lat =
      if f ∈ [.mul, .mulh, .mulhu, .mulhsu, .macc, .wmul, .wmulu] then 4 else if f ∈ [.nsra, .nclip] then 3 else 2) ∧
  (∀ (f : FFmt) (rm : Rm) (x y z : Nat), x < 2 ^ (9 + f.frac) → y < 2 ^ (9 + f.frac) → z < 2 ^ (9 + f.frac) →
    let F := f.frac
    let sign (n : Nat) : Nat := n / 2 ^ (8 + F)
    let mag (n : Nat) : Nat := n % 2 ^ (8 + F)
    let ex (n : Nat) : Nat := n / 2 ^ F % 256
    let fr (n : Nat) : Nat := n % 2 ^ F
    let signed (s n : Nat) : Nat := s % 2 * 2 ^ (8 + F) + mag n
    let neg (n : Nat) : Nat := signed (sign n + 1) n
    let nan (n : Nat) : Prop := ex n = 255 ∧ fr n ≠ 0
    let sig (n : Nat) : Prop := nan n ∧ fr n < 2 ^ (F - 1)
    let nvAny : FFlags := if nan x ∨ nan y then 16 else 0
    let nvSig : FFlags := if sig x ∨ sig y then 16 else 0
    -- the classes, and the encodings that results take
    F = (if f = .f32 then 23 else 7) ∧
    (isNaN f x = true ↔ nan x) ∧ (isSNaN f x = true ↔ sig x) ∧ (isInf f x = true ↔ ex x = 255 ∧ fr x = 0) ∧
    (isZero f x = true ↔ mag x = 0) ∧ (fSign f x = true ↔ sign x = 1) ∧
    quiet f x = (if fr x < 2 ^ (F - 1) then x + 2 ^ (F - 1) else x) ∧ defNaN f = 255 * 2 ^ F + 2 ^ (F - 1) ∧
    (∀ s, infBits f s = s.toNat * 2 ^ (8 + F) + 255 * 2 ^ F ∧ maxFinite f s + 1 = infBits f s ∧ zeroBits f s = s.toNat * 2 ^ (8 + F)) ∧
    (nan x → fClass f x = if fr x < 2 ^ (F - 1) then 2 ^ 8 else 2 ^ 9) ∧
    (¬nan x → fClass f x = 2 ^ (
      let k := if ex x = 255 then 0 else if ex x ≠ 0 then 1 else if fr x ≠ 0 then 2 else 3
      if sign x = 1 then k else 7 - k)) ∧
    -- comparisons
    (fEq f x y = true ↔ ¬nan x ∧ ¬nan y ∧ fpValue f x = fpValue f y) ∧ (fLt f x y = true ↔ ¬nan x ∧ ¬nan y ∧ fpValue f x < fpValue f y) ∧
    (fLe f x y = true ↔ ¬nan x ∧ ¬nan y ∧ fpValue f x ≤ fpValue f y) ∧
    FRel.eq.eval f x y = (fEq f x y, nvSig) ∧ FRel.ne.eval f x y = (!fEq f x y, nvSig) ∧ FRel.lt.eval f x y = (fLt f x y, nvAny) ∧
    FRel.le.eval f x y = (fLe f x y, nvAny) ∧ FRel.gt.eval f x y = (fLt f y x, nvAny) ∧ FRel.ge.eval f x y = (fLe f y x, nvAny) ∧
    -- VFA
    (let ev (g : VfaFn) : Nat × FFlags := g.eval f rm x y
     ev .add = fAdd f rm x y ∧ ev .sub = fAdd f rm x (neg y) ∧ ev .rsub = fAdd f rm y (neg x) ∧ ev .mul = fMul f rm x y ∧
     ev .min = fMinMax f false x y ∧ ev .max = fMinMax f true x y ∧ ev .sgnj = (signed (sign y) x, 0) ∧
     ev .sgnjn = (signed (sign y + 1) x, 0) ∧ ev .sgnjx = (signed (sign x + sign y) x, 0) ∧
     ∀ g : VfaFn, g.lat = if g ∈ [.add, .sub, .rsub, .mul] then 4 else 2) ∧
    -- VFM
    let ev (g : VfmFn) : Nat × FFlags := g.eval (if f = .f32 then .f32 else .bf16) rm x y z
    ev .macc = fFma f rm x y z [x, y, z] ∧ ev .nmacc = fFma f rm (neg x) y (neg z) [neg x, y, neg z] ∧
    ev .msac = fFma f rm x y (neg z) [x, y, neg z] ∧ ev .nmsac = fFma f rm (neg x) y z [neg x, y, z] ∧
    ev .madd = fFma f rm z x y [z, x, y]) ∧
  -- the widening functions, and the conversions
  (∀ (rm : Rm) (h k a : Nat) (b : BitVec 64), h < 2 ^ 16 → k < 2 ^ 16 → a < 2 ^ 32 →
    let up (n : Nat) : Nat := n * 2 ^ 16
    let neg (n : Nat) : Nat := n ^^^ 2 ^ 31
    let cv (f : VcvFn) (sew n : Nat) : Nat × FFlags := f.eval sew rm n
    VfwFn.add.eval rm h k = fAdd .f32 rm (up h) (up k) ∧ VfwFn.sub.eval rm h k = fAdd .f32 rm (up h) (neg (up k)) ∧
    VfwFn.mul.eval rm h k = fMul .f32 rm (up h) (up k) ∧ VfwFn.addw.eval rm a k = fAdd .f32 rm a (up k) ∧
    VfwFn.subw.eval rm a k = fAdd .f32 rm a (neg (up k)) ∧
    VfmFn.macc.eval .wide rm h k a = fFma .f32 rm (up h) (up k) a [up h, up k, a] ∧
    VfmFn.nmacc.eval .wide rm h k a = fFma .f32 rm (neg (up h)) (up k) (neg a) [neg (up h), up k, neg a] ∧
    VfmFn.msac.eval .wide rm h k a = fFma .f32 rm (up h) (up k) (neg a) [up h, up k, neg a] ∧
    VfmFn.nmsac.eval .wide rm h k a = fFma .f32 rm (neg (up h)) (up k) a [neg (up h), up k, a] ∧
    cv .xF 32 a = f32ToInt rm 32 true a ∧ cv .xuF 32 a = f32ToInt rm 32 false a ∧
    cv .rtzXF 32 a = f32ToInt .rtz 32 true a ∧ cv .rtzXuF 32 a = f32ToInt .rtz 32 false a ∧
    cv .fX 32 a = intToF .f32 rm (BitVec.ofNat 32 a).toInt ∧ cv .fXu 32 a = intToF .f32 rm a ∧
    cv .xBf 16 h = f32ToInt rm 16 true (up h) ∧ cv .bfX 16 h = intToF .bf16 rm (BitVec.ofNat 16 h).toInt ∧
    cv .wFBf 16 h = (up h, 0) ∧ cv .wXF 32 a = f32ToInt rm 64 true a ∧ cv .wFX 16 h = intToF .f32 rm (BitVec.ofNat 16 h).toInt ∧
    cv .nBfF 16 a = f32ToBf rm a ∧ cv .nXF 16 a = f32ToInt rm 16 true a ∧ cv .nXuF 16 a = f32ToInt rm 16 false a ∧
    cv .nFX 32 b.toNat = intToF .f32 rm b.toInt ∧
    (∀ sew ∈ [8, 16, 32, 64], ∀ n : Nat, ∀ p ∈ [(2, VcvFn.sext2, VcvFn.zext2), (4, .sext4, .zext4), (8, .sext8, .zext8)],
      8 ≤ sew / p.1 → n < 2 ^ (sew / p.1) →
      cv p.2.1 sew n = (((BitVec.ofNat (sew / p.1) n).signExtend sew).toNat, 0) ∧ cv p.2.2 sew n = (n, 0)) ∧
    ∀ (f : VcvFn) (sew : Nat), f.widths sew =
      (if f ∈ [.wFBf, .wXF, .wFX] then 2 * sew else sew,
       if f ∈ [.nBfF, .nXF, .nXuF, .nFX] then 2 * sew else if f ∈ [.sext2, .zext2] then sew / 2
       else if f ∈ [.sext4, .zext4] then sew / 4 else if f ∈ [.sext8, .zext8] then sew / 8 else sew)) ∧
  -- the integer relations, and the keys
  (∀ (w : Nat) (x y : BitVec w), w ∈ [8, 16, 32, 64] →
    let ev (r : IRel) : Bool := r.eval w x.toNat y.toNat
    ev .eq = decide (x = y) ∧ ev .ne = decide (x ≠ y) ∧ ev .lt = x.slt y ∧ ev .ltu = x.ult y ∧ ev .le = x.sle y ∧ ev .leu = x.ule y ∧
    ev .gt = y.slt x ∧ ev .gtu = y.ult x ∧
    (∀ k : KOrd, k.key w x.toNat = k.key w y.toNat ↔ x = y) ∧
    (KOrd.u.key w x.toNat ≤ KOrd.u.key w y.toNat ↔ x.toNat ≤ y.toNat) ∧
    (KOrd.s.key w x.toNat ≤ KOrd.s.key w y.toNat ↔ x.toInt ≤ y.toInt) ∧
    KOrd.f.key w x.toNat = (if x.msb then ~~~x else x ||| BitVec.ofNat w (2 ^ (w - 1))).toNat) ∧
  -- the masks, the widths of VIN, and which of its immediates are zero-extended
  (∀ a b : Bool, MaskFn.and.eval a b = (a && b) ∧ MaskFn.or.eval a b = (a || b) ∧ MaskFn.xor.eval a b = xor a b ∧
    MaskFn.andn.eval a b = (a && !b) ∧ MaskFn.orn.eval a b = (a || !b) ∧ MaskFn.nand.eval a b = !(a && b) ∧
    MaskFn.nor.eval a b = !(a || b) ∧ MaskFn.xnor.eval a b = !(xor a b)) ∧
  ∀ (f : VinFn) (sew : Nat), f.isShift = decide (f ∈ [.sll, .srl, .sra, .nsra, .nclip]) ∧
    f.widths sew = (if f ∈ [.nsra, .nclip] then 2 * sew else sew, sew,
      if f ∈ [.wadd, .waddu, .wsub, .wsubu, .wmul, .wmulu] then 2 * sew else sew)

/-! ### Control flow of fragments -/

/-- R110, R113, R114: `vbr` divides the fragment, `vjoin` ends it; the front goes on at the address they answer, two slots
later when it is not the next word. -/
def Obligations.FragmentsBranchAndJoin : Prop :=
  ∀ (s : State) (x : VEntry) (rest : List VEntry), Starts s x rest → (s.hart.hst.mode = true → s.hart.infl = []) →
    let target (off : BitVec 13) : Word := x.addr + off.signExtend 64 * 4
    let next := x.addr + 4
    let below : MBits := BitVec.ofNat 8192 (2 ^ x.vl - 1)
    let overflow : DefTrap := ⟨.fragovf, 0, { x with fm := s.hart.fm }, false, []⟩
    let goes (pc : Word) (fm : MBits) (frags : List Frag) : Prop := ∃ t, exec .vectorEntryStart s = .next t ∧
      t.hart.pc = pc ∧ t.hart.fm = fm ∧ t.hart.frags = frags ∧ t.hart.vq = rest ∧
      t.hart.beat = max s.hart.beat x.slot + 1 ∧ t.hart.slot = s.hart.slot + (if pc = next then 0 else 2) ∧
      t.hart.v = s.hart.v ∧ t.hart.m = s.hart.m ∧ t.pkg = s.pkg
    (∀ (k : MReg) (off : BitVec 13), x.op = .vbr k off →
      let t := s.hart.fm &&& s.hart.m[k] &&& below
      let n := s.hart.fm &&& ~~~s.hart.m[k] &&& below
      (s.hart.frags.length = 4 → exec .vectorEntryStart s = .next (s.takeDeferred overflow)) ∧
      (s.hart.frags.length < 4 →
        (t = 0 → goes next s.hart.fm (s.hart.frags ++ [⟨0, target off, s.hart.fm, false⟩])) ∧
        (t ≠ 0 → n = 0 → goes (target off) s.hart.fm (s.hart.frags ++ [⟨0, 0, s.hart.fm, true⟩])) ∧
        (t ≠ 0 → n ≠ 0 → goes next n (s.hart.frags ++ [⟨t, target off, s.hart.fm, false⟩])))) ∧
    ∀ off : BitVec 13, x.op = .vjoin off →
      (s.hart.frags = [] → exec .vectorEntryStart s = .next (s.takeDeferred overflow)) ∧
      ∀ (pre : List Frag) (f : Frag), s.hart.frags = pre ++ [f] →
        (f.waiting = false → f.mask ≠ 0 → goes f.resume f.mask (pre ++ [{ f with waiting := true }])) ∧
        (f.waiting = true ∨ f.mask = 0 → goes (target off) f.restore pre)

/-- R115: `vloop` counts down the elements whose bit is set, clears the bits of those that end, and goes back while one is
left. -/
def Obligations.VloopCounts : Prop :=
  ∀ (s : State) (x : VEntry) (rest : List VEntry) (a : VReg) (k : MReg) (off : BitVec 13), Starts s x rest →
    x.op = .vloop a k off → (s.hart.hst.mode = true → s.hart.infl = []) →
    let sew := sewOf x.vcfg
    let on (i : Nat) : Bool := decide (i < x.vl) && s.hart.fm.getLsbD i && s.hart.m[k].getLsbD i
    let count (i : Nat) : Nat := element s.hart sew a i
    ∃ t, exec .vectorEntryStart s = .next t ∧ t.hart.vq = rest ∧ t.hart.fm = s.hart.fm ∧ t.hart.frags = s.hart.frags ∧
      (∀ i < s.hart.leff * (256 / sew) * groupSize x sew,
        element t.hart sew a i = if on i then (if count i ≤ 1 then 0 else count i - 1) else count i) ∧
      (∀ i < 8192, t.hart.m[k].getLsbD i = (s.hart.m[k].getLsbD i && !(on i && decide (count i ≤ 1)))) ∧
      (∀ j : MReg, j ≠ k → t.hart.m[j] = s.hart.m[j]) ∧
      t.hart.pc = if ∃ i < x.vl, on i = true ∧ 1 < count i then x.addr + off.signExtend 64 * 4 else x.addr + 4

/-! ### Posting vector operations -/

/-- R107, R109, R116, R136: an entry of VPM, VRD, VSO, VCM or VPT takes one beat, joins its shared unit with the element groups
it has to go, and holds its vector and mask registers until it completes: destinations for readers and writers, sources for
writers, at VL = 0 too (log entry 48). R116: in a cycle a shared unit serves one element group of one hart's oldest operation:
one that has starved 256 cycles before the others, the longest first; otherwise the one with the fewest groups left, the lower
HID on ties. The others that were offered have waited a cycle more. (A Chart store also performs what it is served, and an
access of the pipe that has not passed its check makes it: `VectorChartAccess`.) -/
def Obligations.SharedUnits : Prop :=
  (∀ (s : State) (x : VEntry) (rest : List VEntry) (u : SharedUnit), Starts s x rest → x.op.unit = some u →
    (∀ d a oc, x.op ≠ .vwait d a oc) →
    let x' := { x with fm := s.hart.fm }
    let b := max s.hart.beat x.slot
    let sew := sewOf x.vcfg
    let us := x.op.uses sew (groupSize x sew)
    let o : UOp := ⟨s.cur.hid, x', beatCount s x (widest us), 0, decide (u = .net ∨ x.vl = 0), false, [], 0, b, s.hart.clock, 0⟩
    let h := { s.hart with
      vq := rest, beat := b + 1
      vholds := s.hart.vholds ++ us.map fun v => ⟨x.id, v.mask, (v.span (g8Of x.vcfg) sew).1, (v.span (g8Of x.vcfg) sew).2,
        v.w, v.dst, [], []⟩ }
    (u = .net → exec .vectorEntryStart s = .next { s with hart := h, core := { s.core with net := s.core.net ++ [o] } }) ∧
    (u = .pipe → exec .vectorEntryStart s = .next { s with hart := h, core := { s.core with pipe := s.core.pipe ++ [o] } })) ∧
  ∀ (s : State) (u : SharedUnit), (∀ o ∈ s.core.unit u, o.hid < 8) →
    let same (p o : UOp) : Prop := p.hid = o.hid ∧ p.ent.id = o.ent.id
    let oldest (o : UOp) : Prop := (s.core.unit u).find? (fun p => decide (p.hid = o.hid)) = some o
    let offered (o : UOp) : Prop := oldest o ∧ o.left ≠ 0
    (∀ o, offered o → (u = .pipe → o.passed = true) → (u = .net → o.ent.op.unit = some .net) →
      (∀ md d m, o.ent.op ≠ .vst md d m) →
      ((∀ p, offered p → p.waited < 256) ∧ (∀ p, offered p → o.left < p.left ∨ (o.left = p.left ∧ o.hid ≤ p.hid))) ∨
      (256 ≤ o.waited ∧ ∀ p, offered p → p.waited < o.waited ∨ (p.waited = o.waited ∧ o.hid ≤ p.hid)) →
      ∃ t, exec (.sharedUnitCycle u) s = .next t ∧ t.pkg = s.pkg ∧ (∀ k, t.getHart k = s.getHart k) ∧ t.quad = s.quad ∧
        t.core.chart = s.core.chart ∧ (∀ w, w ≠ u → t.core.unit w = s.core.unit w) ∧
        (t.core.unit u).length = (s.core.unit u).length ∧
          ∀ (n : Nat) (p : UOp), (s.core.unit u)[n]? = some p → ∃ q : UOp, (t.core.unit u)[n]? = some q ∧
            q.hid = p.hid ∧ q.ent = p.ent ∧ (same p o → q.left = p.left - 1 ∧ q.waited = 0) ∧
            (¬same p o → q.left = p.left ∧
              ((∃ y, offered y ∧ same y p) → q.waited = p.waited + 1) ∧ ((¬∃ y, offered y ∧ same y p) → q.waited = p.waited))) ∧
    ((∀ o, ¬offered o) → exec (.sharedUnitCycle u) s = .next s)

/-- The focused hart's oldest operation of a unit completes now: its groups are served, everything queued before it has merged
its flags, its start lies behind, nothing raced with what it holds (R111, R116, R136). -/
structure Sys2Proof.Claims.Completes (s : State) (u : SharedUnit) (o : UOp) (x : VEntry) : Prop where
  oldest : s.core.oldest u s.cur.hid = some o
  entry : o.ent = x
  served : o.left = 0 ∧ o.blocked = false ∧ (x.op.isVcm = true → o.passed = true)
  merged : s.hart.merges = []
  earlier : ∀ p ∈ s.core.pipe ++ s.core.net, p.hid = s.cur.hid → p.ent.id < x.id → p.ent.op.merges = false
  later : o.start < s.hart.slot
  unraced : ∀ k ∈ s.hart.vholds, k.id = x.id → k.raced = [] ∧ k.old = []
  operands : x.op.operandsOk x.vcfg = true
  length : x.vl ≤ vlmaxOf s.hart.leff x.vcfg 0
  lanes : 0 < s.hart.leff ∧ s.hart.lanes ≤ 32
  whole : x.dones = []

/-- What every completion leaves (R22, R136): the operation gone from its unit, one increment on its token, its registers
free, and nothing of other harts changed. -/
def Sys2Proof.Claims.PostedHere (s t : State) (u : SharedUnit) (o : UOp) (x : VEntry) : Prop :=
  let tk := x.tok.getD 0
  (∀ p, p ∈ t.core.unit u ↔ p ∈ s.core.unit u ∧ ¬(p.hid = o.hid ∧ p.ent.id = o.ent.id)) ∧
  t.hart.token x.sup tk = ⟨(s.hart.token x.sup tk).cnt + 1, (s.hart.token x.sup tk).out - 1⟩ ∧
  (∀ b k, (b = x.sup → k ≠ tk) → t.hart.token b k = s.hart.token b k) ∧
  (∀ k ∈ t.hart.vholds, k.id ≠ x.id) ∧ (∀ p ∈ t.hart.pendS, p.2.2 ≠ x.id) ∧
  t.die = s.die ∧ t.harts = s.harts ∧ t.hart.pc = s.hart.pc ∧ t.hart.vq = s.hart.vq ∧ t.hart.fm = s.hart.fm

/-- The same of an operation that changes no memory of the part. -/
def Sys2Proof.Claims.Posted (s t : State) (u : SharedUnit) (o : UOp) (x : VEntry) : Prop := PostedHere s t u o x ∧ t.pkg = s.pkg

/-- The same of an operation that stores nothing: the Chart, the plane store and the tiles stay too. -/
def Sys2Proof.Claims.Completed (s t : State) (u : SharedUnit) (o : UOp) (x : VEntry) : Prop :=
  Posted s t u o x ∧ t.core.chart = s.core.chart ∧ t.core.chartPoison = s.core.chartPoison ∧ t.quad = s.quad

/-- A position of the entry is active under the fragment it started with (R103). -/
def Sys2Proof.Claims.activeIn (s : State) (x : VEntry) (i : Nat) : Bool :=
  decide (i < x.vl) && x.fm.getLsbD i && selected s x i

/-- The elements of the active positions of a permute or of `vtag` (R137, R141). -/
def Sys2Proof.Claims.permuted (s : State) (x : VEntry) : Option (VReg × (Nat → Nat)) :=
  let sew := sewOf x.vcfg
  let el (r : VReg) (i : Nat) : Nat := element s.hart sew r i
  let n := (x.sv.headD 0).toNat
  match x.op with
  | .vgather d a b _ => some (d, fun i => if el b i < x.vl then el a (el b i) else 0)
  | .vslide .gatherx d a _ => some (d, fun _ => if n < x.vl then el a n else 0)
  | .vslide .up d a _ => some (d, fun i => if n ≤ i then el a (i - n) else el d i)
  | .vslide .down d a _ => some (d, fun i => if i + n < x.vl then el a (i + n) else 0)
  | .vslide .up1 d a _ => some (d, fun i => if i = 0 then n else el a (i - 1))
  | .vslide .down1 d a _ => some (d, fun i => if i + 1 < x.vl then el a (i + 1) else n)
  | .vrev d a _ => some (d, fun i => el a (x.vl - 1 - i))
  | .vtag d a _ => some (d, fun i => el a i % 2 ^ 32 * 2 ^ 32 + (n + i) % 2 ^ 32)
  | _ => none

/-- R104, R105, R137, R141: a permute delivers at its completion, every source element read before any is written. At VL = 0 an
operation of the network that is no reduction writes nothing. R138: `vcompress`, `vmvsx` and `vmvxs`. The destination of `vmvxs`
was marked at issue (R136). -/
def Obligations.PermuteResults : Prop :=
  ((∀ (s : State) (o : UOp) (x : VEntry), Completes s .net o x → x.vl = 0 → x.op.unit = some .net →
    (∀ tree f d a m, x.op ≠ .vred tree f d a m) →
    ∃ t, exec (.vectorPostingCompletion .net) s = .next t ∧ Completed s t .net o x ∧ t.hart.v = s.hart.v ∧
      t.hart.m = s.hart.m ∧ t.hart.xst = s.hart.xst ∧ t.hart.xi = s.hart.xi ∧ ∀ b r, t.hart.regIn b r = s.hart.regIn b r) ∧
  ∀ (s : State) (o : UOp) (x : VEntry) (d : VReg) (f : Nat → Nat), Completes s .net o x → permuted s x = some (d, f) →
    0 < x.vl →
    let sew := sewOf x.vcfg
    ∃ t, exec (.vectorPostingCompletion .net) s = .next t ∧ Completed s t .net o x ∧ t.hart.m = s.hart.m ∧
      t.hart.xst = s.hart.xst ∧
      (∀ i < x.vl, element t.hart sew d i =
        if activeIn s x i then f i % 2 ^ sew
        else if x.fm.getLsbD i && mpOf x.vcfg then 0 else element s.hart sew d i) ∧
      (∀ i, x.vl ≤ i → i < s.hart.leff * (256 / sew) * groupSize x sew →
        element t.hart sew d i = if tpOf x.vcfg then 0 else element s.hart sew d i) ∧
      (∀ r : VReg, r.val < d.val ∨ d.val + groupSize x sew ≤ r.val → t.hart.v[r] = s.hart.v[r]) ∧
      ∀ b r, t.hart.regIn b r = s.hart.regIn b r) ∧
  ∀ (s : State) (o : UOp) (x : VEntry), Completes s .net o x → 0 < x.vl →
    let sew := sewOf x.vcfg
    let el (h : Hart) (r : VReg) (i : Nat) : Nat := element h sew r i
    let n := x.sv.headD 0
    let tail (t : State) (d : VReg) : Prop := ∀ i, x.vl ≤ i → i < s.hart.leff * (256 / sew) * groupSize x sew →
      el t.hart d i = if tpOf x.vcfg then 0 else el s.hart d i
    (∀ (d a : VReg) (k : MReg), x.op = .vcompress d a k →
      let places := (List.range x.vl).filter fun i => x.fm.getLsbD i
      let chosen := places.filter fun i => s.hart.m[k].getLsbD i
      ∃ t, exec (.vectorPostingCompletion .net) s = .next t ∧ Completed s t .net o x ∧ tail t d ∧
        (∀ (j q : Nat), places[j]? = some q → el t.hart d q = match chosen[j]? with
          | some i => el s.hart a i
          | none => if tpOf x.vcfg then 0 else el s.hart d q) ∧
        ∀ i < x.vl, x.fm.getLsbD i = false → el t.hart d i = el s.hart d i) ∧
    (∀ (d : VReg) (m : MSel), x.op = .vmvsx d m →
      ∃ t, exec (.vectorPostingCompletion .net) s = .next t ∧ Completed s t .net o x ∧ tail t d ∧
        (activeIn s x 0 = true → el t.hart d 0 = n.toNat % 2 ^ sew) ∧
        ∀ i, 0 < i → i < x.vl → el t.hart d i = el s.hart d i) ∧
    ∀ (d : SReg) (a : VReg) (b : Bool), x.op = .vmvxs d a → d ≠ 0 →
      s.hart.pendS.find? (fun p => decide (p.2.2 = x.id)) = some (b, d, x.id) →
      ∃ t, exec (.vectorPostingCompletion .net) s = .next t ∧ Completed s t .net o x ∧ t.hart.v = s.hart.v ∧
        t.hart.regIn b d =
          if n.toNat < x.vl then BitVec.signExtend 64 (BitVec.ofNat sew (el s.hart a n.toNat)) else 0

/-- R139 to R141: the sorts are stable and ascending in the order of the keys, over the positions of the fragment; the merge
is that of its procedure, which of equal keys takes that of the first half first, and of two sorted halves is their stable
merge; `vsegm` marks the first of each run of equal keys. (That both groups of `vsortkv` follow the tail policy is log entry 87.) -/
def Obligations.SortsAreStable : Prop :=
  ∀ (s : State) (o : UOp) (x : VEntry), Completes s .net o x → 0 < x.vl →
    let sew := sewOf x.vcfg
    let el (h : Hart) (r : VReg) (i : Nat) : Nat := element h sew r i
    let places := (List.range x.vl).filter fun i => x.fm.getLsbD i
    let column (h : Hart) (r : VReg) : List Nat := places.map (el h r)
    let rows (h : Hart) (a d : VReg) : List (Nat × Nat) := places.map fun i => (el h a i, el h d i)
    let rest (t : State) (d : VReg) : Prop :=
      (∀ i < x.vl, x.fm.getLsbD i = false → el t.hart d i = el s.hart d i) ∧
      ∀ i, x.vl ≤ i → i < s.hart.leff * (256 / sew) * groupSize x sew →
        el t.hart d i = if tpOf x.vcfg then 0 else el s.hart d i
    (∀ (k : KOrd) (d a : VReg), x.op = .vsort k d a →
      ∃ t, exec (.vectorPostingCompletion .net) s = .next t ∧ Completed s t .net o x ∧ rest t d ∧
        (column t.hart d).Perm (column s.hart a) ∧ (column t.hart d).Pairwise fun p q => k.key sew p ≤ k.key sew q) ∧
    (∀ (k : KOrd) (d a : VReg), x.op = .vsortkv k d a →
      ∃ t, exec (.vectorPostingCompletion .net) s = .next t ∧ Completed s t .net o x ∧ rest t d ∧ rest t a ∧
        (rows t.hart a d).Perm (rows s.hart a d) ∧
        ((rows t.hart a d).Pairwise fun p q => k.key sew p.1 ≤ k.key sew q.1) ∧
        ∀ n, (rows t.hart a d).filter (fun p => decide (k.key sew p.1 = n)) =
          (rows s.hart a d).filter (fun p => decide (k.key sew p.1 = n))) ∧
    (∀ (k : KOrd) (d a : VReg), x.op = .vmerge k d a →
      let h := min (x.sv.headD 0).toNat places.length
      let asc (l : List Nat) : Prop := l.Pairwise fun p q => k.key sew p ≤ k.key sew q
      ∃ t, exec (.vectorPostingCompletion .net) s = .next t ∧ Completed s t .net o x ∧ rest t d ∧
        (column t.hart d).Perm (column s.hart a) ∧
        column t.hart d = ((column s.hart a).take h).merge ((column s.hart a).drop h) (fun p q => decide (k.key sew p ≤ k.key sew q)) ∧
        (asc ((column s.hart a).take h) → asc ((column s.hart a).drop h) → asc (column t.hart d))) ∧
    ∀ (d : MReg) (a : VReg), x.op = .vsegm d a →
      ∃ t, exec (.vectorPostingCompletion .net) s = .next t ∧ Completed s t .net o x ∧ t.hart.v = s.hart.v ∧
        (∀ (j q : Nat), places[j]? = some q → t.hart.m[d].getLsbD q =
          (decide (j = 0) || decide (el s.hart a q ≠ el s.hart a (places.getD (j - 1) 0)))) ∧
        (∀ i < x.vl, x.fm.getLsbD i = false → t.hart.m[d].getLsbD i = s.hart.m[d].getLsbD i) ∧
        ∀ i < 8192, x.vl ≤ i → t.hart.m[d].getLsbD i = (!tpOf x.vcfg && s.hart.m[d].getLsbD i)

/-- R64: what a fold in index order delivers, and the flags of its steps with the elements they are attributed to (R66). -/
def Sys2Proof.Claims.foldSteps (c : Nat → Nat → Nat × FFlags) (acc : Nat) : List (Nat × Nat) → Nat × List (FFlags × Nat)
  | [] => (acc, [])
  | (i, v) :: rest => ((foldSteps c (c acc v).1 rest).1, ((c acc v).2, i) :: (foldSteps c (c acc v).1 rest).2)

/-- R65: position j at level k of the tree, which covers the elements from 2^k × j on; none where it is EMPTY. -/
def Sys2Proof.Claims.treeAt (c : Nat → Nat → Nat × FFlags) (leaf : Nat → Option Nat) : Nat → Nat → Option Nat
  | 0, j => leaf j
  | k + 1, j =>
    match treeAt c leaf k (2 * j), treeAt c leaf k (2 * j + 1) with
    | some p, some q => some (c p q).1
    | some p, none => some p
    | none, q => q

/-- R66: the flags of the steps below that position, each attributed to the lowest active element of its second operand. -/
def Sys2Proof.Claims.treeSteps (c : Nat → Nat → Nat × FFlags) (leaf : Nat → Option Nat) : Nat → Nat → List (FFlags × Nat)
  | 0, _ => []
  | k + 1, j =>
    treeSteps c leaf k (2 * j) ++ treeSteps c leaf k (2 * j + 1) ++
      match treeAt c leaf k (2 * j), treeAt c leaf k (2 * j + 1) with
      | some p, some q =>
        [((c p q).2, (((List.range (2 ^ k)).map (· + 2 ^ k * (2 * j + 1))).find? fun i => (leaf i).isSome).getD 0)]
      | _, _ => []

/-- R111: flags merge by OR, the index of each class by minimum, NV in XI[0] to NX in XI[4]. -/
def Sys2Proof.Claims.flagsMerged (s t : Hart) (steps : List (FFlags × Nat)) : Prop :=
  t.xst = (steps.map Prod.fst).foldl (· ||| ·) s.xst ∧
  ∀ k : Fin 5, t.xi[k].toNat = ((steps.filter fun p => p.1.getLsbD (4 - k.val)).map Prod.snd).foldl min s.xi[k].toNat

/-- R129, R130, with R64 to R66: the ordered reductions fold in index order; the integer ones give the same in either order;
the tree forms pair by index, the initial operand last; flags merge with the elements they are attributed to. With nothing
active the initial operand is delivered as the function reads it (log entry 17). A destination that is not pending, as s0 never is,
takes nothing. -/
def Obligations.ReductionResults : Prop :=
  ∀ (s : State) (o : UOp) (x : VEntry) (tree : Bool) (f : RedFn) (d : SReg) (a : VReg) (m : MSel) (b : Bool),
    Completes s .net o x → x.op = .vred tree f d a m →
    let sew := sewOf x.vcfg
    let act := (List.range x.vl).filter fun i => activeIn s x i
    let xs := act.map fun i => element s.hart sew a i
    let init := (x.sv.headD 0).toNat
    let int (n : Nat) : Int := (BitVec.ofNat sew n).toInt
    let signed (v : Int) : Word := BitVec.ofInt 64 v
    let c (p q : Nat) : Nat × FFlags :=
      if f = .fmax then fMinMax .f32 true p q else if f = .fmin then fMinMax .f32 false p q else fAdd .f32 x.rm p q
    let leaf (i : Nat) : Option Nat :=
      if activeIn s x i then some (element s.hart sew a i * (if f = .bfsum then 2 ^ 16 else 1)) else none
    let fp : Nat × List (FFlags × Nat) :=
      if tree then
        let r := c (init % 2 ^ 32) ((treeAt c leaf (Nat.clog 2 x.vl) 0).getD 0)
        (r.1, treeSteps c leaf (Nat.clog 2 x.vl) 0 ++ [(r.2, act.headD 0)])
      else foldSteps c (init % 2 ^ 32) (act.map fun i => (i, (leaf i).getD 0))
    ∃ t, exec (.vectorPostingCompletion .net) s = .next t ∧ Completed s t .net o x ∧ t.hart.v = s.hart.v ∧
      t.hart.m = s.hart.m ∧ flagsMerged s.hart t.hart (if f.isFp = true ∧ xs ≠ [] then fp.2 else []) ∧
      ((∀ p ∈ s.hart.pendS, p.2.2 ≠ x.id) → ∀ k r, t.hart.regIn k r = s.hart.regIn k r) ∧
      (s.hart.pendS.find? (fun p => decide (p.2.2 = x.id)) = some (b, d, x.id) → d ≠ 0 →
      let out := t.hart.regIn b d
      (f = .sum → out = signed (int (init + xs.sum))) ∧
      (f = .max → out = signed (xs.foldl (fun p q => max p (int q)) (int init))) ∧
      (f = .min → out = signed (xs.foldl (fun p q => min p (int q)) (int init))) ∧
      (f = .maxu → out = BitVec.ofNat 64 (xs.foldl max (init % 2 ^ sew))) ∧
      (f = .minu → out = BitVec.ofNat 64 (xs.foldl min (init % 2 ^ sew))) ∧
      (f.isFp = true → out = BitVec.ofNat 64 (if xs = [] then init % 2 ^ 32 else fp.1)))

/-! ### Vector memory: the Chart, the tiles, the plane store -/

/-- R144: the address of element i of a Chart access, modulo 2^64. -/
def Sys2Proof.Claims.chartElement (s : State) (x : VEntry) (md : VcmMode) (i : Nat) : Nat :=
  let base : Int := ((x.sv.headD 0).toNat : Int)
  let off : Int := match md with
    | .unit => ((i * (sewOf x.vcfg / 8) : Nat) : Int)
    | .stride _ => (i : Int) * (x.sv[1]?.getD 0).toInt
    | .index b => (element s.hart (sewOf x.vcfg) b i : Int)
  ((base + off) % 2 ^ 64).toNat

/-- The Chart after the scalar stores of the focused hart have performed, in program order (R15, R146). -/
def Sys2Proof.Claims.storesDone (s t : State) : Prop :=
  t.hart.stores = [] ∧ t.hart.loads = [] ∧ (s.core.chart.wf = true → t.core.chart.wf = true ∧ ∀ a, t.core.chart.read a = ownByte s a)

/-- The active elements of a Chart store from lo to below hi are in the Chart, the highest index last, over what `before`
gives; every other byte is as `before` gives it (R144). -/
def Sys2Proof.Claims.elementsStored (s : State) (x : VEntry) (md : VcmMode) (d : VReg) (lo hi : Nat) (before : Nat → Byte)
    (t : State) : Prop :=
  let n := sewOf x.vcfg / 8
  let addr := chartElement s x md
  let on (i : Nat) : Prop := lo ≤ i ∧ i < hi ∧ activeIn s x i = true
  t.core.chart.wf = true ∧
  (∀ i, on i → (∀ j, i < j → on j → addr j ≠ addr i) → (leWord t.core.chart (addr i) n).toNat = element s.hart (sewOf x.vcfg) d i) ∧
  ∀ a, (∀ i, on i → a < addr i ∨ addr i + n ≤ a) → t.core.chart.read a = before a

/-- R104, R144 to R146, R310: a vector Chart load delivers the little-endian words of its active elements at its completion; a
store writes them group by group as it is served, the highest index last, the rest at its completion. Earlier scalar stores
of the hart go before both. In its first cycle of the pipe an access with an address that is not aligned or not in the Chart does
nothing and traps CHART; a load of a poisoned word delivers the elements before it and traps POISON. (The order of these two, what
a failed access names and how far it went are log entries 13, 28 and 49.) -/
def Obligations.VectorChartAccess : Prop :=
  (∀ (s : State) (o : UOp) (x : VEntry) (md : VcmMode) (d : VReg) (m : MSel), Completes s .pipe o x → 0 < x.vl →
    let sew := sewOf x.vcfg
    let n := sew / 8
    let addr := chartElement s x md
    (x.op = .vld md d m →
      ∃ t, exec (.vectorPostingCompletion .pipe) s = .next t ∧ Posted s t .pipe o x ∧ t.quad = s.quad ∧ storesDone s t ∧
        t.hart.m = s.hart.m ∧
        (s.core.chart.wf = true → ∀ i < x.vl, element t.hart sew d i =
          if activeIn s x i then (ownWord s (addr i) n).toNat
          else if x.fm.getLsbD i && mpOf x.vcfg then 0 else element s.hart sew d i) ∧
        (∀ i, x.vl ≤ i → i < s.hart.leff * (256 / sew) * groupSize x sew →
          element t.hart sew d i = if tpOf x.vcfg then 0 else element s.hart sew d i) ∧
        ∀ r : VReg, r.val < d.val ∨ d.val + groupSize x sew ≤ r.val → t.hart.v[r] = s.hart.v[r]) ∧
    (x.op = .vst md d m → s.core.chart.wf = true → (∀ i, activeIn s x i = true → addr i % n = 0) →
      ∃ t, exec (.vectorPostingCompletion .pipe) s = .next t ∧ Posted s t .pipe o x ∧ t.quad = s.quad ∧
        t.hart.v = s.hart.v ∧ t.hart.m = s.hart.m ∧ t.hart.stores = [] ∧
        elementsStored s x md d o.stored x.vl (ownByte s) t)) ∧
  ∀ (s : State) (o : UOp) (md : VcmMode) (d : VReg) (m : MSel) (i : Nat), s.core.pipe = [o] → o.hid = s.cur.hid → o.hid < 8 →
    o.left ≠ 0 → o.ent.op = .vld md d m ∨ o.ent.op = .vst md d m → o.ent.dones = [] → 0 < o.ent.vl →
    (∀ k ∈ s.hart.vholds, k.id = o.ent.id → k.old = []) → 0 < s.hart.leff → s.core.chart.wf = true →
    (∀ j < i, activeIn s o.ent j = false) → activeIn s o.ent i = true →
    let x := o.ent
    let sew := sewOf x.vcfg
    let addr := chartElement s x md
    let o' : UOp := { o with left := o.left - 1, waited := 0 }
    let bad (j : Nat) : Prop := activeIn s x j = true ∧
      (addr j % (sew / 8) ≠ 0 ∨ (if s.hart.hst.helm then 0x10000 else 0x60000) < addr j + sew / 8)
    let hurt (j : Nat) : Prop := activeIn s x j = true ∧ ∃ w, ownPoison s w ∧ 8 * w < addr j + sew / 8 ∧ addr j < 8 * w + 8
    let us := x.op.uses sew (groupSize x sew)
    let served := (beatCount s x (widest us) - (o.left - 1)) * (s.hart.leff * (64 / widest us))
    let quiet (u : State) : Prop :=
      u.hart = { s.hart with stores := u.hart.stores, loads := [], infl := u.hart.infl, v := u.hart.v } ∧ u.quad = s.quad ∧
      u.core = { s.core with pipe := [o'], chart := u.core.chart, chartPoison := u.core.chartPoison } ∧ storesDone s u
    (o.passed = false → (∃ j, bad j) → ∃ u, quiet u ∧ u.hart.v = s.hart.v ∧ u.pkg = s.pkg ∧
      exec (.sharedUnitCycle .pipe) s = .next (u.takeDeferred ⟨.chart, i, x, true, []⟩)) ∧
    (o.passed = false → x.op = .vld md d m → (∀ j, ¬bad j) → ∀ k, hurt k → (∀ j < k, ¬hurt j) → ∃ u, quiet u ∧
      (∀ j < k, activeIn s x j = true → element u.hart sew d j = (ownWord s (addr j) (sew / 8)).toNat) ∧
      (∀ j, k ≤ j → j < s.hart.leff * (256 / sew) * groupSize x sew → element u.hart sew d j = element s.hart sew d j) ∧
      exec (.sharedUnitCycle .pipe) s =
        .next (u.takeDeferred ⟨.poison, k, x, true, doneCounts s.hart.lanes s.hart.leff k⟩)) ∧
    (x.op = .vld md d m → o.passed = true ∨ ((∀ j, ¬bad j) ∧ ∀ j, ¬hurt j) → ∃ t, exec (.sharedUnitCycle .pipe) s = .next t ∧
      t.core.pipe = [{ o' with passed := true }] ∧ t.hart.v = s.hart.v ∧ t.pkg = s.pkg ∧ t.quad = s.quad ∧
      (if o.passed then t.core.chart = s.core.chart ∧ t.hart = s.hart else storesDone s t)) ∧
    (x.op = .vst md d m → (∀ j, ¬bad j) → ∃ t, exec (.sharedUnitCycle .pipe) s = .next t ∧
      t.core.pipe = [{ o' with passed := true, stored := served }] ∧ t.hart.v = s.hart.v ∧ t.pkg = s.pkg ∧ t.quad = s.quad ∧
      t.hart.stores = (if o.passed then s.hart.stores else []) ∧
      elementsStored s x md d o.stored served (if o.passed then s.core.chart.read else ownByte s) t)

/-- R147, R249: a plane store that has passed its checks lays its elements down in groups of 16 as bit planes, inactive and
padding elements as zero codes: of BFPb codes b planes, of BF16 nine planes of the signed significand, six zero bytes and the
sixteen exponents. Nothing else of the plane store
changes, and no register. Over a stage that the operation at the array's head reads it traps STAGEHELD in its first cycle; that the
trap is reported deferred, with the entry as the head V, is the model's choice (log entry 49). -/
def Obligations.PlaneStoresTranspose : Prop :=
  (∀ (s : State) (o : UOp) (bfp : Bool) (d : VReg) (m : MSel), s.core.pipe = [o] → o.hid = s.cur.hid → o.hid < 8 → o.left ≠ 0 →
    o.passed = false → o.ent.op = .vstp bfp d m → s.quad.held ((o.ent.sv.headD 0).toNat / 0x80000 % 4) = true →
    s.hart.stores = [] → s.hart.loads = [] → exec (.sharedUnitCycle .pipe) s =
      .next ({ s with core := { s.core with pipe := [{ o with left := o.left - 1, waited := 0 }] } }.takeDeferred
        ⟨.stageheld, 0, o.ent, true, []⟩)) ∧
  ∀ (s : State) (o : UOp) (x : VEntry) (bfp : Bool) (d : VReg) (m : MSel), Completes s .pipe o x → 0 < x.vl →
    x.op = .vstp bfp d m → s.quad.plane.wf = true →
    let sew := sewOf x.vcfg
    let base := (x.sv.headD 0).toNat
    let b := if bfp then (x.sv[1]?.getD 0).toNat else 9
    let size := if bfp then 2 * b else 40
    let val (i : Nat) : Nat := if activeIn s x i then element s.hart sew d i else 0
    let signed (v : Nat) : Int :=
      let mag : Int := ((if v / 2 ^ 7 % 256 = 0 then 0 else 128) + v % 2 ^ 7 : Nat)
      if v / 2 ^ 15 = 1 then -mag else mag
    let code (i : Nat) : BitVec 9 := if bfp then BitVec.ofNat 9 (val i % 2 ^ b) else BitVec.ofInt 9 (signed (val i))
    b ≤ 9 →
    ∃ t, exec (.vectorPostingCompletion .pipe) s = .next t ∧ Posted s t .pipe o x ∧ storesDone s t ∧
      t.hart.v = s.hart.v ∧ t.hart.m = s.hart.m ∧ t.quad.tiles = s.quad.tiles ∧
      (∀ g < (x.vl + 15) / 16, ∀ p < b, ∀ k < 16,
        (t.quad.plane.read (base + size * g + 2 * p + k / 8)).getLsbD (k % 8) = (code (16 * g + k)).getLsbD p) ∧
      (bfp = false → ∀ g < (x.vl + 15) / 16, (∀ k < 6, t.quad.plane.read (base + 40 * g + 18 + k) = 0) ∧
        ∀ k < 16, (t.quad.plane.read (base + 40 * g + 24 + k)).toNat = val (16 * g + k) / 2 ^ 7 % 256) ∧
      ∀ a, a < base ∨ base + size * ((x.vl + 15) / 16) ≤ a → t.quad.plane.read a = s.quad.plane.read a

/-- R148, R104, R105: the tile-slice moves, in their first beat: from row or column s[B] to the register, with the cells
cleared behind in the z forms, or from the register to the tile. A tile that is not enabled traps TILEOFF, deferred; at VL = 0
no tile is looked at. A read of a poisoned word delivers the elements before it and traps POISON, deferred (log entries 13 and 49). -/
def Obligations.TileSlicesMove : Prop :=
  ∀ (s : State) (x : VEntry) (rest : List VEntry) (f : VtsFn) (d : VReg) (a : Tile) (m : MSel), Starts s x rest →
    x.op = .vts f d a m → x.vl ≤ 64 →
    let k := (x.sv.headD 0).toNat
    let row := f = .rdr ∨ f = .rdrz ∨ f = .wrr
    let at' (i : Nat) : Nat := a.val * 0x4000 + 4 * (if row then 64 * k + i else 64 * i + k)
    let cell (q : Quad) (i : Nat) : Nat := (leWord q.tiles (at' i) 4).toNat
    k < 64 →
    (s.quad.ten.getLsbD a.val = false → 0 < x.vl →
      exec .vectorEntryStart s = .next (s.takeDeferred ⟨.tileoff, 0, { x with fm := s.hart.fm }, false, []⟩)) ∧
    (x.vl = 0 → ∃ t, exec .vectorEntryStart s = .next t ∧ t.quad = s.quad ∧ t.hart.v = s.hart.v ∧ t.hart.vq = rest) ∧
    (s.quad.ten.getLsbD a.val = true → s.quad.tiles.wf = true → ¬(f = .wrr ∨ f = .wrc) → ∀ j,
      activeAt s x j = true → at' j / 8 ∈ s.quad.tilePoison →
      (∀ i < j, activeAt s x i = true → at' i / 8 ∉ s.quad.tilePoison) →
      ∃ u : State, exec .vectorEntryStart s =
          .next (u.takeDeferred ⟨.poison, j, { x with fm := s.hart.fm }, false, doneCounts s.hart.lanes s.hart.leff j⟩) ∧
        u.core = s.core ∧ u.hart = { s.hart with v := u.hart.v } ∧
        (∀ i < j, activeAt s x i = true → element u.hart 32 d i = cell s.quad i ∧
          cell u.quad i = if f = .rdrz ∨ f = .rdcz then 0 else cell s.quad i) ∧
        ∀ i, j ≤ i → i < s.hart.leff * 8 * groupSize x 32 → element u.hart 32 d i = element s.hart 32 d i) ∧
    (s.quad.ten.getLsbD a.val = true → (∀ i, activeAt s x i = true → ¬(f = .wrr ∨ f = .wrc) → at' i / 8 ∉ s.quad.tilePoison) → s.quad.tiles.wf = true → 0 < x.vl →
      ∃ t, exec .vectorEntryStart s = .next t ∧ t.hart.vq = rest ∧ t.hart.m = s.hart.m ∧ t.pkg = s.pkg ∧
        t.core = { s.core with unwritten := t.core.unwritten } ∧
        t.quad = { s.quad with tiles := t.quad.tiles, tilePoison := t.quad.tilePoison } ∧ t.quad.tiles.wf = true ∧
        (∀ p, (∀ i, activeAt s x i = true → p < at' i ∨ at' i + 4 ≤ p) → t.quad.tiles.read p = s.quad.tiles.read p) ∧
        (f = .wrr ∨ f = .wrc → t.hart.v = s.hart.v ∧
          ∀ i, activeAt s x i = true → cell t.quad i = element s.hart 32 d i) ∧
        (¬(f = .wrr ∨ f = .wrc) →
          (∀ i < x.vl, element t.hart 32 d i =
            if activeAt s x i then cell s.quad i
            else if s.hart.fm.getLsbD i && mpOf x.vcfg then 0 else element s.hart 32 d i) ∧
          (∀ i, x.vl ≤ i → i < s.hart.leff * 8 * groupSize x 32 →
            element t.hart 32 d i = if tpOf x.vcfg then 0 else element s.hart 32 d i) ∧
          (∀ r : VReg, r.val < d.val ∨ d.val + groupSize x 32 ≤ r.val → t.hart.v[r] = s.hart.v[r]) ∧
          ∀ i, activeAt s x i = true → cell t.quad i = if f = .rdrz ∨ f = .rdcz then 0 else cell s.quad i))

/-! ### Runs and ports -/

/-- Only the descriptor i of die d differs between two packages, and it now reads r. -/
def Sys2Proof.Claims.Redescribed (p q : Pkg) (d i : Nat) (r : RunD) : Prop :=
  q = { p with mem := q.mem, runCtx := q.runCtx } ∧ (∀ k, k ≠ (d, i) → assocGet q.runCtx k = assocGet p.runCtx k) ∧ q.mem.wf = true ∧ q.desc d i = r ∧
  ∀ a, a < descAddr d i ∨ descAddr d i + 32 ≤ a → q.mem.read a = p.mem.read a

/-- R157 to R161, R165, R173, R174, R176, R177: the words of the run table. Which FREE descriptor is taken is open; a descriptor
never used starts at generation 1 (a choice of the model, log entry 2), a run belongs to the translation context it was made
under (log entry 101), and rows that do not fit their field are kept modulo 2^32 (log entry 103). The front then holds until the answer comes (R176, R355). -/
def Obligations.RunTableWords : Prop :=
  ∀ (d a b : SReg) (s : State), Issues s 0 [a, b, d] → s.pkg.mem.wf = true →
    let h := s.hart.reg a
    let y := s.hart.reg b
    let die := h.toNat / 2 ^ 46 % 4
    let ix := h.toNat % 8192
    let word (k : Nat) : Word := s.pkg.mem.word (descAddr die ix + k)
    let out (i : Instr) (p : Pkg) (v : Word) : Prop := exec i s = .next (withResult { s with pkg := p } d v 1).answered
    (s.run h = none → ∀ i ∈ [Instr.rseal d a, .rrel d a, .rmark d a, .rhdr d a], exec i s = .next (s.trapHere .runfault)) ∧
    (∀ r, s.run h = some r →
      out (.rmark d a) s.pkg (word 24) ∧ out (.rhdr d a) s.pkg (word 0) ∧
      (r.state = .alloc → ∃ p, out (.rseal d a) p 0 ∧
        Redescribed s.pkg p die ix { r with state := .sealed, writer := Writer.none }) ∧
      (r.state = .opened → out (.rseal d a) s.pkg 1) ∧
      (r.state ≠ .alloc → r.state ≠ .opened → out (.rseal d a) s.pkg 2) ∧
      (r.state = .opened ∨ r.rdrs ≠ 0 → out (.rrel d a) s.pkg 1) ∧
      (r.state ≠ .opened → r.state ≠ .view → r.rdrs = 0 → ∃ p, out (.rrel d a) p 0 ∧
        Redescribed s.pkg p die ix
          { r with gen := (if 65535 ≤ r.gen then 1 else r.gen + 1), state := .free, rdrs := 0, writer := Writer.none, src := 0 }) ∧
      (r.state = .view → r.rdrs = 0 → r.src ≠ ix → ∃ p q, out (.rrel d a) q 0 ∧
        Redescribed s.pkg p die ix
          { r with gen := (if 65535 ≤ r.gen then 1 else r.gen + 1), state := .free, rdrs := 0, writer := Writer.none, src := 0 } ∧
        Redescribed p q die r.src { s.pkg.desc die r.src with rdrs := (s.pkg.desc die r.src).rdrs - 1 })) ∧
    (let w := 2 ^ (h.toNat % 8)
     let n := y.toNat
     let fits := h.toNat < 2 ^ 48 ∧ h.toNat / 8 % 8 = 0 ∧ h.toNat % 8 ≠ 7 ∧ n ≠ 0 ∧ n < 2 ^ 40 ∧ n * w ≤ 2 ^ 47 ∧
       h.toNat / 64 * 64 + n * w ≤ 2 ^ 48
     let free (i : Nat) : Prop := i < 8192 ∧ (s.pkg.mem.read (descAddr s.cur.die i + 5)).toNat / 16 = 0
     (¬fits → out (.rmk d a b) s.pkg 2) ∧ (fits → (∀ i, ¬free i) → out (.rmk d a b) s.pkg 1) ∧
     (fits → (∃ i, free i) → ∃ i p, free i ∧
       let gen := if (s.pkg.desc s.cur.die i).gen = 0 then 1 else (s.pkg.desc s.cur.die i).gen
       exec (.rmk d a b) s =
         .next (withResult { s with pkg := p, fresh := s.fresh + 1 } d
           (BitVec.ofNat 64 (gen * 2 ^ 48 + s.cur.die % 4 * 2 ^ 46 + i)) 1).answered ∧
       Redescribed s.pkg p s.cur.die i
         ⟨gen, .alloc, h.toNat % 8, 0, Writer.none, 0, BitVec.ofNat 64 (h.toNat / 64 * 64), y, 0, s.hart.xlat⟩)) ∧
    (s.useMask.getLsbD 19 = true → ∀ r, s.run h = some r →
      let e := 2 ^ (y.toNat / 2 ^ 32)
      let cols := y.toNat % 2 ^ 32
      let bytes := r.mark.toNat * 2 ^ r.wlog
      let fits := y.toNat < 2 ^ 33 ∧ r.state = .sealed ∧ e ∣ 2 ^ r.wlog ∧ cols ≠ 0 ∧ bytes % (e * cols) = 0
      let free (i : Nat) : Prop := i < 8192 ∧ (s.pkg.mem.read (descAddr die i + 5)).toNat / 16 = 0
      (¬fits → out (.rview d a b) s.pkg 2) ∧ (fits → r.rdrs = 511 ∨ (∀ i, ¬free i) → out (.rview d a b) s.pkg 1) ∧
      (fits → r.rdrs ≠ 511 → (∃ i, free i) → ∃ i p q, free i ∧
        let gen := if (s.pkg.desc die i).gen = 0 then 1 else (s.pkg.desc die i).gen
        let rows := bytes / (e * cols)
        exec (.rview d a b) s =
          .next (withResult { s with pkg := q, fresh := s.fresh + 1 } d
            (BitVec.ofNat 64 (gen * 2 ^ 48 + die * 2 ^ 46 + 2 ^ 45 + i)) 1).answered ∧
        Redescribed s.pkg p die ix { r with rdrs := r.rdrs + 1 } ∧
        Redescribed p q die i
          ⟨gen, .view, y.toNat / 2 ^ 32, 0, Writer.none, ix, r.base, BitVec.ofNat 64 (rows * 2 ^ 32 + cols),
            BitVec.ofNat 64 (rows * cols), r.under⟩))

/-- R178 to R180, R185, R323: the words of the ports, once no earlier transfer on the port is under way. While one is, they hold.
`pbind` answers INVAL for a layout word that its table does not allow, `pseek` for a position behind the port's, and moves nothing. A
port of a run that lies out of reach is not closed: the word traps RUNFAULT. -/
def Obligations.PortWords : Prop :=
  (∀ l : Word,
    let stride := l.toNat / 2 ^ 48
    let off := l.toNat / 2 ^ 32 % 2 ^ 6
    let nb := l.toNat / 2 ^ 24 % 2 ^ 4
    layoutOk l = true ↔ l.toNat / 2 ^ 38 % 2 ^ 10 = 0 ∧ l.toNat / 2 ^ 28 % 2 ^ 4 = 0 ∧ l.toNat / 2 ^ 4 % 2 ^ 20 = 0 ∧
      (nb = 0 ∨ (2 ≤ nb ∧ nb ≤ 8)) ∧ (stride = 0 → off = 0) ∧ (l.getLsbD 3 = true → stride = 0 ∧ off = 0)) ∧
  ∀ (d a b : SReg) (p : Port) (s : State), Issues s 0 [a, b, d] → s.portBusy p = false → s.pkg.mem.wf = true →
    let port := s.hart.ports[p]
    let writes := port.layout.getLsbD 3
    let out (i : Instr) (v : Word) : Prop := exec i s = .next (withResult s d v 1).answered
    let with' (g : Pkg) (q : PortSt) (p : Port) (v : Word) : State :=
      (withResult { s with pkg := g, hart := { s.hart with ports := s.hart.ports.set p q } } d v 1).answered
    let unbound : PortSt := ⟨false, 0, 0, 0, false, false, 0, none⟩
    let at' (h : Word) : Nat × Nat := (h.toNat / 2 ^ 46 % 4, h.toNat % 8192)
    out (.ppos d p) (BitVec.ofNat 64 port.pos) ∧ out (.phnd d p) port.handle ∧
    out (.pstat d p) (if port.bound then
      BitVec.ofNat 64 (2 ^ 63 + writes.toNat * 2 ^ 62 + port.atEnd.toNat * 2 ^ 61 + port.broken.toNat * 2 ^ 60 + port.last % 2 ^ 14)
      else 0) ∧
    (let n := (s.hart.reg b).toNat
     if port.bound = true ∧ writes = false ∧ port.pos ≤ n then
       exec (.pseek d p b) s = .next (with' s.pkg { port with pos := n, atEnd := false, broken := false } p 0)
     else out (.pseek d p b) 2) ∧
    (port.bound = false → out (.punbind d p) 2 ∧ out (.pseal d p) 2) ∧
    (port.bound = true → writes = false → out (.pseal d p) 2) ∧
    let reach : Prop := s.pkg.cutOff s.cur.die (at' port.handle).1 = false
    (port.bound = true → ¬reach → exec (.punbind d p) s = .next (s.trapHere .runfault) ∧
      (writes = true → exec (.pseal d p) s = .next (s.trapHere .runfault))) ∧
    (port.bound = true → reach → ∀ r, s.run port.handle = some r →
      (writes = false → ∃ g, exec (.punbind d p) s = .next (with' g unbound p 0) ∧
        Redescribed s.pkg g (at' port.handle).1 (at' port.handle).2 { r with rdrs := r.rdrs - 1 }) ∧
      (writes = true → port.pos % 2 ^ r.wlog = 0 →
        (∃ g, exec (.punbind d p) s = .next (with' g unbound p 0) ∧
          Redescribed s.pkg g (at' port.handle).1 (at' port.handle).2 { r with state := .alloc, writer := Writer.none }) ∧
        ∃ g, exec (.pseal d p) s = .next (with' g unbound p 0) ∧
          Redescribed s.pkg g (at' port.handle).1 (at' port.handle).2 { r with state := .sealed, writer := Writer.none })) ∧
    (let h := s.hart.reg a
     let l := s.hart.reg b
     let q : Port := ⟨l.toNat % 8, Nat.mod_lt _ (by decide)⟩
     let xl : Xl := s.xl s.hart.hst.mode
     (layoutOk l = false ∨ s.hart.ports[q].bound = true → out (.pbind d a b) 2) ∧
     (layoutOk l = true → s.hart.ports[q].bound = false →
       (s.run h = none → exec (.pbind d a b) s = .next (s.trapHere .runfault)) ∧
       ∀ r, s.run h = some r →
         (l.getLsbD 3 = false → r.rdrs = 511 → out (.pbind d a b) 1) ∧
         (l.getLsbD 3 = false → r.rdrs ≠ 511 → ∀ t, s.checkStream xl r .read 0 = .ok t →
           ∃ g, exec (.pbind d a b) s = .next (with' g ⟨true, h, l, 0, false, false, 0, t⟩ q 0) ∧
             Redescribed s.pkg g (at' h).1 (at' h).2 { r with rdrs := r.rdrs + 1 }) ∧
         (l.getLsbD 3 = true → r.state = .opened → out (.pbind d a b) 1) ∧
         (l.getLsbD 3 = true → r.state ≠ .alloc → r.state ≠ .opened →
           exec (.pbind d a b) s = .next (s.trapHere .runend)) ∧
         (l.getLsbD 3 = true → r.state = .alloc → s.cur.core < 5 → s.cur.hid < 8 → s.cur.die < 4 → s.cur.quad < 64 →
           ∀ t, (if r.mark.toNat < r.cap.toNat then s.checkStream xl r .write (r.mark.toNat * 2 ^ r.wlog) else .ok none) = .ok t →
           let helm := decide (s.cur.core = 4)
           ∃ g, exec (.pbind d a b) s =
               .next (with' g ⟨true, h, l, r.mark.toNat * 2 ^ r.wlog, false, false, 0, t⟩ q 0) ∧
             Redescribed s.pkg g (at' h).1 (at' h).2
               { r with
                 state := .opened
                 writer := ⟨1, s.cur.die, s.cur.quad, if helm then 0 else s.cur.core, if helm then 0 else s.cur.hid, q.val,
                   helm⟩ })))

/-! ### Beacons -/

/-- The state with a scalar beacon access issued, in the order of its class (R189, R190). -/
def Sys2Proof.Claims.accessing (s : State) (tk : Option Tok) (d : Option SReg) (k : BKind) (oc : OClass) (pa : Nat)
    (val cmp : Word) : State :=
  { s with
    fresh := s.fresh + 65
    hart := { posting s tk d with
      bops := s.hart.bops ++
        [⟨opId s, k, s.hart.pc, tk, s.hart.hst.mode, oc, false, true, none, [⟨0, pa, val, cmp⟩], []⟩] } }

/-- The trap of a scalar beacon word at its issue, its increment cancelled where it posts (R28, R188). -/
def Sys2Proof.Claims.beaconTrap (s : State) (tk : Option Tok) (c : Cause) : State :=
  match tk with
  | some tk =>
    trapAt { cause := c, aux := 0, tk := tk.val, can := true, qf := false, eng := false, dfd := false, pc := s.hart.pc
             src := s.hart.pc, dones := [] } s
  | none => s.trapHere c

/-- The new word an atomic leaves for the word it finds (R192). -/
def Sys2Proof.Claims.atomicWord (f : AtmFn) (old x cmp : Word) : Word :=
  match f with
  | .add => old + x
  | .max => if old.slt x then x else old
  | .min => if x.slt old then x else old
  | .swp => x
  | .cas => if old = cmp then x else old
  | .maxe => BitVec.ofNat 64 (max (old.toNat % 256) (x.toNat % 256))
  | .mine => BitVec.ofNat 64 (if old.toNat % 256 = 255 ∨ x.toNat % 256 = 255 then 255 else min (old.toNat % 256) (x.toNat % 256))

/-- What one access does to the beacons in the step in which it performs: what it delivers, and the memory it leaves (R188, R192). -/
def Sys2Proof.Claims.Performs (s t : State) (k : BKind) (pa : Nat) (x cmp : Word) (got : Option Word) : Prop :=
  let old := s.pkg.mem.word pa
  let byte := s.pkg.mem.read pa
  let only (n : Nat) : Prop := t.pkg.mem.wf = true ∧ ∀ a, a < pa ∨ pa + n ≤ a → t.pkg.mem.read a = s.pkg.mem.read a
  match k with
  | .load _ => got = some old ∧ t.pkg.mem = s.pkg.mem
  | .vload _ => got = some old ∧ t.pkg.mem = s.pkg.mem
  | .store => got = none ∧ t.pkg.mem.word pa = x ∧ only 8
  | .vstore => got = none ∧ t.pkg.mem.word pa = x ∧ only 8
  | .atomic f _ =>
    if f = .maxe ∨ f = .mine then
      got = some (byte.setWidth 64) ∧ (t.pkg.mem.read pa).setWidth 64 = atomicWord f (byte.setWidth 64) x cmp ∧ only 1
    else got = some old ∧ t.pkg.mem.word pa = atomicWord f old x cmp ∧ only 8
  | .vatomic _ =>
    got = some (byte.setWidth 64) ∧ (t.pkg.mem.read pa).setWidth 64 = atomicWord .maxe (byte.setWidth 64) x cmp ∧ only 1
  | _ => False

/-- The access is an atomic, scalar or vector. -/
def Sys2Proof.Claims.atomicKind : BKind → Bool
  | .atomic _ _ => true
  | .vatomic _ => true
  | _ => false

/-- R190, R191, R198: an issued access performs element by element, in the order of its class: while an earlier access of the
class has elements left, or an earlier ticketed one has still to complete, nothing happens; when nothing holds it back, its next element performs in one step, a ticketed one
drawing the next ticket. A vector store takes the register as it then stands. -/
def Sys2Proof.Claims.accessesPerform : Prop :=
  ∀ (s : State) (k : Nat) (b : BOp) (pre post : List BOp), s.hart.bops = pre ++ b :: post → k = pre.length →
    b.started = true → (∀ c ∈ pre ++ post, c.id ≠ b.id) → s.hart.queueFrozen = false → (∀ m, b.kind ≠ .fence m) → b.kind ≠ .vwait →
    let ev : Instr := if atomicKind b.kind then .atomicCompletion k else .beaconAccessCompletion k
    let other : Instr := if atomicKind b.kind then .beaconAccessCompletion k else .atomicCompletion k
    exec other s = .next s ∧
    ((∃ c ∈ pre ++ post, c.id < b.id ∧ (c.ticketed = true ∨ c.oc = b.oc ∧ (c.started = false ∨ c.elems ≠ [])) ∧
        ∀ m, c.kind ≠ .fence m) → b.elems ≠ [] → exec ev s = .next s) ∧
    ∀ (e : BElem) (es : List BElem), b.elems = e :: es → s.bopReady b = true → s.pkg.mem.wf = true →
      (∀ x, b.ent = some x → (∀ h ∈ s.hart.vholds, h.id = x.id → h.old = [])) →
      let reg (r : VReg) : Word := BitVec.ofNat 64 (vget s.hart.v (max 1 s.hart.leff) 64 r.val e.idx)
      (b.ent.isSome = true → b.kind = .vstore ∨ ∃ d, b.kind = .vload d ∨ b.kind = .vatomic d) →
      (b.kind = .vstore → ∃ x sc d a oc, b.ent = some x ∧ x.op = .vbst sc d a oc) →
      (∀ r, b.kind = .vatomic r → ∃ x d a v oc, b.ent = some x ∧ x.op = .vamaxe d a v oc) →
      let operand : Word := match b.ent.map VEntry.op with
        | some (.vbst _ d _ _) => reg d
        | some (.vamaxe _ _ v _) => reg v
        | _ => e.val
      ∃ t got, exec ev s = .next t ∧ Performs s t b.kind e.pa operand (if b.ent.isSome then 0 else e.cmp) got ∧
        t.pkg.ticket = s.pkg.ticket + (if b.ticketed then 1 else 0) ∧
        { b with elems := es, got := b.got ++ (got.map fun v => (e.idx, v)).toList } ∈ t.hart.bops ∧
        (∀ c ∈ pre ++ post, (∀ m, c.kind ≠ .fence m) → c ∈ t.hart.bops) ∧
        t.hart = { s.hart with bops := t.hart.bops } ∧ t.core = s.core ∧ t.quad = s.quad ∧ t.die = s.die ∧ t.harts = s.harts

/-- R22, R189, R192, R104: when every element has performed, the access completes: the word loaded, or before the atomic, to the
scalar destination or the active elements, then the increment. -/
def Sys2Proof.Claims.accessesComplete : Prop :=
  ∀ (s : State) (k : Nat) (b : BOp) (pre post : List BOp), s.hart.bops = pre ++ b :: post → k = pre.length →
    b.started = true → b.elems = [] → (∀ c ∈ pre ++ post, c.id ≠ b.id) → (∀ m, b.kind ≠ .fence m) →
    let ev : Instr := if atomicKind b.kind then .atomicCompletion k else .beaconAccessCompletion k
    let done (t : State) : Prop :=
      (∀ c ∈ t.hart.bops, c.id ≠ b.id) ∧ (∀ c ∈ pre ++ post, (∀ m, c.kind ≠ .fence m) → c ∈ t.hart.bops) ∧
      (∀ q ∈ t.hart.pendS, q.2.2 ≠ b.id) ∧ t.pkg = s.pkg ∧ t.hart.pc = s.hart.pc ∧ t.harts = s.harts ∧ t.quad = s.quad ∧
      t.core = { s.core with unwritten := t.core.unwritten } ∧ t.hart.m = s.hart.m
    (b.ent = none → ∃ t, exec ev s = .next t ∧ done t ∧ t.hart.v = s.hart.v ∧
      (∀ tk, b.tok = some tk →
        t.hart.token b.sup tk = ⟨(s.hart.token b.sup tk).cnt + 1, (s.hart.token b.sup tk).out - 1⟩) ∧
      (∀ sup d i v, s.hart.pendS.find? (fun q => decide (q.2.2 = b.id)) = some (sup, d, b.id) → d ≠ 0 → b.got = [(i, v)] →
        t.hart.regIn sup d = v) ∧
      ((∀ q ∈ s.hart.pendS, q.2.2 ≠ b.id) → ∀ sup r, t.hart.regIn sup r = s.hart.regIn sup r)) ∧
    ∀ x, b.ent = some x → x.id = b.id → x.dones = [] → s.mergesBefore b.id = false → 0 < s.hart.leff ∧ s.hart.lanes ≤ 32 →
      x.op.operandsOk x.vcfg = true → x.vl ≤ vlmaxOf s.hart.leff x.vcfg 0 →
      (∀ h ∈ s.hart.vholds, h.id = x.id → h.raced = [] ∧ h.old = []) →
      let tk := x.tok.getD 0
      let loads (d : VReg) : Prop := b.kind = .vload d ∧ (∃ sc a oc, x.op = .vbld sc d a oc) ∨
        b.kind = .vatomic d ∧ ∃ a v oc, x.op = .vamaxe d a v oc
      let ends (t : State) : Prop := exec ev s = .next t ∧ done t ∧ (∀ h ∈ t.hart.vholds, h.id ≠ x.id) ∧
        t.hart.token x.sup tk = ⟨(s.hart.token x.sup tk).cnt + 1, (s.hart.token x.sup tk).out - 1⟩
      (b.kind = .vstore → ∃ t, ends t ∧ t.hart.v = s.hart.v) ∧
      ∀ d, loads d → ∃ t, ends t ∧ (x.vl = 0 → t.hart.v = s.hart.v) ∧
        (0 < x.vl → (∀ i, activeIn s x i = true → ∃ v, (i, v) ∈ b.got) →
          (∀ i < x.vl, x.fm.getLsbD i = true → ∀ v, b.got.find? (fun g => decide (g.1 = i)) = some (i, v) →
            element t.hart 64 d i = v.toNat) ∧
          (∀ i < x.vl, x.fm.getLsbD i = false → element t.hart 64 d i = element s.hart 64 d i) ∧
          (∀ i, x.vl ≤ i → i < s.hart.leff * 4 * groupSize x 64 →
            element t.hart 64 d i = if tpOf x.vcfg then 0 else element s.hart 64 d i) ∧
          ∀ r : VReg, r.val < d.val ∨ d.val + groupSize x 64 ≤ r.val → t.hart.v[r] = s.hart.v[r])

/-- R188 to R190, R192: a vector access starts when every address of its active elements passes the checks; its elements then
wait for the order of its class, in index order, and its registers are held. One that fails traps BEACON or POISON, deferred, and
does nothing (what it names is log entries 14 and 28); at VL = 0 nothing is checked (R105). -/
def Sys2Proof.Claims.vectorAccessesStart : Prop :=
  ∀ (s : State) (x : VEntry) (rest : List VEntry) (a : VReg) (bytes : Nat) (write reads : Bool), Starts s x rest →
    (∃ sc d oc, x.op = .vbld sc d a oc ∧ bytes = 8 ∧ write = false ∧ reads = true) ∨
      (∃ sc d oc, x.op = .vbst sc d a oc ∧ bytes = 8 ∧ write = true ∧ reads = false) ∨
      (∃ d v oc, x.op = .vamaxe d a v oc ∧ bytes = 1 ∧ write = true ∧ reads = true) →
    let x' := { x with fm := s.hart.fm }
    let act := (List.range x.vl).filter fun i => activeAt s x i
    let place (i : Nat) : Option Nat := s.beaconAddr (BitVec.ofNat 64 (element s.hart 64 a i)) bytes write reads
    let trap (u : State) (c : Cause) : State := u.takeDeferred ⟨c, act.headD 0, x', true, []⟩
    let us := x.op.uses 64 (groupSize x 64)
    ((∃ i ∈ act, place i = none) → exec .vectorEntryStart s = .next (trap s .beacon)) ∧
    ((∀ i ∈ act, place i ≠ none) → reads = true → (∃ i ∈ act, ∃ pa, place i = some pa ∧ pa / 8 ∈ s.pkg.beaconPoison) →
      exec .vectorEntryStart s = .next (trap (s.countPsn s.cur) .poison)) ∧
    ((∀ i ∈ act, place i ≠ none) → (reads = true → ∀ i ∈ act, ∀ pa, place i = some pa → pa / 8 ∉ s.pkg.beaconPoison) →
      exec .vectorEntryStart s = .next { s with hart := { s.hart with
        vq := rest, beat := max s.hart.beat x.slot + 1
        bops := s.hart.bops.map fun o => if o.id = x.id then { o with
          started := true, ent := some x', elems := act.map fun i => ⟨i, (place i).getD 0, 0, 0⟩ } else o
        vholds := s.hart.vholds ++ us.map fun v => ⟨x.id, v.mask, (v.span (g8Of x.vcfg) 64).1, (v.span (g8Of x.vcfg) 64).2,
          v.w, v.dst, [], []⟩ } })

/-- R188 to R192, R310: the scalar beacon words. An address that fails its check traps BEACON, a load or an atomic of a poisoned
word POISON (that the check is made at issue is log entry 27, and that POISON's increment is made as cancelled is the model's
choice, log entry 31); otherwise the access takes its place in its class. An atomic needs both permissions (log entry 98).
10_memory_instructions.md, 11_ordering.md: the accesses to the beacons start, perform and complete. (That an element performs at
once and alone, and that a failed vector access does nothing, are log entries 5 and 14; that a scalar load or atomic that meets
POISON has its increment made as cancelled is the model's choice, log entry 31.) -/
def Obligations.BeaconAccesses : Prop :=
  (∀ (d a b : SReg) (oc : OClass) (tk : Tok) (s : State), Free s [a, b, d] →
    let at' := s.hart.reg a
    let x := s.hart.reg b
    let y := s.hart.reg d
    let out (i : Instr) (bytes : Nat) (write reads : Bool) (t : Option Tok) (r : Option SReg) (k : BKind) (v c : Word) : Prop :=
      (s.beaconAddr at' bytes write reads = none → exec i s = .next (beaconTrap s t .beacon)) ∧
      ∀ pa, s.beaconAddr at' bytes write reads = some pa →
        (reads = true → pa / 8 ∈ s.pkg.beaconPoison → exec i s = .next (beaconTrap (s.countPsn s.cur) t .poison)) ∧
        ((reads = true → pa / 8 ∉ s.pkg.beaconPoison) → (t.isSome = true → MayPost s) →
          exec i s = .next (accessing s t r k oc pa v c).advance) ∧
        ((reads = true → pa / 8 ∉ s.pkg.beaconPoison) → t.isSome = true → ¬MayPost s → exec i s = .next s.freeze)
    (s.useMask.getLsbD 0 = true →
      out (.bld d a oc tk) 8 false true (some tk) (some d) (.load d) 0 0 ∧ out (.bst d a oc) 8 true false none none .store y 0 ∧
      out (.bstk d a oc tk) 8 true false (some tk) none .store y 0) ∧
    (s.useMask.getLsbD 20 = true →
      out (.aadd d a b oc tk) 8 true true (some tk) (some d) (.atomic .add d) x 0 ∧
      out (.amax d a b oc tk) 8 true true (some tk) (some d) (.atomic .max d) x 0 ∧
      out (.amin d a b oc tk) 8 true true (some tk) (some d) (.atomic .min d) x 0 ∧
      out (.aswp d a b oc tk) 8 true true (some tk) (some d) (.atomic .swp d) x 0 ∧
      out (.acas d a b oc tk) 8 true true (some tk) (some d) (.atomic .cas d) x y) ∧
    (s.useMask.getLsbD 13 = true →
      out (.amaxe d a b oc tk) 1 true true (some tk) (some d) (.atomic .maxe d) x 0 ∧
      out (.amine d a b oc tk) 1 true true (some tk) (some d) (.atomic .mine d) x 0)) ∧
  vectorAccessesStart ∧ accessesPerform ∧ accessesComplete

/-- R194: `fenc` takes its place among the hart's accesses while something it selects is left before it: an access of a class it
names, a port write (bit 16), a Chart store, scalar or vector (bit 17). A reserved bit traps ILLEGAL. R195: a `vwait` at the
head of its hart's pipe reads its unmet words again; when all are met, or when its time-out in cycles of the hart has passed, it
writes its unmet mask and makes its increment. A time-out of 0 allows one round of reads, that of its start. -/
def Obligations.FencesAndWaits : Prop :=
  (∀ (a : SReg) (s : State), Issues s 0 [a] → s.hart.queueFrozen = false → (∀ b ∈ s.hart.bops, b.id < opId s) →
    (∀ x ∈ s.hart.vq, x.id < opId s) → (∀ o ∈ s.core.pipe, o.ent.id < opId s) → (∀ x ∈ s.hart.stores, x.id < opId s) →
    let m := s.hart.reg a
    let sel : BitVec 18 := m.setWidth 18
    let queued (p : VOp → Bool) : Prop := (∃ x ∈ s.hart.vq, p x.op = true) ∨ ∃ o ∈ s.core.pipe, o.hid = s.cur.hid ∧ p o.ent.op = true
    let left : Prop := (∃ b ∈ s.hart.bops, (∀ k, b.kind ≠ .fence k) ∧ (b.started = false ∨ b.elems ≠ []) ∧ sel.getLsbD b.oc.val = true) ∨
      (m.getLsbD 16 = true ∧ queued VOp.isPortWrite) ∨ (m.getLsbD 17 = true ∧ (queued VOp.isChartStore ∨ s.hart.stores ≠ []))
    (m.toNat / 2 ^ 18 ≠ 0 → exec (.fenc a) s = .next (s.trapHere .illegal)) ∧
    (m.toNat / 2 ^ 18 = 0 → ∃ bs, exec (.fenc a) s =
        .next { s with fresh := s.fresh + 65, hart := { s.hart with bops := bs } }.advance ∧
      (∀ b, (∀ k, b.kind ≠ .fence k) → (b ∈ bs ↔ b ∈ s.hart.bops)) ∧
      ((∃ b ∈ bs, b.id = opId s ∧ b.kind = .fence sel) ↔ left))) ∧
  ∀ (s : State) (o : UOp) (x : VEntry) (d : MReg) (a : VReg) (oc : OClass), s.core.oldest .pipe s.cur.hid = some o →
    o.ent = x → x.op = .vwait d a oc → o.blocked = false → o.left = 0 → o.start < s.hart.slot → s.hart.merges = [] →
    (∀ p ∈ s.core.pipe ++ s.core.net, p.hid = s.cur.hid → p.ent.id < x.id → p.ent.op.merges = false) →
    (∀ k ∈ s.hart.vholds, k.id = x.id → k.raced = [] ∧ k.old = []) → (∀ e ∈ o.addrs, e.idx < 8192) →
    (∀ p ∈ s.core.pipe, (p.hid = o.hid ∧ p.ent.id = x.id) → p = o) → s.core.pipe.Nodup →
    let limit := (x.sv.headD 0).toNat
    let meets (again : Bool) (e : BElem) : Prop :=
      o.met.getLsbD e.idx = true ∨ again = true ∧ 0 ≤ (s.pkg.mem.word e.pa - e.val).toInt
    let unmet (again : Bool) (i : Nat) : Prop := ∃ e ∈ o.addrs, e.idx = i ∧ ¬∃ e' ∈ o.addrs, e'.idx = i ∧ meets again e'
    let ends (i : Instr) (again : Bool) : Prop := ∃ t, exec i s = .next t ∧ Posted s t .pipe o x ∧ t.hart.v = s.hart.v ∧
      (∀ i < 8192, t.hart.m[d].getLsbD i = true ↔ unmet again i) ∧ ∀ j : MReg, j ≠ d → t.hart.m[j] = s.hart.m[j]
    let again := decide (0 < limit)
    ((∀ i, ¬unmet again i) → ends .vwaitReread again) ∧
    ((∃ i, unmet again i) → ∃ t, exec .vwaitReread s = .next t ∧ t.hart = s.hart ∧ t.pkg = s.pkg ∧
      ∃ o', t.core.oldest .pipe s.cur.hid = some o' ∧
        ∀ i < 8192, o'.met.getLsbD i = true ↔ o.met.getLsbD i = true ∨ again = true ∧ ∃ e ∈ o.addrs, e.idx = i ∧ meets true e) ∧
    (o.since + limit ≤ s.hart.clock → ends .vwaitTimeout again) ∧
    (s.hart.clock < o.since + limit → exec .vwaitTimeout s = .next s)

/-! ### Port transfers -/

/-- R182, R186, R187: what a port read takes from its run: item by item, in element order, the active elements of a plain read,
every element below VL of a narrow one. `place` and `size` are the item's bytes in the stream. -/
structure Sys2Proof.Claims.ReadPlan where
  items : List Nat
  place : Nat → Nat
  size : Nat → Nat
  value : Nat → List Byte → Nat
  stopAt : Nat → Nat
  posAt : Nat → Nat

def Sys2Proof.Claims.readPlan (s : State) (x : VEntry) (f : VptFn) (p : Port) (bv : VReg) (r : RunD) : ReadPlan :=
  let port := s.hart.ports[p]
  let sew := sewOf x.vcfg
  let act := (List.range x.vl).filter fun i => activeIn s x i
  let stride := port.layout.toNat / 2 ^ 48
  let step := if stride = 0 then sew / 8 else stride
  let rank (i : Nat) : Nat := (act.filter fun j => decide (j < i)).length
  let bits := port.layout.toNat / 2 ^ 24 % 16
  let block := max 1 (bsOf x.vcfg)
  let bytes := block * bits / 8
  let scale (i : Nat) : Nat := vget s.hart.v s.hart.leff 8 bv.val (i / block)
  if f.isNarrow then
    { items := List.range x.vl
      place := fun i => port.pos + i / block * bytes + bits * (i % block) / 8
      size := fun i => (bits * (i % block) + bits - 1) / 8 - bits * (i % block) / 8 + 1
      value := fun i bs =>
        let code := leNat bs / 2 ^ (bits * (i % block) % 8) % 2 ^ bits
        let signed : Int := if code < 2 ^ (bits - 1) then code else (code : Int) - 2 ^ bits
        if f = .rdnF ∨ f = .rdnffF then decBfp signed (scale i) bits
        else if f = .rdnBf ∨ f = .rdnffBf then (f32ToBf .rne (decBfp signed (scale i) bits)).1
        else (signed % 256).toNat
      stopAt := fun i => i / block * block
      posAt := fun i => port.pos + (if i = x.vl then (x.vl + block - 1) / block else i / block) * bytes }
  else
    { items := act
      place := fun i =>
        let q := port.pos + rank i * step
        if stride = 0 then q else q * 2 ^ r.wlog + port.layout.toNat / 2 ^ 32 % 64
      size := fun _ => sew / 8, value := fun _ bs => leNat bs, stopAt := id
      posAt := fun i => if f = .peek then port.pos else port.pos + rank i * step }

/-- R163, R180 to R184, R186: a port read whose turn has come takes its items in order until all have moved, or one cannot: it
then waits at MARK, ends at the run's end, or fails, of which a fault-only-first read past its first element makes the end of its
vector. What has moved before is delivered; the port moves over it. (Where a narrow read counts as stopped, the tail of a read
that ends early, and LAST are log entries 18, 34 and 100.) -/
def Sys2Proof.Claims.portReads : Prop :=
  ∀ (s : State) (o : UOp) (x : VEntry) (f : VptFn) (d : VReg) (p : Port) (bv : VReg) (m : MSel) (r : RunD),
    Completes s .pipe o x → x.op = .vpt f d p bv m → f.isWrite = false → 0 < x.vl → s.run s.hart.ports[p].handle = some r →
    let port := s.hart.ports[p]
    let xl : Xl := s.xl x.sup
    let sew := sewOf x.vcfg
    let plan := readPlan s x f p bv r
    let first := ((List.range x.vl).find? fun i => activeIn s x i).getD 0
    let ev := exec (.vectorPostingCompletion .pipe) s
    ∀ (n : Nat) (trs : Nat → Option Tr) (bs : Nat → List Byte), n ≤ plan.items.length → trs 0 = port.tr →
      (∀ k i, k < n → plan.items[k]? = some i → r.avail (plan.place i) (plan.size i) = .ready ∧
        s.readStream xl r (trs k) (plan.place i) (plan.size i) = .ok (trs (k + 1), bs i)) →
      let upTo (t : State) (k : Nat) : Prop :=
        (∀ i, i < k → i < x.vl → element t.hart sew d i =
          if activeIn s x i then plan.value i (bs i) % 2 ^ sew
          else if x.fm.getLsbD i && mpOf x.vcfg then 0 else element s.hart sew d i) ∧
        t.hart.m = s.hart.m ∧ ∀ q : VReg, q.val < d.val ∨ d.val + groupSize x sew ≤ q.val → t.hart.v[q] = s.hart.v[q]
      let places := s.hart.leff * (256 / sew) * groupSize x sew
      let keeps (t : State) (k : Nat) : Prop := ∀ i, k ≤ i → i < places → element t.hart sew d i = element s.hart sew d i
      let tail (t : State) (k : Nat) : Prop := ∀ i, k ≤ i → i < places →
        element t.hart sew d i = if tpOf x.vcfg then 0 else element s.hart sew d i
      let ported (t : State) (q : PortSt) : Prop := t.hart.ports = s.hart.ports.set p q
      let moved (i k : Nat) : PortSt := { port with pos := plan.posAt i, tr := trs k }
      (n = plan.items.length → ∃ t, ev = .next t ∧ Posted s t .pipe o x ∧ upTo t x.vl ∧ tail t x.vl ∧ t.hart.vl = s.hart.vl ∧
        ported t { moved x.vl n with last := ((List.range x.vl).filter fun i => activeIn s x i).length }) ∧
      ∀ i, plan.items[n]? = some i →
        let k := plan.stopAt i
        let kept := if f.isNarrow then k else n
        let noTrap (t : State) : Prop := ev = .next t ∧ Posted s t .pipe o x ∧ upTo t k ∧ tail t k ∧
          t.hart.vl = if f.isFf then k else s.hart.vl
        (r.avail (plan.place i) (plan.size i) = .wait → ∃ t, ev = .next t ∧ upTo t k ∧ keeps t k ∧ ported t (moved i kept) ∧
          t.hart.tk = s.hart.tk ∧ t.hart.supTk = s.hart.supTk ∧ t.pkg = s.pkg ∧
          t.core.pipe = s.core.pipe.map fun q => if q.hid = o.hid ∧ q.ent.id = x.id then
            { o with blocked := true, ent := { x with dones := doneCounts s.hart.lanes s.hart.leff k } } else q) ∧
        (r.avail (plan.place i) (plan.size i) = .ended → ∃ t, noTrap t ∧ ported t { moved i kept with atEnd := true, last := k }) ∧
        (r.avail (plan.place i) (plan.size i) = .broken → ∃ t, noTrap t ∧ ported t { moved i kept with broken := true, last := k }) ∧
        ∀ e, r.avail (plan.place i) (plan.size i) = .ready → e = .fault ∨ e = .perm ∨ e = .poison →
          s.readStream xl r (trs n) (plan.place i) (plan.size i) = .error e →
          let cause := if e = .poison then Cause.poison else Cause.runfault
          (f.isFf = true → (if f.isNarrow then k ≠ 0 else first < k) → ∃ t, noTrap t ∧ ported t { moved i kept with last := k }) ∧
          (f.isFf = true → ¬(if f.isNarrow then k ≠ 0 else first < k) → ∃ u, ev =
            .next (State.takeDeferred u ⟨cause, i, x, true, doneCounts s.hart.lanes s.hart.leff 0⟩) ∧
            u.hart = s.hart ∧ u.core = s.core ∧ (e ≠ .poison → u = s)) ∧
          (f.isFf = false → ∃ u, ev =
            .next (State.takeDeferred u ⟨cause, i, x, true, doneCounts s.hart.lanes s.hart.leff k⟩) ∧
            upTo u k ∧ keeps u k ∧ ported u (moved i kept) ∧ (e ≠ .poison → u.pkg = s.pkg))

/-- R162, R182, R185 to R187, R196: a port write lays the values of its active elements down one after the other, a narrow one blocks
of codes, of which an element outside the fragment has the code zero, an element or block with each step; MARK then covers the records
that are whole. With the last the port moves, the flags of the codes merge, and the increment follows. A plain one that would pass CAP, or whose bytes no translation admits, stops there with
RUNFAULT, what went before in place. -/
def Sys2Proof.Claims.portWrites : Prop :=
  ∀ (s : State) (o : UOp) (x : VEntry) (f : VptFn) (d : VReg) (p : Port) (bv : VReg) (m : MSel) (r : RunD),
    Completes s .pipe o x → x.op = .vpt f d p bv m → f.isWrite = true → 0 < x.vl → s.run s.hart.ports[p].handle = some r →
    let port := s.hart.ports[p]
    let xl : Xl := s.xl x.sup
    let sew := sewOf x.vcfg
    let bits := port.layout.toNat / 2 ^ 24 % 16
    let block := max 1 (bsOf x.vcfg)
    let act := (List.range x.vl).filter fun i => activeIn s x i
    let val (i : Nat) : Nat := element s.hart sew d i
    let code (i : Nat) : Nat × FFlags :=
      if x.vl ≤ i ∨ x.fm.getLsbD i = false then (0, 0)
      else
        let scale := vget s.hart.v s.hart.leff 8 bv.val (i / block)
        match f with
        | .wrnF => satBfp (val i) scale bits
        | .wrnBf => satBfp (val i * 2 ^ 16) scale bits
        | _ => (val i % 2 ^ bits, 0)
    let pieces := if f.isNarrow then (x.vl + block - 1) / block else act.length
    let size := if f.isNarrow then block * bits / 8 else sew / 8
    let holds (j : Nat) (bs : List Byte) : Prop := bs.length = size ∧
      (f.isNarrow = true → ∀ t < block, leNat bs / 2 ^ (bits * t) % 2 ^ bits = (code (block * j + t)).1 % 2 ^ bits) ∧
      (f.isNarrow = false → leNat bs = val (act.getD j 0))
    let ev := exec (.vectorPostingCompletion .pipe) s
    let cap := r.cap.toNat * 2 ^ r.wlog
    bits ∈ [0, 2, 3, 4, 5, 6, 7, 8] → (f.isNarrow = true → bits ≠ 0) → port.layout.toNat / 2 ^ 48 = 0 →
    ∀ (n : Nat) (us : Nat → State) (trs : Nat → Option Tr) (bs : Nat → List Byte), n ≤ pieces → us 0 = s → trs 0 = port.tr →
      (∀ j ≤ n, holds j (bs j)) →
      (∀ j < n, port.pos + (j + 1) * size ≤ cap ∧
        (us j).writeStream xl r (trs j) (port.pos + j * size) (bs j) = .ok (trs (j + 1), us (j + 1))) →
      let pos := port.pos + n * size
      let pkg : Pkg := (us n).pkg.publish port.handle (max r.mark.toNat (pos / 2 ^ r.wlog))
      let ported (t : State) (q : PortSt) : Prop := t.hart.ports = s.hart.ports.set p q
      let hi := if f.isNarrow then (o.stored / block + 1) * block else o.stored + 1
      let ahead := if f.isNarrow then o.stored / block + 1 else (act.filter fun i => decide (i < hi)).length
      (hi < x.vl → n = ahead → ∃ t, ev = .next t ∧ t.pkg = pkg ∧ t.hart = s.hart ∧
        t.core.pipe = s.core.pipe.map fun q => if q.hid = o.hid ∧ q.ent.id = x.id then { o with stored := hi } else q) ∧
      (x.vl ≤ hi → n = pieces → ∃ t, ev = .next t ∧ PostedHere s t .pipe o x ∧ t.pkg = pkg ∧ t.hart.v = s.hart.v ∧ t.hart.m = s.hart.m ∧
        ported t { port with pos := pos, tr := trs n, last := act.length } ∧
        flagsMerged s.hart t.hart (if f.isNarrow then (List.range x.vl).map fun i => ((code i).2, i) else [])) ∧
      (n < pieces → x.vl ≤ hi ∨ n < ahead → f.isNarrow = false → ∀ c,
        (cap < pos + size ∧ c = .runfault) ∨ (pos + size ≤ cap ∧ ∃ e, e ≠ .poison ∧ (∀ fr, e ≠ .bad fr) ∧ c = .runfault ∧
          (us n).writeStream xl r (trs n) pos (bs n) = .error e) →
        let i := act.getD n 0
        ∃ u, ev = .next (State.takeDeferred u ⟨c, i, x, true, doneCounts s.hart.lanes s.hart.leff i⟩) ∧ u.pkg = pkg ∧
          u.hart = { s.hart with ports := s.hart.ports.set p { port with pos := pos, tr := trs n } })

/-- R156, R162, R166, R169: where one range entry of plain storage in Hold maps the bytes of a stream, they are the bytes of the
memory behind it, and a write changes these and no other. -/
def Sys2Proof.Claims.streamBytes : Prop :=
  ∀ (s : State) (x : Xl) (r : RunD) (g : Range) (b n : Nat) (bs : List Byte), r.state ≠ .view → bs.length = n → 0 < n →
    s.pkg.mem.wf = true → findRange (s.getDie x.die).ranges x.ctx (r.base.toNat + b) = some g →
    r.base.toNat + b + n ≤ g.limit.toNat → g.limit.toNat < 2 ^ 48 → g.base.toNat ≤ r.base.toNat + b →
    g.attr.getLsbD 8 = false → (g.attr.getLsbD 4 = true ∨ x.user = false) →
    let pa (k : Nat) : Nat := (r.base.toNat + b + k + g.off.toNat) % 2 ^ 48
    (∀ k < n, inHold (pa k) = true ∧ s.pkg.cutOff x.die (homeDie (pa k)) = false ∧ s.pkg.poisoned (pa k / 4096) = false ∧
      eccUnit (pa k) ∉ s.pkg.bad) →
    (g.attr.getLsbD 1 = true → ∃ t, s.readStream x r none b n = .ok (t, (List.range n).map fun k => s.pkg.mem.read (pa k))) ∧
    (g.attr.getLsbD 2 = true → ∃ t u, s.writeStream x r none b bs = .ok (t, u) ∧ u.pkg.mem.wf = true ∧
      u = { s with pkg := { s.pkg with mem := u.pkg.mem, bad := u.pkg.bad } } ∧
      (∀ k < n, u.pkg.mem.read (pa k) = bs.getD k 0) ∧ ∀ a, (∀ k < n, a ≠ pa k) → u.pkg.mem.read a = s.pkg.mem.read a)

/-- R162, R163, R180 to R187: the transfers between vector registers and runs, and the stream they move on. -/
def Obligations.PortTransfersMove : Prop :=
  portReads ∧ portWrites ∧ streamBytes

/-! ### Engines -/

/-- Nothing of the focused hart that is older than an operation has flags still to merge (R111). -/
def Sys2Proof.Claims.MergedBefore (s : State) (id : Nat) : Prop :=
  (∀ m ∈ s.hart.merges, id ≤ m.id) ∧
  ∀ u ∈ s.core.pipe ++ s.core.net, u.hid = s.cur.hid → u.ent.id < id → u.ent.op.merges = false

/-- The context that issued a command is on the focused hart, or its handler is (log entry 94), and no older merge holds its
increment back (R111). -/
def Sys2Proof.Claims.OwnedHere (s : State) (o : Owner) : Prop :=
  MergedBefore s o.seq ∧
  (((o.ctx = 0 ∨ o.sup = true) ∧ o.hart = s.cur) ∨ (o.ctx ≠ 0 ∧ o.sup = false ∧ s.hart.ctx.map Ctx.id = some o.ctx))

/-- A command has reported to the focused hart (R22): its scalar destination, where a value came, then its increment. -/
def Sys2Proof.Claims.Reported (s t : State) (o : Owner) (v : Option Word) : Prop :=
  t.hart.token o.sup o.tok = ⟨(s.hart.token o.sup o.tok).cnt + 1, (s.hart.token o.sup o.tok).out - 1⟩ ∧
  (∀ p ∈ t.hart.pendS, p.2.2 ≠ o.seq) ∧
  ∀ x b d, v = some x → s.hart.pendS.find? (fun p => decide (p.2.2 = o.seq)) = some (b, d, o.seq) → d ≠ 0 →
    t.hart.regIn b d = x

/-- The same of an operation that only answers, once its completion is made (R22, R355). -/
def Sys2Proof.Claims.LateMade (s t : State) (l : Late) : Prop :=
  t.hart.token l.sup l.tok = ⟨(s.hart.token l.sup l.tok).cnt + 1, (s.hart.token l.sup l.tok).out - 1⟩ ∧
  (∀ p ∈ t.hart.pendS, p.2.2 ≠ l.id) ∧
  ∀ x b d, l.val = some x → s.hart.pendS.find? (fun p => decide (p.2.2 = l.id)) = some (b, d, l.id) → d ≠ 0 → t.hart.regIn b d = x

/-- A beat of the queue has passed in which its head could not start (R107). -/
def Sys2Proof.Claims.idled (s : State) : State := { s with hart := { s.hart with beat := s.hart.slot + 1 } }

/-- The owner of what the focused hart hands to a unit. -/
def Sys2Proof.Claims.ownerOf (s : State) (tk : Tok) : Owner :=
  ⟨opId s, s.cur, (s.hart.ctx.map Ctx.id).getD 0, s.hart.hst.mode, tk, s.hart.pc, (s.hart.ctx.map Ctx.scope).getD 0⟩

/-- An operation has issued that only answers: its completion, with the value v for s[d], is still to be made (R355). -/
def Sys2Proof.Claims.answering (s : State) (tk : Tok) (d : SReg) (v : Word) : State :=
  let t := posted s tk (some d)
  { t with hart := { t.hart with late := t.hart.late ++ ([⟨opId s, s.hart.hst.mode, tk, some v⟩] : List Late) } }

/-- The capability bits that formats ask for: 14 for BF16, 15 for BFP2 to BFP4, 16 for BFP5 to BFP8; any of them where no
format is named (R40). -/
def Sys2Proof.Claims.FormatsDeclared (s : State) (fs : List Nat) : Prop :=
  (∀ f ∈ fs, (f = 8 → s.useMask.getLsbD 14 = true) ∧ (0x12 ≤ f → f ≤ 0x14 → s.useMask.getLsbD 15 = true) ∧
    (0x15 ≤ f → f ≤ 0x18 → s.useMask.getLsbD 16 = true)) ∧
  ((∀ f ∈ fs, f ≠ 8 ∧ (f < 0x12 ∨ 0x18 < f)) →
    s.useMask.getLsbD 14 = true ∨ s.useMask.getLsbD 15 = true ∨ s.useMask.getLsbD 16 = true)

/-- The formats of the configuration in force (R245). -/
def Sys2Proof.Claims.formatsOf (q : Quad) : List Nat := if q.mxcV then [q.afmt.toNat, q.bfmt.toNat] else []

/-- R40, R243, R245 to R248, R355: the configuration words of the helm core. The formats and the dimensions are in force two
slots after their issue; a tile enabled for the first time reads +0, and `men` may hold the front while that is done. Where no
format is named, any one of the three capability bits will do (log entry 82). -/
def Obligations.MatrixConfiguration : Prop :=
  ∀ (d a b : SReg) (s : State), Free s [d, a, b] → s.hart.hst.helm = true →
    let x := s.hart.reg a
    let y := s.hart.reg b
    let mxc : Word := BitVec.ofNat 64 (s.quad.mxcV.toNat * 2 ^ 15 + s.quad.bfmt.toNat * 2 ^ 8 + s.quad.afmt.toNat)
    let inFlight (t : State) (r : Dest) (v : Nat) : State :=
      { t with hart := { t.hart with infl := t.hart.infl ++ [⟨r, BitVec.ofNat 64 v, s.hart.slot + 2, 0⟩] } }
    let reserved (f : Nat) : Prop := (0x0B ≤ f ∧ f ≤ 0x11) ∨ 0x19 ≤ f
    let mask : BitVec 8 := x.setWidth 8
    (FormatsDeclared s [x.toNat % 32, y.toNat % 32] →
      let af := x.toNat
      let bf := y.toNat
      let pair := (af = 8 ∧ bf = 8) ∨ (0x12 ≤ af ∧ af ≤ 0x18 ∧ (bf = 0x14 ∨ bf = 0x18))
      (32 ≤ af ∨ 32 ≤ bf ∨ reserved af ∨ reserved bf → exec (.mcfg d a b) s = .next (s.trapHere .illegal)) ∧
      (af < 32 → bf < 32 → ¬reserved af → ¬reserved bf → ¬pair → exec (.mcfg d a b) s = .next (s.trapHere .combo)) ∧
      (pair → exec (.mcfg d a b) s =
        .next (inFlight (withResult s d mxc 2) .mxc (2 ^ 15 + bf * 2 ^ 8 + af)).advance ∧
        (Quiet s → ∃ t, exec (.mcfg d a b) s = .next t ∧ t.quad = s.quad ∧
          (tick t).quad = { s.quad with mxcV := true, afmt := BitVec.ofNat 5 af, bfmt := BitVec.ofNat 5 bf }))) ∧
    (FormatsDeclared s (formatsOf s.quad) →
      let m := min (s.hart.reg d).toNat 64
      let n := min x.toNat 64
      let k := min y.toNat 2048
      (d = a ∨ d = b ∨ a = b → exec (.msetl d a b) s = .next (s.trapHere .illegal)) ∧
      (d ≠ a → d ≠ b → a ≠ b →
        exec (.msetl d a b) s = .next (inFlight (withResult (withResult (withResult s d (BitVec.ofNat 64 m) 2) a
          (BitVec.ofNat 64 n) 2) b (BitVec.ofNat 64 k) 2) .mdim (k * 2 ^ 16 + n * 2 ^ 8 + m)).advance ∧
        (Quiet s → ∃ t, exec (.msetl d a b) s = .next t ∧ t.quad = s.quad ∧
          (tick t).quad = { s.quad with mg := m, ng := n, kg := k })) ∧
      (256 ≤ x.toNat → exec (.men d a) s = .next (s.trapHere .illegal) ∧ exec (.mdis d a) s = .next (s.trapHere .illegal)) ∧
      (x.toNat < 256 → s.quad.tiles.wf = true → ∃ q, exec (.men d a) s =
          .next (withResult { s with quad := q } d (s.quad.ten.setWidth 64) 1).answered ∧
        q = { s.quad with ten := s.quad.ten ||| mask, tiles := q.tiles, tilePoison := q.tilePoison } ∧ q.tiles.wf = true ∧
        ∀ p < 0x20000, q.tiles.read p =
          if mask.getLsbD (p / 0x4000) && !s.quad.ten.getLsbD (p / 0x4000) then 0 else s.quad.tiles.read p) ∧
      (x.toNat < 256 →
        ((∃ o ∈ s.quad.mops, (mask &&& s.quad.ten).getLsbD o.tile.val = true) → exec (.mdis d a) s = .next s.hold) ∧
        ((∀ o ∈ s.quad.mops, (mask &&& s.quad.ten).getLsbD o.tile.val = false) →
          exec (.mdis d a) s = .next (withResult { s with quad := { s.quad with ten := s.quad.ten &&& ~~~mask } } d
            (s.quad.ten.setWidth 64) 1).advance)))

/-- R250, R251: a descriptor is in order: nothing reserved is set, BASE and PITCH are multiples of 64, and what `count` rows of
`length` bytes each read lies in the stage of BASE. -/
def Sys2Proof.Claims.DescFits (d : Word) (count length : Nat) : Prop :=
  let base := d.toNat % 2 ^ 21
  let pitch := d.toNat / 2 ^ 21 % 2 ^ 21
  d.toNat < 2 ^ 42 ∧ base % 64 = 0 ∧ pitch % 64 = 0 ∧ (base + (count - 1) * pitch + length - 1) / 0x80000 = base / 0x80000

/-- The bits of a code of a block format (R56); 0 for any other format. -/
def Sys2Proof.Claims.codeBits (f : Nat) : Nat := if 0x12 ≤ f ∧ f ≤ 0x18 then f - 0x10 else 0

/-- Bytes of a group of sixteen along K (R249). -/
def Sys2Proof.Claims.operandBytes (f : Nat) : Nat := if f = 8 then 40 else 2 * codeBits f

/-- Element t of a group of b planes: bit p is bit t of plane p, a word of two bytes, the lower byte first (R249). -/
def Sys2Proof.Claims.planeBits (m : Mem) (a b t : Nat) : Nat :=
  ((List.range b).map fun p => ((m.read (a + 2 * p + t / 8)).getLsbD (t % 8)).toNat * 2 ^ p).sum

/-- The same as a signed number. -/
def Sys2Proof.Claims.codeAt (m : Mem) (a b t : Nat) : Int := (BitVec.ofNat b (planeBits m a b t)).toInt

/-- A BF16 operand from its significand and its exponent (R249, R68): EXP 0 is a zero, EXP 255 an infinity or, with a fraction, a
NaN, quiet where the fraction's highest bit is set. -/
def Sys2Proof.Claims.bfAt (m : Mem) (a t : Nat) : BfOp :=
  let σ := codeAt m a 9 t
  let E := (m.read (a + 24 + t)).toNat
  if E = 0 then .zero
  else if E = 255 then (if σ.natAbs = 128 then .inf (decide (σ < 0)) else .nan !((σ.natAbs - 128).testBit 6))
  else .num (decide (σ < 0)) σ.natAbs ((E : Int) - 127)

/-- R252: one group of one cell, from the operands where their descriptors say, elements at or above Kg being zero. -/
def Sys2Proof.Claims.groupOf (m : Mem) (o : Mop) (c i j g : Nat) : Nat × FFlags :=
  let row (d : Word) (k : Nat) : Nat := d.toNat % 2 ^ 21 + k * (d.toNat / 2 ^ 21 % 2 ^ 21)
  let a := row o.descA i + g * operandBytes o.afmt
  let b := row o.descB j + g * operandBytes o.bfmt
  let scale (d : Word) (k : Nat) : Nat := planeBits m (row d k + g / 16 * 16) 8 (g % 16)
  if o.afmt = 8 then
    bfGroup c ((List.range 16).map fun t => if 16 * g + t < o.kg then (bfAt m a t, bfAt m b t) else (.zero, .zero))
  else
    bfpGroupSum c (scale o.scaleA i) (scale o.scaleB j) (codeBits o.afmt) (codeBits o.bfmt)
      ((List.range 16).map fun t =>
        if 16 * g + t < o.kg then (codeAt m a (codeBits o.afmt) t, codeAt m b (codeBits o.bfmt) t) else (0, 0))

/-- R251, R253, R18: the matrix words check their register pairs, the configuration, the tile and the descriptors, and join the
array with the configuration as it stands; while eight operations are in it the front holds. The scale descriptor of a BF16
operand is not read (R250). R252, R253: the operations of the array go in order: the first becomes head, reads once no plane
store or copy is writing its stages, then completes: each cell the sum over its groups of K, in order, from +0 for `mmaz` and
from the cell for `mma`; +0 for `mzero`; `mma` with K = 0 leaves the tile. -/
def Obligations.MatrixOperations : Prop :=
  (∀ (tile : Tile) (a b : SReg) (tk : Tok) (s : State), s.hart.hst.helm = true → FormatsDeclared s (formatsOf s.quad) →
    let a' : SReg := ⟨(a.val + 1) % 32, Nat.mod_lt _ (by decide)⟩
    let b' : SReg := ⟨(b.val + 1) % 32, Nat.mod_lt _ (by decide)⟩
    let q := s.quad
    let r := s.hart.reg
    let scale (fmt : BitVec 5) (x : SReg) : Word := if fmt = 8 then 0 else r x
    let joins (f : MopFn) (da sa db sb : Word) : State :=
      { posted s tk none with quad := { s.quad with mops := s.quad.mops ++
        ([⟨f, tile, ownerOf s tk, q.afmt.toNat, q.bfmt.toNat, q.mg, q.ng, q.kg, da, sa, db, sb, .queued, false⟩] : List Mop) } }.advance
    let enabled := q.ten.getLsbD tile.val = true
    (¬enabled → exec (.mzero tile tk) s = .next (s.trapHere .tileoff)) ∧
    (enabled → 8 ≤ q.mops.length → exec (.mzero tile tk) s = .next s.hold) ∧
    (enabled → q.mops.length < 8 → MayPost s → exec (.mzero tile tk) s = .next (joins .mzero 0 0 0 0)) ∧
    (enabled → q.mops.length < 8 → ¬MayPost s → exec (.mzero tile tk) s = .next s.freeze) ∧
    ∀ p ∈ [(Instr.mma tile a b tk, MopFn.mma), (Instr.mmaz tile a b tk, MopFn.mmaz)],
      Free s [a, b] → (q.afmt ≠ 8 → Free s [a']) → (q.bfmt ≠ 8 → Free s [b']) →
      let pairs := a ≠ 0 ∧ a.val % 2 = 0 ∧ b ≠ 0 ∧ b.val % 2 = 0
      let groups := (q.kg + 15) / 16
      let fits := q.mg = 0 ∨ q.ng = 0 ∨ q.kg = 0 ∨
        (DescFits (r a) q.mg (groups * operandBytes q.afmt.toNat) ∧ DescFits (r b) q.ng (groups * operandBytes q.bfmt.toNat) ∧
          (q.afmt ≠ 8 → DescFits (r a') q.mg (16 * ((groups + 15) / 16))) ∧
          (q.bfmt ≠ 8 → DescFits (r b') q.ng (16 * ((groups + 15) / 16))))
      (¬pairs → exec p.1 s = .next (s.trapHere .illegal)) ∧
      (pairs → q.mxcV = false → exec p.1 s = .next (s.trapHere .combo)) ∧
      (pairs → q.mxcV = true → ¬enabled → exec p.1 s = .next (s.trapHere .tileoff)) ∧
      (pairs → q.mxcV = true → enabled → ¬fits → exec p.1 s = .next (s.trapHere .illegal)) ∧
      (pairs → q.mxcV = true → enabled → fits →
        (8 ≤ q.mops.length → exec p.1 s = .next s.hold) ∧
        (q.mops.length < 8 → MayPost s → exec p.1 s = .next (joins p.2 (r a) (scale q.afmt a') (r b) (scale q.bfmt b'))) ∧
        (q.mops.length < 8 → ¬MayPost s → exec p.1 s = .next s.freeze))) ∧
  ∀ (s : State) (o : Mop) (rest : List Mop), s.quad.mops = o :: rest →
    let becomes (st : MopState) : State := { s with quad := { s.quad with mops := { o with state := st } :: rest } }
    (o.state = .queued → exec .matrixOpHead s = .next (becomes .head)) ∧
    (o.state ≠ .queued → exec .matrixOpHead s = .next s) ∧ (o.state ≠ .head → exec .matrixOpRead s = .next s) ∧
    (o.state = .head → (∀ c < 4, (s.getCore ⟨s.cur.die, s.cur.quad, c, 0⟩).pipe = [] ∧
        ∀ k : Chan, (s.getCore ⟨s.cur.die, s.cur.quad, c, 0⟩).chans[k].q = []) →
      exec .matrixOpRead s = .next (becomes .read)) ∧
    (o.state ≠ .read → exec .matrixOpCompletion s = .next s) ∧
    (o.state = .read → OwnedHere s o.owner → s.quad.tilePoison = [] → s.quad.planePoison = [] → s.quad.tiles.wf = true →
      o.mg ≤ 64 → o.ng ≤ 64 →
      let at' (i j : Nat) : Nat := o.tile.val * 0x4000 + 4 * (64 * i + j)
      let cell (q : Quad) (i j : Nat) : Nat := (leWord q.tiles (at' i j) 4).toNat
      let run (i j : Nat) : Nat × FFlags :=
        (List.range ((o.kg + 15) / 16)).foldl
          (fun acc g => let x := groupOf s.quad.plane o acc.1 i j g; (x.1, acc.2 ||| x.2))
          ((if o.f = .mmaz then 0 else cell s.quad i j), 0)
      let flags : FFlags := if o.f = .mzero then 0 else
        (List.range (o.mg * o.ng)).foldl (fun f k => f ||| (run (k / o.ng) (k % o.ng)).2) 0
      ∃ t, exec .matrixOpCompletion s = .next t ∧ Reported s t o.owner none ∧ t.quad.mops = rest ∧
        t.quad.plane = s.quad.plane ∧ t.quad.tiles.wf = true ∧ t.pkg = s.pkg ∧ t.hart.xst = s.hart.xst ||| flags ∧
        (∀ i < o.mg, ∀ j < o.ng, cell t.quad i j = if o.f = .mzero then 0 else (run i j).1 % 2 ^ 32) ∧
        ∀ p, (∀ i < o.mg, ∀ j < o.ng, p < at' i j ∨ at' i j + 4 ≤ p) → t.quad.tiles.read p = s.quad.tiles.read p)

/-- The counter k of the pass table under an output handle (R224); what a handle without an entry reads: log entry 36. -/
def Sys2Proof.Claims.CounterIs (s : State) (h k v : Word) : Prop :=
  ((s.run h = none ∨ ∀ e ∈ s.quad.passTab, e.handle ≠ h) ∧ v = if k = 0 then BitVec.ofNat 64 (0xFF * 2 ^ 56) else 0) ∨
  ∃ pre e post, s.quad.passTab = pre ++ e :: post ∧ (∀ x ∈ pre, x.handle ≠ h) ∧ e.handle = h ∧ s.run h ≠ none ∧
    v = if k = 0 then e.status else if k = 1 then BitVec.ofNat 64 e.nRead else if k = 2 then BitVec.ofNat 64 e.nOut
      else if k = 3 then BitVec.ofNat 64 e.nAux else 0

/-- The pass of a context, or of a hart without one, on an output handle: of several the one accepted first (log entry 114). -/
def Sys2Proof.Claims.IsPassOf (o : Owner) (h : Word) (p : Pass) : Prop :=
  p.out = h ∧ p.owner.ctx = o.ctx ∧ (o.ctx = 0 → p.owner.hart = o.hart)

/-- R210, R212, R214, R215, R222, R224 to R226: a list command is accepted with its list, in the order of cores and harts; a
pass starts once every earlier one waits: it binds its output and its inputs, or ends BUSY or INVAL, or faults RUNFAULT or
RUNEND; a pass at the end of its input seals its output and reports, at a break it reports BROKEN; one that waits shows it;
`sprog` and `sabort` answer, on the helm core at issue, and their completions follow; a pass that `sabort` names ends ABORTED at the
engine's next step, and then the `sabort` reports. (What a stale handle reads and where a fault is filed: log entries 36 and 50; the
writer fields of an output: log entry 33; the pass that `sabort` means: log entry 114.) -/
def Obligations.SorterPasses : Prop :=
  (∀ (s : State) (x : VEntry) (rest : List VEntry) (f : SrtFn) (d : SReg) (a : VReg), Starts s x rest → x.op = .srt f d a →
    (16 ≤ s.quad.passes.length ∨ s.sorterFirst = true → exec .vectorEntryStart s = .next (idled s)) ∧
    (s.quad.passes.length < 16 → s.sorterFirst = false → ∃ t p, exec .vectorEntryStart s = .next t ∧ t.hart.vq = rest ∧
      t.quad.passes = s.quad.passes ++ [p] ∧ p.f = f ∧ p.running = false ∧ p.formed = [] ∧ p.aborts = [] ∧ p.ctl = x.sv.headD 0 ∧ p.owner.seq = x.id ∧
      p.out = BitVec.ofNat 64 (element s.hart 64 a 0) * (if x.vl = 0 then 0 else 1) ∧
      p.ins = (List.range (x.vl - 2)).map (fun i => BitVec.ofNat 64 (element s.hart 64 a (i + 2))) ∧ t.pkg = s.pkg)) ∧
  (∀ s : State, ∃ t, exec .sorterPassStart s = .next t ∧ t.quad.passes.length ≤ s.quad.passes.length ∧
    ((∀ p ∈ s.quad.passes, p.running = true) → t = s)) ∧
  (∀ (s : State) (pre post : List Pass) (p : Pass), s.quad.passes = pre ++ p :: post → (∀ q ∈ pre, q.running = true) →
    p.running = false → p.aborts = [] → ((∃ q ∈ pre, s.passMove q ≠ .wait) → exec .sorterPassStart s = .next s) ∧
    ((∀ q ∈ pre, s.passMove q = .wait) → (∀ q ∈ pre ++ post, q.owner.seq ≠ p.owner.seq) →
      let shows (t : State) (code : Nat) : Prop := ∀ e ∈ t.quad.passTab, e.seq = p.owner.seq →
        e.status = BitVec.ofNat 64 (code * 2 ^ 56)
      let faults (c : Nat) : Prop := ∃ t, exec .sorterPassStart s = .next t ∧ t.quad.passes = pre ++ post ∧
        Reported s t p.owner none ∧ t.pkg = s.pkg ∧ shows t 0x88 ∧
        ∀ k, s.hart.ctx = some k → k.id = p.owner.ctx → k.faults.length < 8 →
          ∃ k', t.hart.ctx = some k' ∧ k'.faults.length = k.faults.length + 1 ∧
            ∃ f ∈ k'.faults, f.seq = p.owner.seq ∧ f.addr = p.owner.addr ∧ f.cause.toNat % 256 = c
      let ends (code : Nat) : Prop := ∃ t, exec .sorterPassStart s = .next t ∧ t.quad.passes = pre ++ post ∧
        Reported s t p.owner (some (BitVec.ofNat 64 (code * 2 ^ 56))) ∧ t.pkg = s.pkg ∧ shows t code ∧ t.hart.xst = s.hart.xst
      (OwnedHere s p.owner → p.owner.ctx ≠ 0 → p.owner.sup = false → p.recs = [] → p.nOut = 0 → p.flags = 0 →
        (s.run p.out = none ∨ (∃ h ∈ p.ins, s.run h = none) ∨ (p.aux ≠ 0 ∧ s.run p.aux = none) → faults 7)) ∧
      ∀ (out : RunD) (ins : List RunD), s.run p.out = some out → p.ins.mapM s.run = some ins → p.aux = 0 → p.f ≠ .join →
        (p.f ≠ .tag → p.ctl.toNat / 2 ^ 32 % 16 ≠ 8) →
        let fits : Prop := (p.out :: p.ins).Nodup ∧ (out.state = .alloc → out.mark = 0) ∧ ∀ r ∈ out :: ins,
          r.w = out.w ∧ 8 ≤ r.w ∧ r.w ≤ 64 ∧ p.ctl.toNat % 64 + (if p.ctl.getLsbD 8 then 8 else 4) ≤ r.w ∧
          (3 ≤ p.ctl.toNat / 2 ^ 32 % 16 → p.ctl.toNat / 2 ^ 32 % 16 ≤ 7 →
            p.ctl.toNat / 2 ^ 21 % 64 + (if p.ctl.getLsbD 29 then 8 else 4) ≤ r.w)
        (OwnedHere s p.owner → p.owner.ctx ≠ 0 → p.owner.sup = false → p.recs = [] → p.nOut = 0 → p.flags = 0 →
          (out.state = .sealed ∨ out.state = .broken ∨ out.state = .view → faults 8) ∧
          (out.state = .alloc ∨ out.state = .opened →
            (¬fits → ends 2) ∧ (fits → out.state = .opened ∨ (∃ r ∈ ins, r.rdrs = 511) → ends 1))) ∧
        (out.state = .alloc → fits → (∀ r ∈ ins, r.rdrs < 511) → s.pkg.mem.wf = true → s.cur.die < 4 → s.cur.quad < 64 →
          (∃ t, s.checkStream p.xl out .write 0 = .ok t) → (∀ r ∈ ins, ∃ t, s.checkStream p.xl r .read 0 = .ok t) →
          ∃ t q, exec .sorterPassStart s = .next t ∧ t.quad.passes = pre ++ q :: post ∧ t.hart = s.hart ∧ t.core = s.core ∧
            q = { p with running := true, trs := q.trs } ∧ q.trs.length = p.ins.length + 2 ∧ shows t 0x81 ∧
            (∀ e ∈ t.quad.passTab, e.handle = p.out → e.seq = p.owner.seq) ∧
            t.pkg.run p.out = some { out with state := .opened, writer := ⟨3, s.cur.die, s.cur.quad, 0, 0, 0, false⟩ } ∧
            ∀ h ∈ p.ins, t.pkg.run h = (s.pkg.run h).map fun r => { r with rdrs := r.rdrs + 1 }))) ∧
  (∀ (s : State) (p : Pass) (r o : RunD), s.quad.passes = [p] → p.running = true → p.formed = [] → p.aborts = [] → p.f = .tag → p.aux = 0 → OwnedHere s p.owner →
    s.run (p.ins.headD 0) = some r → p.ins.length = 1 → s.pkg.run p.out = some o → o.state = .opened → p.out ≠ p.ins.headD 0 →
    s.pkg.mem.wf = true → r.mark.toNat ≤ p.nRead → r.wlog < 7 →
    (r.state = .sealed → ∃ t, exec .sorterChunk s = .next t ∧ t.quad.passes = [] ∧ t.hart.xst = s.hart.xst ||| p.flags ∧
      Reported s t p.owner (some (BitVec.ofNat 64 (p.flags.toNat * 2 ^ 48 + p.nOut % 2 ^ 48))) ∧
      t.pkg.run p.out = some { o with state := .sealed, writer := Writer.none }) ∧
    (r.state = .broken → ∃ t, exec .sorterChunk s = .next t ∧ t.quad.passes = [] ∧
      Reported s t p.owner (some (BitVec.ofNat 64 (5 * 2 ^ 56 + p.flags.toNat * 2 ^ 48 + p.nOut % 2 ^ 48))) ∧
      t.pkg.run p.out = some { o with state := .alloc, writer := Writer.none }) ∧
    (r.state = .opened ∨ r.state = .alloc → ∃ t, exec .sorterChunk s = .next t ∧ t.pkg = s.pkg ∧ t.hart = s.hart ∧
      t.quad.passes = [p] ∧ ∀ e ∈ t.quad.passTab, e.seq = p.owner.seq →
        e.status = BitVec.ofNat 64 (0x82 * 2 ^ 56 + p.flags.toNat * 2 ^ 48 + p.nOut % 2 ^ 48))) ∧
  (∀ (s : State) (d a b : SReg) (tk : Tok), s.hart.hst.helm = true → s.useMask.getLsbD 17 = true → Free s [a, b, d] → MayPost s →
    let h := s.hart.reg a
    (∀ v, CounterIs s h (s.hart.reg b) v → exec (.sprog d a b tk) s = .next (answering s tk d v).advance) ∧
    ((∀ p ∈ s.quad.passes, ¬IsPassOf (ownerOf s tk) h p) → exec (.sabort d a tk) s = .next (answering s tk d 2).advance) ∧
    ∀ (pre post : List Pass) (p : Pass), s.quad.passes = pre ++ p :: post → IsPassOf (ownerOf s tk) h p →
      (∀ q ∈ pre, ¬IsPassOf (ownerOf s tk) h q) → (∀ q ∈ pre ++ post, q.owner.seq ≠ p.owner.seq) →
      exec (.sabort d a tk) s = .next { posted s tk (some d) with quad := { s.quad with
        passes := pre ++ { p with aborts := p.aborts ++ [ownerOf s tk] } :: post } }.advance) ∧
  (∀ (s : State) (x : VEntry) (rest : List VEntry) (d : SReg) (h k : Word), Starts s x rest →
    max s.hart.beat x.slot < s.hart.slot →
    let answers (v : Word) : Prop := ∃ t, exec .vectorEntryStart s = .next t ∧ t.hart.vq = rest ∧ t.quad = s.quad ∧ t.pkg = s.pkg ∧
      t.hart.late = s.hart.late ++ [⟨x.id, x.sup, x.tok.getD 0, some v⟩]
    (x.op = .sprog d → x.sv = [h, k] → ∀ v, CounterIs s h k v → answers v) ∧
    (x.op = .sabort d → x.sv = [h] → (∀ p ∈ s.quad.passes, ¬IsPassOf (s.ownerFor x) h p) → answers 2) ∧
    ∀ (pre post : List Pass) (p : Pass), x.op = .sabort d → x.sv = [h] → s.quad.passes = pre ++ p :: post → IsPassOf (s.ownerFor x) h p →
      (∀ q ∈ pre, ¬IsPassOf (s.ownerFor x) h q) → (∀ q ∈ pre ++ post, q.owner.seq ≠ p.owner.seq) →
      ∃ t, exec .vectorEntryStart s = .next t ∧ t.hart.vq = rest ∧ t.hart.late = s.hart.late ∧
        t.quad.passes = pre ++ { p with aborts := p.aborts ++ [s.ownerFor x] } :: post) ∧
  (∀ (s : State) (l : Late), s.hart.late = [l] → s.hart.infl = [] → s.hart.merges = [] →
    ∃ t, exec .fixedLatencyWriteback s = .next t ∧ t.pkg = s.pkg ∧ t.quad = s.quad ∧
      (¬MergedBefore s l.id → t.hart.late = [l]) ∧ (MergedBefore s l.id → t.hart.late = [] ∧ LateMade s t l)) ∧
  ∀ (s : State) (pre post : List Pass) (p : Pass) (o : Owner), s.quad.passes = pre ++ p :: post → p.aborts = [o] →
    (∀ q ∈ pre ++ post, q.aborts = [] ∧ q.owner.seq ≠ p.owner.seq) → OwnedHere s p.owner → OwnedHere s o → o.seq ≠ p.owner.seq →
    (o.sup, o.tok) ≠ (p.owner.sup, p.owner.tok) →
    (∀ x ∈ s.hart.pendS, ∀ y ∈ s.hart.pendS, x.1 = y.1 → x.2.1 = y.2.1 → x = y) → (p.f = .sort → p.recs.length ≤ 65536) →
    ∃ t, exec .sorterChunk s = .next t ∧ t.quad.passes = pre ++ post ∧
      Reported s t p.owner (some (BitVec.ofNat 64 (6 * 2 ^ 56 + p.flags.toNat * 2 ^ 48 + p.nOut % 2 ^ 48))) ∧
      Reported s t o (some 0) ∧ t.hart.xst = s.hart.xst ||| p.flags ∧
      (p.running = false → t.pkg = s.pkg) ∧
      ∀ r, p.running = true → p.aux = 0 → p.out ∉ p.ins → s.pkg.mem.wf = true → s.pkg.run p.out = some r → r.state = .opened →
        t.pkg.run p.out = some { r with state := .alloc, writer := Writer.none }

/-- Record n of input k of a pass is there to be read: its bytes with the translation kept (R161, R163, R169). -/
def Sys2Proof.Claims.Gets (s : State) (p : Pass) (k n : Nat) (t : Option Tr) (bs : List Byte) : Prop :=
  ∃ h r, p.ins[k]? = some h ∧ s.run h = some r ∧ n < r.mark.toNat ∧ 0 < r.w ∧
    s.readStream p.xl r ((p.trs[k + 2]?).join) (n * r.w) r.w = .ok (t, bs)

/-- Input k of a pass has no record n: its run is in one of these states. -/
def Sys2Proof.Claims.NoRecord (s : State) (p : Pass) (k n : Nat) (states : List RunState) : Prop :=
  ∃ h r, p.ins[k]? = some h ∧ s.run h = some r ∧ r.mark.toNat ≤ n ∧ 0 < r.w ∧ r.state ∈ states

/-- Record n of input k does not lie below the record before it. -/
def Sys2Proof.Claims.InOrder (s : State) (p : Pass) (k n : Nat) (bs : List Byte) : Prop :=
  n = 0 ∨ ∃ t bs', Gets s p k (n - 1) t bs' ∧ recKey p.ctl bs' ≤ recKey p.ctl bs

/-- The same record lies below it. -/
def Sys2Proof.Claims.OutOfOrder (s : State) (p : Pass) (k n : Nat) (bs : List Byte) : Prop :=
  n ≠ 0 ∧ ∃ t bs', Gets s p k (n - 1) t bs' ∧ recKey p.ctl bs < recKey p.ctl bs'

/-- Record n of an output (place 0) or auxiliary run (place 1) is written, its rest zero, and published (R160, R162). -/
def Sys2Proof.Claims.Puts (s : State) (p : Pass) (h : Word) (k n : Nat) (bs : List Byte) (s' : State) (tr : Option Tr) : Prop :=
  ∃ r u, s.run h = some r ∧ n < r.cap.toNat ∧
    s.writeStream p.xl r ((p.trs[k]?).join) (n * r.w) (bs ++ List.replicate (r.w - bs.length) 0) = .ok (tr, u) ∧
    s' = { u with pkg := u.pkg.publish h (n + 1) }

/-- The Sorter's order and combines (R216, R217): the least key is placed first, of equal keys that of the lowest operand; the
combines of a group. R216 to R221, R226, R354: what a pass moves next. A record that is formed is written first, one at a time.
`stag` numbers its records; `ssort` reads to the end, then places in stable order; `smerge` places the least head, the lowest
operand first; `sjoin` writes its matches in table order and sends a probe without one to the miss run; a group closes with one
combined record, or under USER with every record and its boundary byte; a descending input ends ORDER, a broken one BROKEN; a
record past CAP faults. (A table record met again counts once: log entry 107; CAP below twice the records is found at the end of
the input: log entry 106; of several inputs that stop a merge the lowest decides: log entry 112; a group dropped before it
closes raises no flag: log entry 113.) -/
def Obligations.SorterMoves : Prop :=
  ((∀ (c : Word) (bs : List Byte),
    let size := if c.getLsbD 8 then 8 else 4
    let key := leNat ((bs.drop (c.toNat % 64)).take size)
    (c.toNat / 2 ^ 6 % 4 = 0 → recKey c bs = KOrd.key .u (8 * size) key) ∧
    (c.toNat / 2 ^ 6 % 4 = 1 → recKey c bs = KOrd.key .s (8 * size) key) ∧
    (c.toNat / 2 ^ 6 % 4 = 2 → recKey c bs = KOrd.key .f (8 * size) key)) ∧
  (∀ (c : Word) (hs : List (Nat × List Byte)) (x : Nat × List Byte), leastHead c hs = some x →
    ∃ pre post, hs = pre ++ x :: post ∧ (∀ y ∈ pre, recKey c x.2 < recKey c y.2) ∧ ∀ y ∈ post, recKey c x.2 ≤ recKey c y.2) ∧
  (∀ (c : Word) (xs : List (List Byte)),
    (sortBy (recKey c) xs).Perm xs ∧ ((sortBy (recKey c) xs).Pairwise fun p q => recKey c p ≤ recKey c q) ∧
    ∀ n, (sortBy (recKey c) xs).filter (fun p => decide (recKey c p = n)) = xs.filter fun p => decide (recKey c p = n)) ∧
  ∀ (c : Word) (g0 : List Byte) (rest : List (List Byte)),
    let comb := c.toNat / 2 ^ 32 % 16
    let voff := c.toNat / 2 ^ 21 % 64
    let vsz := if c.getLsbD 29 then 8 else 4
    let val (r : List Byte) : Nat := leNat ((r.drop voff).take vsz)
    let with' (v : Nat) : List Byte := g0.take voff ++ leBytes v vsz ++ g0.drop (voff + vsz)
    let out := (combGroup c (g0 :: rest)).1
    (comb = 1 → out = [g0]) ∧ (comb = 2 → out = [((g0 :: rest).getLast?).getD g0]) ∧ (comb = 8 → out = g0 :: rest) ∧
    (comb = 4 → out = [with' (rest.foldl (fun v r => (v + val r) % 2 ^ 64) (val g0))]) ∧
    (comb = 3 → out = [with' (rest.foldl (fun v r => (fAdd .f32 .rne v (val r)).1) (val g0))] ∧
      (combGroup c (g0 :: rest)).2 =
        (rest.foldl (fun v r => let x := fAdd .f32 .rne v.1 (val r); (x.1, v.2 ||| x.2)) (val g0, (0 : FFlags))).2) ∧
    (comb ≠ 3 → comb ≠ 5 → comb ≠ 6 → (combGroup c (g0 :: rest)).2 = 0) ∧
    (comb = 7 → out = [with' (min (rest.length + 1) (2 ^ (8 * vsz) - 1))]) ∧
    let order := c.toNat / 2 ^ 27 % 4
    let int (v : Nat) : Int := (BitVec.ofNat (8 * vsz) v).toInt
    (comb = 5 → order = 0 → out = [with' (rest.foldl (fun v r => max v (val r)) (val g0))]) ∧
    (comb = 6 → order = 0 → out = [with' (rest.foldl (fun v r => min v (val r)) (val g0))]) ∧
    (comb = 5 → order = 1 → out = [with' (rest.foldl (fun v r => if int v < int (val r) then val r else v) (val g0))]) ∧
    (comb = 6 → order = 1 → out = [with' (rest.foldl (fun v r => if int (val r) < int v then val r else v) (val g0))]) ∧
    ((comb = 5 ∨ comb = 6) → order ≠ 2 → (combGroup c (g0 :: rest)).2 = 0) ∧
    ∀ m : Bool, comb = (if m then 5 else 6) → order = 2 →
      let f (v : Nat × FFlags) (r : List Byte) : Nat × FFlags :=
        let x := fMinMax .f32 m v.1 (val r)
        (x.1, v.2 ||| x.2)
      out = [with' (rest.foldl f (val g0, 0)).1] ∧ (combGroup c (g0 :: rest)).2 = (rest.foldl f (val g0, 0)).2) ∧
  (∀ (s s' : State) (p : Pass) (tr : Option Tr) (aux : Bool) (bs : List Byte) (rest : List (Bool × List Byte)),
    p.formed = (aux, bs) :: rest → 1 < p.trs.length →
    let h := if aux then p.aux else p.out
    let k := if aux then 1 else 0
    let n := if aux then p.nAux else p.nOut
    (Puts s p h k n bs s' tr →
      s.passMove p = .moved s' { p with
        formed := rest, trs := p.trs.set k tr, nOut := if aux then p.nOut else n + 1, nAux := if aux then n + 1 else p.nAux }) ∧
    ((∃ r, s.run h = some r ∧ r.cap.toNat ≤ n) → s.passMove p = .fault s p .runfault n)) ∧
  (∀ (s : State) (p : Pass) (t : Option Tr) (bs : List Byte), p.f = .tag → p.formed = [] →
    let n := p.nRead
    let koff := p.ctl.toNat % 64
    (Gets s p 0 n t bs → s.passMove p = .moved s { p with
      nRead := n + 1, trs := p.trs.set 2 t, formed := [(false, bs.take koff ++ leBytes (n % 2 ^ 32) 4 ++ bs.drop (koff + 4))] }) ∧
    (NoRecord s p 0 n [.sealed, .view] → s.passMove p = .over s p 0) ∧
    (NoRecord s p 0 n [.broken] → s.passMove p = .over s p 5) ∧
    (NoRecord s p 0 n [.opened, .alloc] → s.passMove p = .wait)) ∧
  (∀ (s : State) (p : Pass) (t : Option Tr) (bs : List Byte) (o : RunD), p.f = .sort → p.formed = [] → p.reading = true →
    let n := p.recs.length
    s.run p.out = some o →
    (Gets s p 0 n t bs →
      (n + 1 = 2 ^ 32 → s.passMove p = .over s p 4) ∧
      (n + 1 ≠ 2 ^ 32 → o.cap.toNat < n + 1 → s.passMove p = .over s p 2) ∧
      (n + 1 ≠ 2 ^ 32 → n + 1 ≤ o.cap.toNat →
        s.passMove p = .moved s { p with recs := bs :: p.recs, nRead := p.nRead + 1, trs := p.trs.set 2 t })) ∧
    (NoRecord s p 0 n [.broken] → s.passMove p = .over s p 5) ∧
    (NoRecord s p 0 n [.opened, .alloc] → s.passMove p = .wait) ∧
    (NoRecord s p 0 n [.sealed, .view] →
      let sorted := { p with reading := false, recs := sortBy (recKey p.ctl) p.recs.reverse }
      (n ≤ 65536 → s.passMove p = .moved s sorted) ∧ (65536 < n → o.cap.toNat < 2 * n → s.passMove p = .over s sorted 2))) ∧
  (∀ (s : State) (p : Pass) (bs : List Byte) (rest : List (List Byte)), p.f = .sort → p.formed = [] → p.reading = false →
    (p.recs = bs :: rest → s.passMove p = .moved s ({ p with recs := rest }.place bs)) ∧
    (p.recs = [] → s.passMove p = passFinish s p)) ∧
  (∀ (s : State) (p : Pass), p.f = .merge → p.formed = [] → p.pos.length = p.ins.length → p.trs.length = p.ins.length + 2 →
    let pos (k : Nat) : Nat := (p.pos[k]?).getD 0
    let ready (k : Nat) : Prop := ∃ t bs, Gets s p k (pos k) t bs ∧ InOrder s p k (pos k) bs
    let ended (k : Nat) : Prop := NoRecord s p k (pos k) [.sealed, .view]
    (∀ k < p.ins.length, (∀ j < k, ready j ∨ ended j) →
      (NoRecord s p k (pos k) [.opened, .alloc] → s.passMove p = .wait) ∧
      (NoRecord s p k (pos k) [.broken] → s.passMove p = .over s p 5) ∧
      ((∃ t bs, Gets s p k (pos k) t bs ∧ OutOfOrder s p k (pos k) bs) → s.passMove p = .over s p 3)) ∧
    ((∀ k < p.ins.length, ended k) → s.passMove p = passFinish s p) ∧
    ∀ (k : Nat) (t : Option Tr) (bs : List Byte), (∀ j < p.ins.length, ready j ∨ ended j) → Gets s p k (pos k) t bs →
      InOrder s p k (pos k) bs →
      (∀ j < p.ins.length, j ≠ k → ∀ t' bs', Gets s p j (pos j) t' bs' →
        recKey p.ctl bs < recKey p.ctl bs' ∨ (recKey p.ctl bs = recKey p.ctl bs' ∧ k < j)) →
      ∃ trs, trs.length = p.trs.length ∧ trs.take 2 = p.trs.take 2 ∧ trs[k + 2]? = some t ∧
        s.passMove p = .moved s ({ p with pos := p.pos.set k (pos k + 1), nRead := p.nRead + 1, trs := trs }.place bs)) ∧
  (∀ (s : State) (p : Pass) (bs : List Byte),
    let comb := p.ctl.toNat / 2 ^ 32 % 16
    let out := (combGroup p.ctl p.group).1
    let closed (formed : List (Bool × List Byte)) : Pass :=
      { p with group := [], flags := p.flags ||| (combGroup p.ctl p.group).2, formed := formed }
    let closes (q : Pass) : Prop :=
      (comb ≠ 8 → q = closed (out.map fun x => (false, x))) ∧
      ∀ x rest, comb = 8 → out = x :: rest →
        q = closed ((false, x) :: (true, [1]) :: rest.flatMap fun y => [(false, y), (true, [0])])
    (comb = 0 → p.place bs = { p with formed := [(false, bs)] }) ∧
    (comb ≠ 0 → p.group = [] → p.place bs = { p with group := [bs] }) ∧
    (∀ g0, comb ≠ 0 → p.group.head? = some g0 →
      (recKey p.ctl g0 = recKey p.ctl bs → p.place bs = { p with group := p.group ++ [bs] }) ∧
      (recKey p.ctl g0 ≠ recKey p.ctl bs → ∃ q, closes q ∧ p.place bs = { q with group := [bs] })) ∧
    (p.group = [] → passFinish s p = .over s p 0) ∧ (p.group ≠ [] → ∃ q, closes q ∧ passFinish s p = .moved s q)) ∧
  (∀ (s : State) (p : Pass) (t : Option Tr) (bs : List Byte), p.f = .join → p.formed = [] → 3 < p.trs.length →
    ∀ p0 p1 p2 p3 p4 : Nat, p.pos = [p0, p1, p2, p3, p4] →
    (NoRecord s p 0 p0 [.sealed, .view] → s.passMove p = .over s p 0) ∧
    (NoRecord s p 0 p0 [.broken] → s.passMove p = .over s p 5) ∧
    (NoRecord s p 0 p0 [.opened, .alloc] → s.passMove p = .wait) ∧
    let here := { p with trs := p.trs.set 2 t }
    (Gets s p 0 p0 t bs → OutOfOrder s here 0 p0 bs → s.passMove p = .over s here 3) ∧
    (Gets s p 0 p0 t bs → InOrder s here 0 p0 bs → p4 ≤ p0 →
      s.passMove p = .moved s { here with pos := [p0, p1, p2, p3, p0 + 1], nRead := p.nRead + 1 }) ∧
    (Gets s p 0 p0 t bs → InOrder s here 0 p0 bs → p0 < p4 →
      let next (q : Pass) : Pass := { q with pos := [p0 + 1, p1, p1, p3, p4] }
      let miss (q : Pass) : Move := .moved s (if p.aux = 0 then next q else { next q with formed := [(true, bs)] })
      let k := leNat ((bs.drop (p.ctl.toNat % 64)).take (if p.ctl.getLsbD 8 then 8 else 4))
      (p.ctl.getLsbD 30 = true →
        (NoRecord s here 1 k [.sealed, .view] → s.passMove p = miss here) ∧
        (NoRecord s here 1 k [.broken] → s.passMove p = .over s here 5) ∧
        (NoRecord s here 1 k [.opened, .alloc] → s.passMove p = .wait) ∧
        ∀ t' rec, Gets s here 1 k t' rec → s.passMove p = .moved s { next here with
          nRead := p.nRead + 1, trs := here.trs.set 3 t', formed := [(false, bs ++ rec)] }) ∧
      (p.ctl.getLsbD 30 = false →
        (NoRecord s here 1 p2 [.sealed, .view] → s.passMove p = if p2 = p1 then miss here else .moved s (next here)) ∧
        (NoRecord s here 1 p2 [.broken] → s.passMove p = .over s here 5) ∧
        (NoRecord s here 1 p2 [.opened, .alloc] → s.passMove p = .wait) ∧
        ∀ t' rec, Gets s here 1 p2 t' rec →
          let read := { here with trs := here.trs.set 3 t' }
          (OutOfOrder s read 1 p2 rec → s.passMove p = .over s read 3) ∧
          (InOrder s read 1 p2 rec → p3 ≤ p2 →
            s.passMove p = .moved s { read with pos := [p0, p1, p2, p2 + 1, p4], nRead := p.nRead + 1 }) ∧
          (InOrder s read 1 p2 rec → p2 < p3 →
            (recKey p.ctl rec < recKey p.ctl bs →
              s.passMove p = .moved s { read with pos := [p0, p2 + 1, p2 + 1, p3, p4] }) ∧
            (recKey p.ctl rec = recKey p.ctl bs →
              s.passMove p = .moved s { read with pos := [p0, p1, p2 + 1, p3, p4], formed := [(false, bs ++ rec)] }) ∧
            (recKey p.ctl bs < recKey p.ctl rec →
              s.passMove p = if p2 = p1 then miss read else .moved s (next read)))))) ∧
  ∀ (s : State) (pre post : List Pass) (p : Pass), s.quad.passes = pre ++ p :: post → p.running = true →
    (∀ q ∈ pre, q.running = false) → (∀ q ∈ s.quad.passes, q.aborts = []) →
    (∀ s' p' code, s.passMove p = .over s' p' code → exec .sorterChunk s = .next (s'.passEnd p' code)) ∧
    (∀ s' p' c aux, s.passMove p = .fault s' p' c aux → exec .sorterChunk s = .next (s'.passFault p' c aux)) ∧
    ∀ s' p', s.passMove p = .moved s' p' →
      ((p.nRead + p.nOut + p.nAux) / 4096 ≠ (p'.nRead + p'.nOut + p'.nAux) / 4096 ∨ p.reading ≠ p'.reading →
        exec .sorterChunk s = .next (s'.passPause p')) ∧
      ((p.nRead + p.nOut + p.nAux) / 4096 = (p'.nRead + p'.nOut + p'.nAux) / 4096 → p.reading = p'.reading →
        (∀ s'' p'' code, s'.passMove p' = .over s'' p'' code → exec .sorterChunk s = .next (s''.passEnd p'' code)) ∧
        (s'.passMove p' = .wait →
          let w := s'.putPass p'
          let shown := w.quad.showPass p' (BitVec.ofNat 64 (0x82 * 2 ^ 56 + p'.flags.toNat * 2 ^ 48 + p'.nOut % 2 ^ 48)) false
          exec .sorterChunk s = .next { w with quad := shown }))

/-! ### Copy channels -/

/-- A command is inside a chunk and its next element does not wait on its source's MARK: it stands at no kill point and at no abort
point (R238, R282). -/
def Sys2Proof.Claims.CopyGoesOn (s : State) (c : CopyCmd) : Prop :=
  c.state = .running ∧ c.count ≠ c.n ∧ c.count % (4096 / max 1 c.w) ≠ 0 ∧
  ∀ r, s.run c.src = some r → r.mark.toNat ≤ c.start + dimsRecord c.dims c.count → r.state ≠ .opened ∧ r.state ≠ .alloc

/-- R230 to R235, R237 to R241, R282: a copy command joins its channel with its layout, or waits while four are there; the control
functions answer in the slot after their beat (R26), and their completions follow (R355); a `cpabort` takes effect at the channel's next event at a chunk boundary or at
a wait on MARK; an accepted command starts, ends at once or faults, as its checks say; delivery waits at MARK, ends at the end of its
source, publishes its last element and only then stamps and reports, and stops at a chunk that fails, which the boundary it came over
counts. (What a capture checks of a stale handle, the control functions' results, where a fault at the start is filed, and at which
event a command ends: log entries 37, 47, 46, 15.) -/
def Obligations.CopyCommands : Prop :=
  (∀ (s : State) (x : VEntry) (rest : List VEntry), Starts s x rest →
    let me : Owner := ⟨x.id, s.cur, (s.hart.ctx.map Ctx.id).getD 0, x.sup, x.tok.getD 0, x.addr, (s.hart.ctx.map Ctx.scope).getD 0⟩
    (∀ f ch a, x.op = .copy f ch a → x.vl ≤ 8 →
      let old := s.core.chans[ch]
      let dims := (List.range x.vl).map fun i => (element s.hart 64 a i / 2 ^ 32, element s.hart 64 a i % 2 ^ 32)
      let n := if x.vl = 0 then 0 else (dims.map Prod.snd).foldl (· * ·) 1
      (4 ≤ old.q.length ∨ s.copyFirst ch = true → exec .vectorEntryStart s = .next (idled s)) ∧
      (old.q.length < 4 → s.copyFirst ch = false →
        captureOk f dims (x.sv[1]?.getD 0).toNat (x.sv[2]?.getD 0) ((s.run (x.sv.headD 0)).map fun r => 2 ^ r.wlog) = true →
        ∃ t c, exec .vectorEntryStart s = .next t ∧ t.hart.vq = rest ∧ t.pkg = s.pkg ∧ t.quad = s.quad ∧
          t.core = { s.core with chans := s.core.chans.set ch { old with seq := old.seq + 1, q := old.q ++ [c] } } ∧
          c.seq = (old.seq + 1).toNat ∧ c.f = f ∧ c.owner = me ∧ c.dims = dims ∧ c.n = n ∧ c.src = x.sv.headD 0 ∧
          c.start = (x.sv[1]?.getD 0).toNat ∧ c.dst = x.sv[2]?.getD 0 ∧ c.stamp = x.sv[3]?.getD 0 ∧ c.state = .queued ∧
          c.count = 0 ∧ c.killed = false ∧ c.posted = false)) ∧
    ∀ f d ch, x.op = .cpctl f d ch → max s.hart.beat x.slot < s.hart.slot →
      let c := s.core.chans[ch]
      let answers (v : Word) : Prop := ∃ t, exec .vectorEntryStart s = .next t ∧ t.hart.vq = rest ∧ t.core = s.core ∧ t.pkg = s.pkg ∧
        t.hart.late = s.hart.late ++ [⟨x.id, x.sup, x.tok.getD 0, some v⟩]
      (f = .mark → answers c.mark) ∧ (f = .seq → answers c.seq) ∧
      (f = .stat → (∀ y ∈ c.q, y.seq ≠ (x.sv.headD 0).toNat) → (∀ y ∈ c.ended, y.1 ≠ (x.sv.headD 0).toNat) →
        answers (BitVec.ofNat 64 (0xFF * 2 ^ 56))) ∧
      (f = .stat → ∀ y more, c.q = y :: more → y.seq = (x.sv.headD 0).toNat → y.state = .running →
        answers (BitVec.ofNat 64 (0x81 * 2 ^ 56 + y.count % 2 ^ 48))) ∧
      (f = .retry → (∀ y more, c.q = y :: more → y.state ≠ .stopped) → answers 2) ∧
      (f = .retry → ∀ y more, c.q = y :: more → y.state = .stopped → OwnedHere s me → ∃ t, exec .vectorEntryStart s = .next t ∧
        t.hart.vq = rest ∧ t.pkg = s.pkg ∧ t.hart.late = s.hart.late ∧ (∀ b k, t.hart.token b k = s.hart.token b k) ∧
        t.core = { s.core with chans := s.core.chans.set ch { c with
          q := { y with state := .running, retry := some (me, d) } :: more } } ∧
        ∀ b r, s.hart.pendS.find? (fun p => decide (p.2.2 = x.id)) = some (b, r, x.id) → r ≠ 0 → t.hart.regIn b r = 0) ∧
      (f = .abort → c.q = [] → answers 2) ∧
      (f = .abort → c.q ≠ [] → ∃ t, exec .vectorEntryStart s = .next t ∧ t.hart.vq = rest ∧ t.pkg = s.pkg ∧
        t.core = { s.core with chans := s.core.chans.set ch { c with aborts := c.aborts ++ [me] } } ∧
        t.hart.late = s.hart.late ∧ ∀ b k, t.hart.token b k = s.hart.token b k)) ∧
  -- a `cpabort` that waits
  (∀ (s : State) (ch : Chan) (fails : Bool) (y : CopyCmd) (me : Owner), s.core.chans[ch].q = [y] → s.core.chans[ch].aborts = [me] →
    OwnedHere s me → y.f ≠ .rr → s.pkg.mem.wf = true →
    let old := s.core.chans[ch]
    let aborted (t : State) : Prop := Reported s t me (some 0) ∧ t.core.chans[ch] = ⟨old.seq, old.mark, [],
      ((y.seq, BitVec.ofNat 64 (6 * 2 ^ 56 + (if y.state = .queued then 0 else y.count) % 2 ^ 48)) :: old.ended).take 8, []⟩
    (CopyGoesOn s y → exec (.copyStart ch) s = .next s) ∧
    (¬CopyGoesOn s y → ∀ i ∈ [Instr.copyStart ch, Instr.copyChunk ch fails],
      (y.posted = true → y.retry = none → ∃ t, exec i s = .next t ∧ aborted t) ∧
      (y.posted = false → OwnedHere s y.owner → me.seq ≠ y.owner.seq → (me.sup, me.tok) ≠ (y.owner.sup, y.owner.tok) →
        ∃ t, exec i s = .next t ∧ aborted t ∧ Reported s t y.owner none ∧ (y.state = .queued → t.pkg = s.pkg) ∧
          ∀ r, y.state ≠ .queued → s.run y.src = some r →
            Redescribed s.pkg t.pkg (y.src.toNat / 2 ^ 46 % 4) (y.src.toNat % 8192) { r with rdrs := r.rdrs - 1 }))) ∧
  ∀ (s : State) (ch : Chan) (c : CopyCmd) (more : List CopyCmd), s.core.chans[ch].q = c :: more → OwnedHere s c.owner →
    s.core.chans[ch].aborts = [] → c.killed = false → c.posted = false → s.pkg.mem.wf = true →
    let old := s.core.chans[ch]
    let die := c.src.toNat / 2 ^ 46 % 4
    let ix := c.src.toNat % 8192
    let ends (t : State) (code count : Nat) (k : BitVec 64) : Prop := Reported s t c.owner none ∧ t.core.chans[ch] =
      ⟨old.seq, k, more, ((c.seq, BitVec.ofNat 64 (code * 2 ^ 56 + count % 2 ^ 48)) :: old.ended).take 8, []⟩
    (c.state = .queued →
      (c.n = 0 → c.stamp = 0 → ∃ t, exec (.copyStart ch) s = .next t ∧ ends t 0 0 old.mark ∧ t.pkg = s.pkg) ∧
      (c.n ≠ 0 → s.run c.src = none → c.owner.ctx ≠ 0 → c.owner.sup = false → ∃ t, exec (.copyStart ch) s = .next t ∧ ends t 0x88 0 old.mark ∧ t.pkg = s.pkg ∧
        ∀ k, s.hart.ctx = some k → k.faults = [] → ∃ k', t.hart.ctx = some k' ∧
          ∃ f, k'.faults = [f] ∧ f.seq = c.owner.seq ∧ f.addr = c.owner.addr ∧ f.cause.toNat % 256 = 7) ∧
      (c.n ≠ 0 → c.f = .rc → ∀ r, s.run c.src = some r →
        (r.rdrs = 511 → ∃ t, exec (.copyStart ch) s = .next t ∧ ends t 1 0 old.mark ∧ t.pkg = s.pkg) ∧
        (r.rdrs ≠ 511 → c.stamp = 0 →
          ∀ tr, s.checkStream ⟨c.owner.hart.die, c.tctx, c.root, c.user⟩ r .read (c.start * 2 ^ r.wlog) = .ok tr →
          let begun : Channel := { old with q := { c with state := .running, w := 2 ^ r.wlog, srcTr := tr } :: more }
          ∃ g, exec (.copyStart ch) s = .next { s with pkg := g, core := { s.core with chans := s.core.chans.set ch begun } } ∧
            Redescribed s.pkg g die ix { r with rdrs := r.rdrs + 1 }))) ∧
    (c.state = .running → c.count < c.n → ∀ r, s.run c.src = some r →
      let w := 2 ^ r.wlog
      let near : Prop := c.count % (4096 / w) = 0 → ∀ i, s.elemFar c r i = false
      let e := c.start + dimsRecord c.dims c.count
      (near → c.f ≠ .rp → r.mark.toNat ≤ e → r.state = .opened ∨ r.state = .alloc → exec (.copyChunk ch false) s = .next s) ∧
      (near → c.f = .rc → c.stamp = 0 → r.mark.toNat ≤ e → r.state = .sealed →
        ∃ t, exec (.copyChunk ch false) s = .next t ∧ ends t 7 c.count old.mark ∧ t.core.chart = s.core.chart ∧
          Redescribed s.pkg t.pkg die ix { r with rdrs := r.rdrs - 1 }) ∧
      (near → c.f = .rc → c.stamp = 0 → e < r.mark.toNat → c.count + 1 = c.n → s.core.chart.wf = true →
        ∀ tr bs, s.readStream ⟨c.owner.hart.die, c.tctx, c.root, c.user⟩ r c.srcTr (e * w) w = .ok (tr, bs) →
        ∃ t, exec (.copyChunk ch false) s = .next t ∧ t.pkg = s.pkg ∧ t.hart = s.hart ∧
          t.core.chans[ch] = { old with mark := old.mark + 1, q := { c with count := c.n, srcTr := tr } :: more } ∧
          (∀ i < w, t.core.chart.read (c.dst.toNat + c.count * w + i) = (bs[i]?).getD 0) ∧
          ∀ a, a < c.dst.toNat + c.count * w ∨ c.dst.toNat + c.count * w + w ≤ a →
            t.core.chart.read a = s.core.chart.read a) ∧
      (c.f = .rc → c.count % (4096 / w) = 0 → ∀ i,
        (c.chunkOf w c.count).find? (fun i => decide (c.start + dimsRecord c.dims i < r.mark.toNat) && s.elemFar c r i) = some i →
        ∃ t l, exec (.copyChunk ch true) s = .next t ∧ Reported s t c.owner none ∧
          t.core.chans[ch] = { old with q := { c with state := .stopped, posted := true, retry := none } :: more } ∧
          (s.pkg.wayLinks (s.elemDie c r i) s.cur.die ≠ [] → l ∈ s.pkg.wayLinks (s.elemDie c r i) s.cur.die) ∧
          t.pkg = { s.pkg with links := t.pkg.links } ∧
          ∀ k, t.pkg.links[k]? = (s.pkg.links[k]?).map fun x =>
            if k = l then { x with chunkF := min 65535 (x.chunkF + 1) } else x)) ∧
    (c.state = .running → c.count = c.n → c.f = .rc → ∀ r, s.run c.src = some r → ∀ fails,
      (c.stamp = 0 → ∃ t, exec (.copyChunk ch fails) s = .next t ∧ ends t 0 c.n old.mark ∧
        Redescribed s.pkg t.pkg die ix { r with rdrs := r.rdrs - 1 }) ∧
      ∀ pa, c.stamp ≠ 0 → (∀ g, Redescribed s.pkg g die ix { r with rdrs := r.rdrs - 1 } →
          State.stampAddr { s with pkg := g } ⟨c.owner.hart.die, c.tctx, c.root, c.user⟩ c.stamp = some pa) →
        ∃ t, exec (.copyChunk ch fails) s = .next t ∧ ends t 0 c.n old.mark ∧ leWord t.pkg.mem pa 8 = BitVec.ofNat 64 c.seq)

/-! ### Tasks and cancel scopes -/

/-- R264, R265: where the word k of a scope's entry lies. -/
def Sys2Proof.Claims.scopeWordAt (h : Word) (k : Nat) : Nat :=
  0x20000380000 + h.toNat / 2 ^ 46 % 4 * 0x400000 + h.toNat % 4096 * 64 + 8 * k

/-- A word that holds two counts, saturating (R265). -/
def Sys2Proof.Claims.twoCounts (hi lo : Nat) : Word :=
  BitVec.ofNat 64 (min hi (2 ^ 32 - 1) * 2 ^ 32 + min lo (2 ^ 32 - 1))

/-- R205, R259, R264, R265, R268 to R271: the words of the tasks and of the cancel scopes, with what they leave in the scope
table and the Plotter's queues; after each the front holds until the answer comes (R268, R355). Which FREE entry `sopen` takes
is open; one never used starts at generation 1 (log entry 2). The use mask a spawner has declared (log entry 110), what a handler
may spawn (log entry 38), the overflow ring (log entry 61) and what `tretire` waits for (log entry 71) are settled there. -/
def Obligations.TaskAndScopeWords : Prop :=
  ∀ (d a b : SReg) (s : State), Issues s 21 [a, b, d] → s.pkg.mem.wf = true → s.cur.die < 4 →
    let h := s.hart.reg a
    let y := s.hart.reg b
    let own : Word := (s.hart.ctx.map Ctx.scope).getD 0
    let out (i : Instr) (t : State) (v : Word) : Prop := exec i s = .next (withResult t d v 1).answered
    let word (p : Pkg) (x : Word) (k : Nat) : Word := p.mem.word (scopeWordAt x k)
    let children (x : Word) : Nat := (word s.pkg x 2).toNat / 2 ^ 32
    let members (x : Word) : Nat := (word s.pkg x 2).toNat % 2 ^ 32
    out (.tscope d) s own ∧ out (.sself d) s own ∧ out (.titer d) s (BitVec.ofNat 64 ((s.hart.ctx.map Ctx.iter).getD 0)) ∧
    out (.sread d a b) s (if (s.scopeState h).isSome ∧ y.toNat < 8 then word s.pkg h y.toNat else 2) ∧
    -- sopen
    (let parent := if h = 0 then own else h
     let free (i : Nat) : Prop := i < 4096 ∧ (s.pkg.mem.word (0x20000380000 + s.cur.die * 0x400000 + i * 64)).toNat / 2 ^ 44 % 16 = 0
     (s.scopeState parent = none ∨ s.related parent = false → out (.sopen d a) s 2) ∧
     (s.scopeState parent ≠ none → s.scopeState parent ≠ some .live → s.related parent = true → out (.sopen d a) s 3) ∧
     (s.scopeState parent = some .live → s.related parent = true →
       ((∀ i, ¬free i) → out (.sopen d a) s 1) ∧
       ((∃ i, free i) → ∃ i p, free i ∧
         let g := (s.pkg.mem.word (0x20000380000 + s.cur.die * 0x400000 + i * 64)).toNat / 2 ^ 48
         let new : Word := BitVec.ofNat 64 ((if g = 0 then 1 else g) * 2 ^ 48 + s.cur.die * 2 ^ 46 + i)
         out (.sopen d a) { s with pkg := p, fresh := s.fresh + 1 } new ∧ p = { s.pkg with mem := p.mem, scopes := p.scopes } ∧
         p.mem.wf = true ∧ p.scopeState new = some .live ∧ word p new 1 = parent ∧ (∀ k < 8, 2 ≤ k → word p new k = 0) ∧
         word p parent 2 = twoCounts (children parent + 1) (members parent) ∧
         ∀ q, (q < scopeWordAt new 0 ∨ scopeWordAt new 8 ≤ q) → (q < scopeWordAt parent 2 ∨ scopeWordAt parent 3 ≤ q) →
           p.mem.read q = s.pkg.mem.read q))) ∧
    -- scancel, sclose
    (s.scopeState h = none ∨ s.related h = false → out (.scancel d a) s 2 ∧ out (.sclose d a) s 2) ∧
    (∀ st, s.scopeState h = some st → s.related h = true →
      (st ≠ .live → out (.scancel d a) s 1) ∧
      (st = .live → exec (.scancel d a) s = .next (((s.cancel h).writeReg d 0 1).answered)) ∧
      (let may := children h = 0 ∧ (st = .cancelled ∨ (st = .live ∧ members h = 0))
       (¬may → out (.sclose d a) s 1) ∧
       (may → ∃ p, out (.sclose d a) { s with pkg := p } 0 ∧ p = { s.pkg with mem := p.mem, scopes := p.scopes } ∧
         p.mem.wf = true ∧ p.scopeState h = none ∧
         (word p h 0).toNat = (if 65535 ≤ h.toNat / 2 ^ 48 then 1 else h.toNat / 2 ^ 48 + 1) * 2 ^ 48 ∧
         ∀ q, (q < scopeWordAt h 0 ∨ scopeWordAt h 1 ≤ q) →
           (q < scopeWordAt (word s.pkg h 1) 2 ∨ scopeWordAt (word s.pkg h 1) 3 ≤ q) → p.mem.read q = s.pkg.mem.read q))) ∧
    -- swait
    (s.scopeState h = none → out (.swait d a b) s 2) ∧
    (s.scopeState h ≠ none → word s.pkg h 3 = 1 → out (.swait d a b) s 0) ∧
    (s.scopeState h ≠ none → word s.pkg h 3 ≠ 1 →
      exec (.swait d a b) s = .next { s with hart := { s.hart with hold := .swait h d s.hart.clock y.toNat } }.hold) ∧
    -- tspawn, once the hart's earlier accesses have performed
    (s.hart.bops = [] → s.hart.vq = [] → s.core.pipe = [] →
      (h.toNat % 64 ≠ 0 → exec (.tspawn d a) s = .next (s.trapHere .beacon)) ∧
      (∀ e, s.readRecord h = .error e → exec (.tspawn d a) s =
        .next ((if e = .poison then s.countPsn s.cur else s).trapHere e)) ∧
      ∀ ws, s.readRecord h = .ok ws →
        let scope := if recScope ws = 0 then own else recScope ws
        let r := ws.set 5 scope
        let fits := recOk r (if s.hart.hst.mode then none else some s.hart.hst.prio.val) = true ∧ s.related scope = true ∧
          recUse r &&& ~~~((s.hart.ctx.map Ctx.use).getD (s.pkg.capOf s.cur)) = 0 ∧ recW r 7 = 0
        (¬fits → out (.tspawn d a) s 2) ∧
        (fits → s.pkg.scopeState scope = some .cancelled → out (.tspawn d a) s 3) ∧
        (fits → s.pkg.scopeState scope = some .cancelling → ∃ p, out (.tspawn d a) { s with pkg := p } 3 ∧
          p = { s.pkg with scopes := p.scopes } ∧ (p.counts scope).kq = min ((s.pkg.counts scope).kq + recTotal r) (2 ^ 32 - 1)) ∧
        (fits → s.pkg.scopeState scope = some .live → 512 ≤ (s.die.queue (recPrio r)).length → s.die.ringSlots ≤ s.die.ring.length →
          out (.tspawn d a) s 1) ∧
        (fits → s.pkg.scopeState scope = some .live → 512 ≤ (s.die.queue (recPrio r)).length →
          s.die.ring.length < s.die.ringSlots →
          s.writeBlock ⟨s.cur.die, s.die.ringUser.1, s.die.ringUser.2, false⟩ (BitVec.ofNat 64 (s.die.ringBase +
            128 * ((s.die.ringHead + s.die.ring.length) % s.die.ringSlots))) r = none →
          exec (.tspawn d a) s = .next (s.trapHere .spill (recPrio r))) ∧
        (fits → s.pkg.scopeState scope = some .live → (s.die.queue (recPrio r)).length < 512 →
          ∃ t, out (.tspawn d a) t 0 ∧ t = { s with pkg := t.pkg, die := { s.die with queues := t.die.queues } } ∧
            t.pkg = { s.pkg with mem := t.pkg.mem, nextAge := s.pkg.nextAge + 1 } ∧
            word t.pkg scope 2 = twoCounts (children scope) (members scope + recTotal r) ∧
            ∀ q, q ∈ t.die.queues ↔ q ∈ s.die.queues ∨
              q = ⟨r, 0, recTotal r, recPrio r, s.pkg.nextAge, s.die.cycles, none, false, none, s.hart.xlat.1, s.hart.xlat.2,
                none⟩)) ∧
    -- tretire
    (s.hart.outstanding ≠ 0 → exec .tretire s = .next s.hold) ∧
    (Quiet s → s.hart.outstanding = 0 → s.hart.vq = [] → s.hart.bops = [] → s.core.pipe = [] → s.core.net = [] →
      ∀ c, s.hart.ctx = some c → c.faults = [] → c.graph = none →
        (∀ e, s.closePorts = .error e → exec .tretire s = .next (s.trapHere e.cause)) ∧
        ∀ u, s.closePorts = .ok u → u.pkg.mem.wf = true → u.hart.ctx = some c → u.cur = s.cur →
          (∀ x ∈ u.pkg.barriers, s.cur ∉ x.members) → u.pkg.scopeState c.scope ≠ none →
          ∃ t, exec .tretire s = .next t ∧ t.hart.ctx = none ∧ t.hart.hst.mode = false ∧
            (∀ p : Port, t.hart.ports[p] = PortSt.unbound) ∧ t.pkg.mem.wf = true ∧
            word t.pkg c.scope 2 =
              twoCounts ((word u.pkg c.scope 2).toNat / 2 ^ 32) ((word u.pkg c.scope 2).toNat % 2 ^ 32 - 1) ∧
            (t.pkg.counts c.scope).ct = min ((u.pkg.counts c.scope).ct + 1) (2 ^ 32 - 1))

/-- R208, R266 to R269: a cancel makes every LIVE scope of the subtree CANCELLING and drops its records, each iteration counted
in KQ; a hart with a task of a cancelled scope ends it at its kill point; with nothing left of a cancelled subtree its counts,
the acknowledgement and the state are written; a `swait` or `bwait` whose cycles have passed says so. (The order of a cancel's
parts, what performs at a kill point and who is counted: log entries 51 and 53.) -/
def Obligations.CancelsReachTheirTasks : Prop :=
  (∀ (s : State) (k : Word), s.pkg.scopeState k = some .live → s.pkg.mem.wf = true → s.cores = [] → s.quads = [] →
    s.dies = [] → s.die.saved = [] → s.core.shadow = [] → s.pkg.lends = [] → (∀ ch : Chan, s.core.chans[ch].q = []) →
    s.quad.passes = [] → s.quad.mops = [] →
    let inTree (x : Word) : Prop := x = k ∨ (s.pkg.under x k = true ∧ ∃ c ∈ s.pkg.scopes, c.handle = x)
    let hit (x : Word) : Prop := inTree x ∧ s.pkg.scopeState x = some .live
    let lost (x : Word) : Nat :=
      (((s.die.queues ++ s.die.ring).filter fun r => decide (recScope r.words = x)).map QRec.left).sum
    let live (p : Pkg) (x : Word) : Word := p.mem.word (scopeWordAt x 2)
    let t := s.cancel k
    t.hart = s.hart ∧ (t.pkg.counts k).target = true ∧ t.pkg.mem.wf = true ∧
    (∀ x, hit x → t.pkg.scopeState x = some .cancelling ∧
      ((s.pkg.counts x).kq < 2 ^ 32 → (t.pkg.counts x).kq = min ((s.pkg.counts x).kq + lost x) (2 ^ 32 - 1)) ∧
      (lost x ≠ 0 → live t.pkg x = twoCounts ((live s.pkg x).toNat / 2 ^ 32) ((live s.pkg x).toNat % 2 ^ 32 - lost x))) ∧
    (∀ x, ¬hit x → t.pkg.scopeState x = s.pkg.scopeState x ∧ (x ≠ k → t.pkg.counts x = s.pkg.counts x)) ∧
    (∀ r, r ∈ t.die.queues ↔ r ∈ s.die.queues ∧ ¬hit (recScope r.words)) ∧
    (∀ r, r ∈ t.die.ring ↔ r ∈ s.die.ring ∧ ¬hit (recScope r.words))) ∧
  (∀ s : State, s.killDue = false → exec .killPoint s = .next s) ∧
  (∀ (s : State) (c : Ctx), s.hart.ctx = some c → s.hart.hst.mode = false →
    (s.pkg.scopeState c.scope = some .cancelling ∨ s.pkg.scopeState c.scope = some .cancelled) →
    ∃ t, exec .killPoint s = .next t ∧ t.hart.ctx = none ∧ t.hart.hst.mode = false ∧ t.hart.hold = .none ∧
      t.hart.infl = [] ∧ (∀ x ∈ t.hart.vq, x.sup = true) ∧ (∀ b ∈ t.hart.bops, b.sup = true) ∧ (∀ p : Port, t.hart.ports[p] = PortSt.unbound) ∧
      (∀ k : Tok, t.hart.tk[k].out = 0) ∧ (∀ o ∈ t.core.pipe ++ t.core.net, o.hid = t.cur.hid → o.ent.sup = true) ∧
      (Quiet s → s.pkg.mem.wf = true → s.hart.bops = [] → s.core.pipe = [] → s.cores = [] → s.quads = [] →
        (∀ k : Chan, s.core.chans[k].q = []) → s.quad.passes = [] → s.quad.mops = [] → s.pkg.colls = [] → s.pkg.barriers = [] →
        (∀ p : Port, s.hart.ports[p].bound = false) →
        (t.pkg.counts c.scope).kt = min ((s.pkg.counts c.scope).kt + 1) (2 ^ 32 - 1) ∧
        let w := s.pkg.mem.word (scopeWordAt c.scope 2)
        t.pkg.mem.word (scopeWordAt c.scope 2) = twoCounts (w.toNat / 2 ^ 32) (w.toNat % 2 ^ 32 - 1))) ∧
  (∀ (s : State) (h : Word), s.ackReady h = false → exec (.cancelAcknowledgement h) s = .next s) ∧
  (∀ (s : State) (h : Word), s.ackReady h = true → s.pkg.mem.wf = true →
    (∀ r ∈ s.pkg.replays, r.scope ≠ h ∧ ∀ w ∈ r.recs, recScope w ≠ h) →
    let total (f : ScopeCnt → Nat) : Nat :=
      if (s.pkg.counts h).target then min (((s.pkg.subtree h).map fun k => f (s.pkg.counts k)).sum) (2 ^ 32 - 1)
      else f (s.pkg.counts h)
    ∃ p, exec (.cancelAcknowledgement h) s = .next { s with pkg := p } ∧ p = { s.pkg with mem := p.mem } ∧
      p.mem.wf = true ∧ p.scopeState h = some .cancelled ∧ p.mem.word (scopeWordAt h 3) = 1 ∧
      p.mem.word (scopeWordAt h 4) = BitVec.ofNat 64 (total ScopeCnt.kt * 2 ^ 32 + total ScopeCnt.kq) ∧
      p.mem.word (scopeWordAt h 5) = BitVec.ofNat 64 (total ScopeCnt.ke * 2 ^ 32 + total ScopeCnt.ce) ∧
      p.mem.word (scopeWordAt h 6) = BitVec.ofNat 64 (total ScopeCnt.ct) ∧
      ∀ a, a < scopeWordAt h 0 ∨ scopeWordAt h 8 ≤ a → p.mem.read a = s.pkg.mem.read a) ∧
  (∀ (s : State) (h : Word) (d : SReg) (since limit : Nat), s.hart.hold = .swait h d since limit → s.hart.pendingReg d = false →
    let ends (v : Word) : Prop :=
      exec .swaitTimeout s = .next (withResult { s with hart := { s.hart with hold := .none } } d v 1).advance
    (s.hart.clock < since + limit → exec .swaitTimeout s = .next s) ∧
    (since + limit ≤ s.hart.clock → (s.scopeState h = none → ends 2) ∧
      (s.scopeState h ≠ none → ends (if s.pkg.mem.word (scopeWordAt h 3) = 1 then 0 else 4)))) ∧
  ∀ (s : State) (l : BarLevel) (ch : Nat) (d : SReg) (since limit : Nat), s.hart.hold = .bwait l ch d since limit →
    s.hart.pendingReg d = false →
    (s.hart.clock < since + limit → exec .bwaitTimeout s = .next s) ∧
    (since + limit ≤ s.hart.clock → ∃ p,
      exec .bwaitTimeout s = .next (withResult { s with pkg := p, hart := { s.hart with hold := .none } } d 4 1).advance ∧
      p = { s.pkg with barriers := p.barriers } ∧ s.cur ∉ (p.barrier l (BarLevel.unit l s.cur) ch).arrived ∧
      ∀ x, x ≠ s.cur →
        (x ∈ (p.barrier l (BarLevel.unit l s.cur) ch).arrived ↔ x ∈ (s.pkg.barrier l (BarLevel.unit l s.cur) ch).arrived))

/-! ### Graphs -/

/-- n words from a DVA on lie, one after the other, at a physical address of a beacon, where they may be read and written. -/
def Sys2Proof.Claims.AreaAt (s : State) (va : Word) (n pa : Nat) : Prop :=
  va.toNat % 64 = 0 ∧
  ∀ k < n, ∀ write, s.blockAddr ⟨s.cur.die, s.hart.xlat.1, s.hart.xlat.2, !s.hart.hst.mode⟩ (va + BitVec.ofNat 64 (8 * k)) write =
    some (pa + 8 * k)

/-- The package with other words at a physical address, and nothing else changed but the poison marks of what was written. -/
def Sys2Proof.Claims.Rewritten (p q : Pkg) (at' : List (Nat × Word)) : Prop :=
  q = { p with mem := q.mem, beaconPoison := q.beaconPoison } ∧ q.mem.wf = true ∧
  (∀ x ∈ at', q.mem.word x.1 = x.2) ∧
  ∀ a, (∀ x ∈ at', a < x.1 ∨ x.1 + 8 ≤ a) → q.mem.read a = p.mem.read a

/-- R273, R274, R355: the words that build a graph, on an area that lies in a beacon; the front then holds until the answer comes.
(What `gadd` checks of a record: log entry 80.) -/
def Obligations.GraphsAreBuilt : Prop :=
  ∀ (d a b : SReg) (s : State) (pa : Nat), Issues s 21 [a, b, d] → s.pkg.mem.wf = true →
    let x := s.hart.reg a
    let y := s.hart.reg b
    let out (i : Instr) (t : State) (v : Word) : Prop := exec i s = .next (withResult t d v 1).answered
    let fails (i : Instr) (k : Nat) : Prop := out i s (BitVec.ofNat 64 (2 ^ 63 + k))
    let W (k : Nat) : Word := s.pkg.mem.word (pa + 8 * k)
    let count := (W 0).toNat % 2 ^ 16
    let st := (W 0).toNat / 2 ^ 60
    let N (j k : Nat) : Word := W (8 + 24 * j + k)
    let node (j : Nat) : List Word := (List.range 24).map (N j)
    -- grbeg
    (let may := 1 ≤ y.toNat ∧ y.toNat ≤ 4096 ∧
       (s.areaPages ⟨s.cur.die, s.hart.xlat.1, s.hart.xlat.2, !s.hart.hst.mode⟩ x (64 + 192 * y.toNat) true).isSome = true
     (¬may → fails (.grbeg d a b) 2) ∧
     (may → AreaAt s x 4 pa → ∃ p, out (.grbeg d a b) { s with pkg := p } x ∧
       Rewritten s.pkg p [(pa, 0), (pa + 8, y), (pa + 16, 0), (pa + 24, 0)])) ∧
    -- gadd
    ((∀ c, s.checkRecord x true = .trap c →
        exec (.gadd d a b) s = .next ((if c = .poison then s.countPsn s.cur else s).trapHere c)) ∧
     (∀ k t, s.checkRecord x true = .status k t → fails (.gadd d a b) k) ∧
     ∀ r, s.checkRecord x true = .ok r →
      (AreaAt s y 4 pa → st ≠ 0 ∨ (W 1).toNat ≤ count → fails (.gadd d a b) 2) ∧
      (AreaAt s y (8 + 24 * (count + 1)) pa → st = 0 → count < (W 1).toNat → ∃ p, out (.gadd d a b) { s with pkg := p }
          (BitVec.ofNat 64 count) ∧
        Rewritten s.pkg p ((pa, BitVec.ofNat 64 (count + 1)) :: (List.range 24).map fun k =>
          (pa + 8 * (8 + 24 * count + k), if k = 7 then BitVec.ofNat 64 (count * 2 ^ 48) else if k < 16 then recW r k else 0)))) ∧
    -- gdep: the successor in bits [15:0], the predecessor in bits [31:16]
    (AreaAt s x (8 + 24 * count) pa →
      let succ := y.toNat % 2 ^ 16
      let pred := y.toNat / 2 ^ 16 % 2 ^ 16
      let k := (N pred 16).toNat / 2 ^ 32 % 2 ^ 16
      let may := st = 0 ∧ succ < count ∧ pred < succ ∧ k < 28
      (¬may → fails (.gdep d a b) 2) ∧
      (may → ∃ p w, out (.gdep d a b) { s with pkg := p } 0 ∧
        Rewritten s.pkg p [(pa + 8 * (8 + 24 * pred + 17 + k / 4), w),
          (pa + 8 * (8 + 24 * pred + 16), BitVec.ofNat 64 ((k + 1) * 2 ^ 32 + (N pred 16).toNat % 2 ^ 32)),
          (pa + 8 * (8 + 24 * succ + 16),
            BitVec.ofNat 64 ((N succ 16).toNat / 2 ^ 32 % 2 ^ 16 * 2 ^ 32 + ((N succ 16).toNat % 2 ^ 32 + 1)))] ∧
        ∀ j < 4, w.toNat / 2 ^ (16 * j) % 2 ^ 16 =
          if j = k % 4 then succ else (N pred (17 + k / 4)).toNat / 2 ^ (16 * j) % 2 ^ 16)) ∧
    -- grend, gfree
    (AreaAt s x (8 + 24 * count) pa →
      let terminal := ((List.range count).filter fun j => decide ((N j 16).toNat / 2 ^ 32 % 2 ^ 16 = 0)).length
      (st ≠ 0 ∨ terminal ≠ 1 → fails (.grend d a) 2) ∧
      (st = 0 → terminal = 1 → ∃ p, out (.grend d a) { s with pkg := p } 0 ∧
        Rewritten s.pkg p [(pa, BitVec.ofNat 64 (2 ^ 60 + count)), (pa + 8, W 1),
          (pa + 16, BitVec.ofNat 64 (((List.range count).map fun j => recPlen (node j)).sum))])) ∧
    (AreaAt s x 4 pa → (2 ≤ st → fails (.gfree d a) 2) ∧ (st < 2 → W 3 ≠ 0 → fails (.gfree d a) 1) ∧
      (st < 2 → W 3 = 0 → out (.gfree d a) s 0))

/-- Words lie one after the other where a party may read them. -/
def Sys2Proof.Claims.BlockAt (s : State) (x : Xl) (va : Word) (ws : List Word) : Prop :=
  ∀ k < ws.length, ∃ pa, s.blockAddr x (va + BitVec.ofNat 64 (8 * k)) false = some pa ∧ ws[k]? = some (s.pkg.mem.word pa)

/-- R22, R270, R275: `grplay` starts a replay and holds a place on its token, or fails, its completion still to come (log entry 44);
that it answers INVAL where a node's record does not fit its player, in PRIO, use mask or scope, is the model's choice (log entry 80,
DEDUCED), and so is that two replays are of one graph where their headers lie at one physical address (log entry 80). The snapshot
holds the nodes' parameters in node order, patched in the order of the patches, and each record's PSRC names its copy (log entry 67);
SCOPE 0 of a node is the player's scope; a node whose predecessors have retired is spawned once, into its scope, by the first replay
of its graph; the others wait (log entry 81). -/
def Obligations.GraphsReplay : Prop :=
  (∀ (d a b : SReg) (tk : Tok) (s : State), Issues s 21 [a, b, d] →
    let g := s.hart.reg a
    let y := s.hart.reg b
    let me : Xl := ⟨s.cur.die, s.hart.xlat.1, s.hart.xlat.2, !s.hart.hst.mode⟩
    let own : Word := (s.hart.ctx.map Ctx.scope).getD 0
    let prio : Option Nat := if s.hart.hst.mode then none else some s.hart.hst.prio.val
    let use := (s.hart.ctx.map Ctx.use).getD (s.pkg.capOf s.cur)
    let player : Player := ⟨me, some (ownerOf s tk), own, some (prio, use, own)⟩
    (¬MayPost s → exec (.grplay d a b tk) s = .next s.freeze) ∧
    (MayPost s →
      (∀ t, s.replayGraph player g y = .ok t → exec (.grplay d a b tk) s = .next (posted (withResult t d 0 1) tk none).advance) ∧
      (∀ k, s.replayGraph player g y = .error k →
        let u := posted (withResult s d (BitVec.ofNat 64 (2 ^ 63 + k)) 1) tk none
        exec (.grplay d a b tk) s = .next { u with hart := { u.hart with
          late := u.hart.late ++ ([⟨opId s, s.hart.hst.mode, tk, none⟩] : List Late) } }.advance)) ∧
    ∀ (pa : Nat) (h : GraphHdr) (nodes : List (List Word)), AreaAt s g 4 pa → s.pkg.mem.wf = true → s.graphHdr me g = some h →
      s.allNodes me g h.count = some nodes →
      let ns := nodes.map fun n => if recScope n = 0 then n.set 5 own else n
      let live (z : Word) : Prop := s.scopeState z = some .live
      let fits (n : List Word) : Prop := recOk (n.take 16) prio = true ∧ recUse n &&& ~~~use = 0 ∧
        s.pkg.under (recScope n) own = true
      let ready : Prop := h.sealedG = true ∧ live own ∧ ∀ n ∈ ns, live (recScope n) ∧ fits n
      (h.sealedG = false → s.replayGraph player g y = .error 2) ∧
      ((∃ n ∈ ns, s.scopeState (recScope n) ≠ none ∧ ¬fits n) → s.replayGraph player g y = .error 2) ∧
      (h.sealedG = true → (∀ n ∈ ns, s.scopeState (recScope n) ≠ none → fits n) →
        ¬(live own ∧ ∀ n ∈ ns, live (recScope n)) → s.replayGraph player g y = .error 3) ∧
      (ready → ∀ (snap : Word) (patches : List (Nat × Nat × Word)) (blocks : List (List Word)),
        BlockAt s me y (BitVec.ofNat 64 patches.length :: snap :: patches.flatMap fun q =>
          [BitVec.ofNat 64 (q.1 * 2 ^ 48 + q.2.1 * 2 ^ 32), q.2.2]) → patches.length < 2 ^ 40 →
        (∀ q ∈ patches, q.1 < 2 ^ 16 ∧ q.2.1 < 2 ^ 16) → blocks.length = ns.length →
        (∀ (i : Nat) (n ws : List Word), ns[i]? = some n → blocks[i]? = some ws → ws.length = recPlen n ∧
          (recPsrc n = 0 → ws = List.replicate (recPlen n) 0) ∧
          (recPsrc n ≠ 0 → BlockAt s me (BitVec.ofNat 64 (recPsrc n)) ws)) →
        let off (i : Nat) : Nat := ((ns.take i).map recPlen).sum
        let inside (q : Nat × Nat × Word) : Prop := ∃ n, ns[q.1]? = some n ∧ q.2.1 < recPlen n
        let image := patches.foldl (fun ws q => ws.set (off q.1 + q.2.1) q.2.2) blocks.flatten
        ((∃ q ∈ patches, ¬inside q) → s.replayGraph player g y = .error 2) ∧
        ((∀ q ∈ patches, inside q) → ∀ u v, s.writeBlock me snap image = some u →
          u.writeBlock me (g + 24) [BitVec.ofNat 64 (h.replays + 1)] = some v →
          ∃ t r, s.replayGraph player g y = .ok t ∧ t = { v with pkg := { v.pkg with
              replays := v.pkg.replays ++ [r], nextCtx := v.pkg.nextCtx + 1 } } ∧
            r.id = v.pkg.nextCtx ∧ r.graph = g ∧ r.area = pa ∧ r.scope = own ∧ r.preds = ns.map nodePred ∧ r.succs = ns.map nodeSuccs ∧
            r.recs.length = ns.length ∧ ∀ (i : Nat) (n : List Word), ns[i]? = some n → r.recs[i]? = some (if recPsrc n = 0 then n.take 16
              else (n.take 16).set 2 (BitVec.ofNat 64 (recPlen n * 2 ^ 48 + (snap.toNat + 8 * off i) % 2 ^ 48))))) ∧
      (ready → (∀ n ∈ ns, recPlen n = 0 ∧ recPsrc n = 0) →
        ∀ pb, AreaAt s y 2 pb → s.pkg.mem.word pb = 0 →
        ∃ t, s.replayGraph player g y = .ok t ∧ t = { s with pkg := t.pkg } ∧
          t.pkg.replays = s.pkg.replays ++
            ([⟨s.pkg.nextCtx, g, pa, some (ownerOf s tk), own, s.cur.die, ns.map (List.take 16), ns.map nodePred,
              ns.map fun n => recTotal (n.take 16), ns.map fun _ => false, ns.map nodeSuccs, me.ctx, me.root⟩] : List Replay) ∧
          Rewritten { s.pkg with replays := t.pkg.replays, nextCtx := s.pkg.nextCtx + 1 } t.pkg [(pa + 24, BitVec.ofNat 64 (h.replays + 1))])) ∧
  (∀ (s : State) (g : Word) (node : Nat) (r : Replay) (more : List Replay), s.pkg.replays = r :: more → r.graph = g →
    (∀ q ∈ more, q.graph = g → q.area = r.area) →
    (r.preds[node]? ≠ some 0 ∨ r.spawned[node]? ≠ some false) → exec (.graphNodeSpawn g node) s = .next s) ∧
  ∀ (s : State) (g : Word) (node : Nat) (r : Replay) (ws : List Word) (n : Nat) (sp : Bool),
    r ∈ s.pkg.replays → r.graph = g → (∀ q ∈ s.pkg.replays, q.graph = g ∨ q.area = r.area → q = r) → r.recs[node]? = some ws → r.preds[node]? = some n →
    r.spawned[node]? = some sp → r.die = s.cur.die → s.pkg.mem.wf = true →
    let scope := recScope ws
    let marked (p : Pkg) : Prop :=
      p.replays = s.pkg.replays.map fun q => if q = r then { q with spawned := q.spawned.set node true } else q
    (n ≠ 0 ∨ sp = true → exec (.graphNodeSpawn g node) s = .next s) ∧
    (n = 0 → sp = false →
      (s.pkg.scopeState scope = some .live → 512 ≤ (s.die.queue (recPrio ws)).length → s.die.ringSlots ≤ s.die.ring.length →
        exec (.graphNodeSpawn g node) s = .next s) ∧
      (s.pkg.scopeState scope = some .live → (s.die.queue (recPrio ws)).length < 512 →
        ∃ t, exec (.graphNodeSpawn g node) s = .next t ∧ t = { s with pkg := t.pkg, die := t.die } ∧ marked t.pkg ∧
          (∀ q, q ∈ t.die.queues ↔ q ∈ s.die.queues ∨
            q = ⟨ws, 0, recTotal ws, recPrio ws, s.pkg.nextAge, s.die.cycles, none, false, some ⟨r.die, g, node, r.id⟩, r.tctx, r.root,
              none⟩) ∧
          let w := s.pkg.mem.word (scopeWordAt scope 2)
          t.pkg.mem.word (scopeWordAt scope 2) = twoCounts (w.toNat / 2 ^ 32) (w.toNat % 2 ^ 32 + recTotal ws)) ∧
      (s.pkg.scopeState scope = some .cancelling → ∃ p, exec (.graphNodeSpawn g node) s = .next { s with pkg := p } ∧ marked p ∧
        p.mem = s.pkg.mem ∧ (p.counts scope).kq = min ((s.pkg.counts scope).kq + recTotal ws) (2 ^ 32 - 1)))

/-! ### Barriers -/

/-- R207, R268, R271, R272, R330: the barrier functions. A member arrives once its earlier accesses have performed, and the last
arrival releases every one; at pod level the other packages' members must have arrived too (what the part knows of them then:
log entry 54). -/
def Obligations.BarriersReleaseTheirMembers : Prop :=
  ∀ (l : BarLevel) (d a b : SReg) (s : State), Issues s 0 [a, b, d] →
    let ch := (s.hart.reg a).toNat
    let u := BarLevel.unit l s.cur
    let x := s.pkg.barrier l u ch
    let out (i : Instr) (t : State) (v : Word) : Prop := exec i s = .next (withResult t d v 1).answered
    let known (b : Barrier) : Barrier := if l = .pod then s.farPart b else b
    let after : Nat := if l = .pod then s.fresh + 2048 else s.fresh
    let only (p : Pkg) : Prop := p = { s.pkg with barriers := p.barriers }
    (16 ≤ ch → out (.bjoin l d a) s 2 ∧ out (.bwait l d a b) s 2 ∧ out (.bleave l d a) s 2) ∧
    (ch < 16 →
      (s.cur ∈ x.members → out (.bjoin l d a) s 1) ∧
      (s.cur ∉ x.members → out (.bwait l d a b) s 2 ∧ out (.bleave l d a) s 2 ∧
        ∃ p, out (.bjoin l d a) { s with pkg := p } 0 ∧ only p ∧ p.barrier l u ch = { x with members := x.members ++ [s.cur] }) ∧
      (s.cur ∈ x.members →
        let rest := x.members.filter fun h => decide (h ≠ s.cur)
        let came := x.arrived.filter fun h => decide (h ≠ s.cur)
        let left := known { x with members := rest, arrived := came }
        let joined := known { x with arrived := x.arrived ++ [s.cur] }
        let opens (b : Barrier) : Prop := b.arrived ≠ [] ∧ (∀ h ∈ b.members, h ∈ b.arrived) ∧ ∀ k ∈ b.far, k ∈ b.farArrived
        let released (t : State) (came : List HartId) : Prop := (t.pkg.barrier l u ch).arrived = [] ∧ (t.pkg.barrier l u ch).farArrived = [] ∧
          ∀ h ∈ came, ∀ l' c' d' n m, (s.getHart h).hold = .bwait l' c' d' n m → (t.getHart h).hold = .none
        (¬opens left → ∃ p, out (.bleave l d a) { s with pkg := p, fresh := after } 0 ∧ only p ∧ p.barrier l u ch = left) ∧
        (opens left → ∃ t, exec (.bleave l d a) s = .next t ∧ released t came ∧ (t.pkg.barrier l u ch).members = rest ∧
          t.hart = (withResult s d 0 1).answered.hart) ∧
        (s.cur ∉ x.arrived →
          let waiting : State :=
            { s with hart := { s.hart with hold := .bwait l ch d s.hart.clock (s.hart.reg b).toNat } }
          let ended : State := { s with hart := { s.hart with hold := .none } }
          (s.accessesDone = false → exec (.bwait l d a b) s = .next waiting.hold) ∧
          (s.accessesDone = true → ¬opens joined → ∃ p,
            exec (.bwait l d a b) s = .next { waiting with pkg := p, fresh := after }.hold ∧ only p ∧
            p.barrier l u ch = joined) ∧
          (s.accessesDone = true → opens joined → ∃ t, exec (.bwait l d a b) s = .next t ∧
            released t (x.arrived ++ [s.cur]) ∧
            t.hart = (withResult ended d 0 1).advance.hart))))

/-! ### The Plotter and the prefetcher -/

/-- R257, R258, R260: which index each loop of a record has in iteration n, the innermost loop running fastest. -/
def Sys2Proof.Claims.loopIndex (r : List Word) (n k : Nat) : Nat :=
  let count (j : Nat) : Nat := recCount r (recOrd r j)
  n / (((List.range (recNl r)).filter fun j => decide (k < j)).map count).prod % count k

/-- A core may be handed to its next task now (R261, R279): no prepared task waits on it, and it is free or a hart of it is that no
task in its shadow slots takes. -/
def Sys2Proof.Claims.ReadyNow (s : State) (c : HartId) (r : List Word) : Prop :=
  (∀ x ∈ (s.getCore c).shadow, x.copied = false ∨ x.nextPort < 8) ∧
  (s.coreFree c = true ∨ (s.getCore c).shadow.length <
    ((List.range (if c.core = 4 then 1 else 8)).filter fun k => s.freeFor c k (32 / 2 ^ recSplit r)).length)

/-- A user context that R298 lets a record's Plotter pre-empt (log entry 66). -/
def Sys2Proof.Claims.Yields (s : State) (r : QRec) (h : HartId) : Prop :=
  let x := s.getHart h
  h ∈ s.dieHarts s.cur.die ∧ x.ctx ≠ none ∧ x.hst.mode = false ∧ x.hst.prio.val < r.prio ∧ x.hst.prio.val ≤ 6 ∧
  s.coreFits h r.words = true ∧ (s.getCore h).shadow.length < 2

/-- Such a context whose lanes a reclaim halves to the record's SPLIT (R298, R299). -/
def Sys2Proof.Claims.YieldsLanes (s : State) (r : QRec) (h : HartId) : Prop :=
  let x := s.getHart h
  Yields s r h ∧ x.hst.recl = true ∧ x.hst.helm = false ∧ (if x.hst.prot then 16 else 8) ≤ x.lanes ∧
  x.lanes = 2 * (32 / 2 ^ recSplit r.words) ∧ ∃ k < 8, (s.getHart { h with hid := k }).lanes = 0

/-- Such a context that a full save makes way with, the pool having a slot for it (R298, R301, R303). -/
def Sys2Proof.Claims.YieldsHart (s : State) (r : QRec) (h : HartId) : Prop :=
  let x := s.getHart h
  Yields s r h ∧ (if recHelm r.words then x.hst.helm = true else x.lanes = 32 / 2 ^ recSplit r.words ∨ s.freeBut h = true) ∧
  (s.die.freeSlot x.hst.helm ((x.ctx.map Ctx.cwLen).getD 0)).isSome = true

/-- Of the contexts that yield one way the one R298 takes: the lowest priority, then quad, core and HID. -/
def Sys2Proof.Claims.Lowest (s : State) (yields : HartId → Prop) (h : HartId) : Prop :=
  let key (k : HartId) : List Nat := [(s.getHart k).hst.prio.val, k.quad, k.core, k.hid]
  yields h ∧ ∀ k, yields k → ¬key k < key h

/-- R261, R262, R270, R298: a cycle of the Plotter hands one iteration of a record of the highest priority that some core can take,
the first of its queue, to the lowest of the cores R261 prefers, and the record leaves with its last; a queue is kept in order of
age; for the first record of a queue that no core can take, by priority, a context of lower priority is marked, for a reclaim
before a full save; a record that has waited 2^20 cycles moves up a queue that has room; the oldest spilled record returns to its
queue once that has room (log entry 61). -/
def Obligations.PlotterHandsOut : Prop :=
  (∀ s : State, s.die.saved = [] →
    (s.nextRec s.cur.die = none → ∃ t, exec .plotterCycle s = .next t ∧ t.die = { s.die with cycles := s.die.cycles + 1 } ∧
      t.core = s.core ∧ t.pkg = s.pkg) ∧
    ∀ r c, s.nextRec s.cur.die = some (r, c) →
      (r ∈ s.die.queues ∧ r.next < r.limit ∧ c ∈ dieCores s.cur.die ∧ s.eligible c r.words = true ∧
        ∀ q ∈ s.die.queues, q.prio < 8 → q.next < q.limit → (∃ c' ∈ dieCores s.cur.die, s.eligible c' q.words = true) →
          q.prio ≤ r.prio) ∧
      (∃ pre post, s.die.queues = pre ++ r :: post ∧ ∀ q ∈ pre, q.prio = r.prio → q.next < q.limit →
        ∀ c' ∈ dieCores s.cur.die, s.eligible c' q.words = false) ∧
      (∃ pre post, dieCores s.cur.die = pre ++ c :: post ∧
        ((ReadyNow s c r.words ∧ ∀ c' ∈ pre, s.eligible c' r.words = true → ¬ReadyNow s c' r.words) ∨
         ((∀ c' ∈ dieCores s.cur.die, s.eligible c' r.words = true → ¬ReadyNow s c' r.words) ∧
           ∀ c' ∈ pre, s.eligible c' r.words = false))) ∧
      ∃ t x, exec .plotterCycle s = .next t ∧ t.die.cycles = s.die.cycles + 1 ∧
        (t.getCore c).shadow = (s.getCore c).shadow ++ [x] ∧ x.words = r.words ∧ x.n = r.next ∧ x.prio = r.prio ∧ x.age = r.age ∧
        x.graph = r.graph ∧ x.copied = false ∧ x.nextPort = 0 ∧ x.fault = none ∧
        t.die.queues = s.die.queues.filterMap fun q =>
          if q.age = r.age ∧ q.next = r.next then
            (if r.next + 1 = r.last then none else some { q with next := r.next + 1 })
          else some q) ∧
  (∀ (r : QRec) (l : List QRec), (insertAge r l).Perm (r :: l) ∧
    ((l.Pairwise fun p q => p.age ≤ q.age) → (insertAge r l).Pairwise fun p q => p.age ≤ q.age)) ∧
  (∀ s : State, s.die.saved = [] → s.nextRec s.cur.die = none →
    let first (p : Nat) : Option QRec := (s.die.queue p).find? fun r => decide (r.next < r.limit)
    let none' (q : QRec) : Prop := ∀ h, ¬YieldsLanes s q h ∧ ¬YieldsHart s q h
    let marks (h : HartId) (y : Hart) : Prop := ∃ t, exec .plotterCycle s = .next t ∧ t.getHart h = y ∧
      ∀ k, k ≠ h → t.getHart k = s.getHart k
    ((∀ p < 8, ∀ q, first p = some q → none' q) →
      ∃ t, exec .plotterCycle s = .next t ∧ ∀ k, t.getHart k = s.getHart k) ∧
    ∀ p < 8, ∀ r, first p = some r → (∀ p' < 8, p < p' → ∀ q, first p' = some q → none' q) →
      (∀ h, Yields s r h → (s.getHart h).reclPend = false ∧ (s.getHart h).savePend = false) →
      (∀ h, Lowest s (YieldsLanes s r) h → marks h { s.getHart h with reclPend := true }) ∧
      ((∀ h, ¬YieldsLanes s r h) → ∀ h, Lowest s (YieldsHart s r) h → marks h { s.getHart h with savePend := true })) ∧
  (∀ (s : State) (prio k : Nat),
    ((s.die.queue prio)[k]? = none → exec (.recordPromotion prio k) s = .next s) ∧
    ∀ r, (s.die.queue prio)[k]? = some r →
      let due := prio < 7 ∧ r.entered + 2 ^ 20 ≤ s.die.cycles ∧ (s.die.queue (prio + 1)).length < 512
      (¬due → exec (.recordPromotion prio k) s = .next s) ∧
      (due → ∃ qs, exec (.recordPromotion prio k) s = .next { s with die := { s.die with queues := qs } } ∧
        qs = s.die.queues.map fun q => if q.age = r.age ∧ q.last = r.last then { q with prio := prio + 1, entered := s.die.cycles } else q)) ∧
  ∀ (s : State),
    (s.die.ring = [] → exec .spillReturn s = .next s) ∧
    ∀ r rest, s.die.ring = r :: rest →
      (512 ≤ (s.die.queue r.prio).length → exec .spillReturn s = .next s) ∧
      ((s.die.queue r.prio).length < 512 → ∃ d, exec .spillReturn s = .next { s with die := d } ∧ d.ring = rest ∧
        d = { s.die with ring := rest, ringHead := d.ringHead, queues := d.queues } ∧
        (0 < s.die.ringSlots → d.ringHead = (s.die.ringHead + 1) % s.die.ringSlots) ∧
        ∀ q, q ∈ d.queues ↔ q ∈ s.die.queues ∨ q = { r with entered := s.die.cycles })

/-- R12, R106, R179, R260, R263, R271, R288: what the prefetcher does for a task in a shadow slot, and the state it starts in
on the lowest free hart, on which nothing that a handler issued is still to complete (log entry 115); a task whose preparation failed
starts in its trap. (Whose blocks a parameter block waits for: log entry
60; what a port bound ahead names as its hart: log entry 59.) -/
def Obligations.TasksArePreparedAndStart : Prop :=
  (∀ (s : State) (k : Nat) (x : Shadow), s.core.shadow[k]? = some x →
    let size := 8 * recPlen x.words
    let at' := recPdst x.words
    let meets (a n : Nat) : Prop := 0 < n ∧ 0 < size ∧ at' < a + n ∧ a < at' + size
    let xl : Xl := ⟨s.cur.die, x.tctx, x.root, true⟩
    let slot (t : State) (y : Shadow) : Prop := t.core.shadow[k]? = some y ∧ ∀ j, j ≠ k → t.core.shadow[j]? = s.core.shadow[j]?
    -- step 1
    (x.copied = true → exec (.prefetchParameterBlock k) s = .next s) ∧
    (x.copied = false → recPsrc x.words = 0 → ∃ t, exec (.prefetchParameterBlock k) s = .next t ∧ slot t { x with copied := true } ∧
      t.core.chart = s.core.chart ∧ t.pkg = s.pkg) ∧
    (x.copied = false → recPsrc x.words ≠ 0 →
      ((∃ k < 8, ∃ c, (s.getHart { s.cur with hid := k }).ctx = some c ∧ meets c.block.1 c.block.2) ∨
        (∃ y ∈ s.core.shadow, y.order < x.order ∧ meets (recPdst y.words) (8 * recPlen y.words)) → exec (.prefetchParameterBlock k) s = .next s) ∧
      ((∀ k < 8, ∀ c, (s.getHart { s.cur with hid := k }).ctx = some c → ¬meets c.block.1 c.block.2) →
       (∀ y ∈ s.core.shadow, y.order < x.order → ¬meets (recPdst y.words) (8 * recPlen y.words)) →
        (s.readBlock xl (BitVec.ofNat 64 (recPsrc x.words)) (recPlen x.words) = none →
          ∃ t, exec (.prefetchParameterBlock k) s = .next t ∧
            slot t { x with copied := true, nextPort := 8, fault := some .beacon } ∧ t.core.chart = s.core.chart) ∧
        ∀ ws, s.readBlock xl (BitVec.ofNat 64 (recPsrc x.words)) (recPlen x.words) = some ws → s.core.chart.wf = true →
          ∃ t, exec (.prefetchParameterBlock k) s = .next t ∧ slot t { x with copied := true } ∧ t.core.chart.wf = true ∧
            (∀ i < recPlen x.words, t.core.chart.word (at' + 8 * i) = recW ws i) ∧
            ∀ a, a < at' ∨ at' + size ≤ a → t.core.chart.read a = s.core.chart.read a)) ∧
    -- step 2
    (x.copied = false ∨ 8 ≤ x.nextPort → exec (.prebind k) s = .next s) ∧
    (x.copied = true → x.nextPort < 8 →
      let p := x.nextPort
      let h := s.core.chart.word (at' + 16 * p)
      let l := s.core.chart.word (at' + 16 * p + 8)
      let causeOf (e : XErr) : Cause := match e with
        | .poison => .poison
        | .bad _ => .poison
        | _ => .runfault
      let fails (c : Cause) : Prop := ∃ t, exec (.prebind k) s = .next t ∧
        slot t { x with nextPort := 8, ports := Vector.replicate 8 PortSt.unbound, fault := some c }
      ((recPmask x.words).testBit p = false → ∃ t, exec (.prebind k) s = .next t ∧ slot t { x with nextPort := p + 1 } ∧
        t.pkg = s.pkg) ∧
      ((recPmask x.words).testBit p = true →
        (l.toNat % 8 ≠ p ∨ layoutOk l = false ∨ s.run h = none → fails .runfault) ∧
        (l.toNat % 8 = p → layoutOk l = true → ∀ r, s.run h = some r →
          (l.getLsbD 3 = false → r.rdrs = 511 → exec (.prebind k) s = .next s) ∧
          (l.getLsbD 3 = true → r.state = .opened → exec (.prebind k) s = .next s) ∧
          (l.getLsbD 3 = true → r.state ≠ .alloc → r.state ≠ .opened → fails .runend) ∧
          (∀ e, l.getLsbD 3 = false → r.rdrs ≠ 511 → s.checkStream xl r .read 0 = .error e → fails (causeOf e)) ∧
          (∀ e, l.getLsbD 3 = true → r.state = .alloc → r.mark.toNat < r.cap.toNat →
            s.checkStream xl r .write (r.mark.toNat * 2 ^ r.wlog) = .error e → fails (causeOf e)) ∧
          (∀ tr, l.getLsbD 3 = true → r.state = .alloc → r.mark.toNat < r.cap.toNat → s.pkg.mem.wf = true →
            s.cur.core < 5 → s.cur.die < 4 → s.cur.quad < 64 →
            s.checkStream xl r .write (r.mark.toNat * 2 ^ r.wlog) = .ok tr →
            ∃ t q, exec (.prebind k) s = .next t ∧ slot t { x with nextPort := p + 1, ports := q } ∧
              (∀ j : Fin 8, q[j] = if j.val = p then
                ⟨true, h, l, r.mark.toNat * 2 ^ r.wlog, false, false, 0, tr⟩ else x.ports[j]) ∧
              Redescribed s.pkg t.pkg (h.toNat / 2 ^ 46 % 4) (h.toNat % 8192) { r with
                state := .opened
                writer := ⟨1, s.cur.die, s.cur.quad, if s.cur.core = 4 then 0 else s.cur.core, 0, p, s.cur.core = 4⟩ }) ∧
          (l.getLsbD 3 = false → r.rdrs ≠ 511 → s.pkg.mem.wf = true → ∀ tr, s.checkStream xl r .read 0 = .ok tr →
            ∃ t q, exec (.prebind k) s = .next t ∧ (∀ j : Fin 8, q[j] = if j.val = p then ⟨true, h, l, 0, false, false, 0, tr⟩ else x.ports[j]) ∧
              slot t { x with nextPort := p + 1, ports := q } ∧
              Redescribed s.pkg t.pkg (h.toNat / 2 ^ 46 % 4) (h.toNat % 8192) { r with rdrs := r.rdrs + 1 }))))) ∧
  (∀ (r : List Word) (n k : Nat), recOk r none = true → k < recNl r →
    (recIndices r n)[recOrd r k]? =
      some (recStart r (recOrd r k) + BitVec.ofNat 64 (loopIndex r n k) * recStep r (recOrd r k))) ∧
  ∀ (s : State), ((∀ x ∈ s.core.shadow, x.copied = false ∨ x.nextPort < 8) → exec .taskStart s = .next s) ∧
    (∀ (k l : Nat), s.freeFor s.cur k l = true ↔
      let h := s.getHart { s.cur with hid := k }
      h.ctx = none ∧ h.hst.mode = false ∧ s.ownDone { s.cur with hid := k } = true ∧ h.stopped = false ∧ h.leaving = false ∧
        (h.hst.helm = true ∨ h.lanes = l)) ∧
    ∀ x ∈ s.core.shadow, x.copied = true → 8 ≤ x.nextPort →
      (∀ y ∈ s.core.shadow, y ≠ x → y.copied = true → 8 ≤ y.nextPort → x.order < y.order) →
      let r := x.words
      let helm := recHelm r
      let free (k : Nat) : Bool := s.freeFor s.cur k (32 / 2 ^ recSplit r)
      ((∀ k < if helm then 1 else 8, free k = false) → exec .taskStart s = .next s) ∧
      (s.die.draining = some s.cur.quad → exec .taskStart s = .next s) ∧
      ∀ k, k < (if helm then 1 else 8) → free k = true → (∀ j < k, free j = false) → s.die.draining ≠ some s.cur.quad →
        (helm = true → s.quad.mops = []) →
        let place : HartId := { s.cur with hid := k }
        let old := s.getHart place
        ∃ t c, exec .taskStart s = .next t ∧ t.core.shadow = (s.core.shadow.filter fun y => decide (y.order ≠ x.order)) ∧
          let h := t.getHart place
          h.ctx = some c ∧ c.id = s.pkg.nextCtx ∧ c.use = recUse r ∧ c.scope = recScope r ∧ c.iter = x.n ∧ c.tctx = x.tctx ∧
          c.root = x.root ∧ c.graph = x.graph ∧
          (∀ i : Fin 4, h.s[i.val + 1] = ((recIndices r x.n)[i.val]?).getD 0) ∧ h.s[(5 : Nat)] = BitVec.ofNat 64 (recPdst r) ∧
          h.s[(30 : Nat)] = BitVec.ofNat 64 (recStk r) ∧ (∀ q : SReg, q = 0 ∨ (5 < q.val ∧ q.val ≠ 30) → h.s[q] = 0) ∧
          (∀ q : Tok, h.tk[q] = ⟨0, 0⟩) ∧ h.fcr = .rne ∧ h.xst = 0 ∧ (∀ q : Fin 5, h.xi[q] = BitVec.allOnes 64) ∧ h.vl = 0 ∧
          h.vcfg = 0 ∧ h.vcap = recVcap r ∧ h.fm = BitVec.allOnes 8192 ∧ h.frags = [] ∧ h.ports = x.ports ∧ h.hst.rchk = true ∧
          h.v = Vector.replicate 32 0 ∧ h.m = Vector.replicate 8 0 ∧ h.hst.prio.val = x.prio % 8 ∧
          (helm = false → old.hst.helm = false → h.hst.split.val = recSplit r) ∧ h.hst.hid.val = k ∧ h.hst.prot = recProt r ∧ h.hst.recl = recRecl r ∧ h.hst.helm = helm ∧ h.supS = old.supS ∧ h.svec = old.svec ∧
          h.lanes = old.lanes ∧
          (x.fault = none → h.pc = BitVec.ofNat 64 ((recW r 0).toNat % 2 ^ 48) ∧ h.hst.mode = false) ∧
          ∀ f, x.fault = some f → h.pc = old.svec ∧ h.hst.mode = true ∧ h.trpc = BitVec.ofNat 64 ((recW r 0).toNat % 2 ^ 48) ∧
            h.trcause = BitVec.ofNat 64 (causeCode f)

/-! ### Traps and returns -/

/-- Nothing of the hart is in flight, in the queue or in a shared unit, and no handler holds a queue frozen. -/
structure Sys2Proof.Claims.Empty (s : State) : Prop where
  quiet : Quiet s
  queue : s.hart.vq = []
  units : (∀ o ∈ s.core.pipe, o.hid ≠ s.cur.hid) ∧ ∀ o ∈ s.core.net, o.hid ≠ s.cur.hid
  thawed : s.hart.queueFrozen = false

/-- R284, R288: the hart after a trap with this record: the saved PC and origin without bits [63:48], the cause word, the mode,
and the PC at the vector; the user bank stays, and the handler sees the supervisor bank. -/
def Sys2Proof.Claims.trapped (s : State) (pc src cause : Word) : Hart :=
  { s.hart with
    trpc := pc % 2 ^ 48, trcause := cause, trfrom := src % 2 ^ 48, trlg := Vector.replicate 8 0
    hst := { s.hart.hst with mode := true }, pc := s.hart.svec, atVector := true, hold := .none, held := false
    lastTransfer := none, asked := false, slot := s.hart.slot + 1, clock := s.hart.clock + 1 }

/-- R284 to R289, R293, R296, R297, R306: what a trap of the issuing word records, `scall` and `break`; a return, with the
queue's head resumed where it stopped; an engine fault; the vector and the watch address; no privileged word runs in user mode.
That `svec` and `swatch` act on the issuing hart alone, that a trap withdraws arrivals at barriers, what a return makes
outstanding again and to what address it goes, and when a lost context or a fault stops it are settled in log entries 26, 70,
72, 96, 74, 75 and 84. -/
def Obligations.TrapsAndReturns : Prop :=
  (∀ (s : State) (c : Cause) (aux : Nat), Empty s → aux < 2 ^ 32 → ∃ p, s.trapHere c aux = { s with
      pkg := p
      hart := trapped s s.hart.pc s.hart.pc
        (BitVec.ofNat 64 (aux * 2 ^ 32 + s.hart.hst.mode.toNat * 2 ^ 8 + causeCode c)) } ∧
    p = { s.pkg with barriers := p.barriers } ∧ ∀ b ∈ p.barriers, s.cur ∉ b.arrived) ∧
  (∀ s : State, Issues s 0 [] → exec .scall s = .next (s.trapHere .scall) ∧ exec .brk s = .next (s.trapHere .brk)) ∧
  (∀ (s : State) (c : Cause) (aux : BitVec 32), c ≠ .lanelost → c ≠ .mirror →
    exec (.trapEntry c aux) s =
      .next (if (s.hart.ctx = none ∧ s.hart.hst.mode = false) ∨ s.hart.stopped = true then s else s.trapHere c aux.toNat)) ∧
  (∀ (s : State) (a : SReg), IssuesPrivileged s [a] →
    let target := s.hart.reg a
    let back (h : Hart) : State := ticks 3 { s with hart := { h with
      hst := { s.hart.hst with mode := false }, held := false, atVector := false, lastTransfer := some s.hart.pc } }
    (s.hart.ctx = none → Quiet s → exec (.sret a) s = .next (back s.hart)) ∧
    ∀ c, s.hart.ctx = some c →
      (c.lost = true → exec (.sret a) s = .next (s.trapHere .illegal)) ∧
      (c.lost = false → s.hart.qf = false → exec (.sret a) s = .next (back { s.hart with pc := target })) ∧
      (c.lost = false → s.hart.qf = true → (s.hart.trcause.getLsbD 15 = false ∨ s.hart.trcause.getLsbD 12 = false ∨ s.hart.trcause.getLsbD 13 = true) → ∀ v rest, s.hart.vq = v :: rest →
        exec (.sret a) s = .next (back { s.hart with
          pc := target, vq := { v with dones := s.hart.trlg.toList.map fun w => w.toNat % 2 ^ 14 } :: rest })) ∧
      (c.lost = false → s.hart.qf = true → s.hart.trcause.getLsbD 15 = true → s.hart.trcause.getLsbD 12 = true →
        s.hart.trcause.getLsbD 13 = false →
        ∀ v rest, s.hart.vq = v :: rest →
        let tk : Tok := ⟨s.hart.trcause.toNat / 2 ^ 16 % 16, Nat.mod_lt _ (by decide)⟩
        exec (.sret a) s = .next (back { s.hart with
          pc := target, tk := s.hart.tk.set tk ⟨s.hart.tk[tk].cnt - 1, s.hart.tk[tk].out + 1⟩
          vq := { v with dones := s.hart.trlg.toList.map fun w => w.toNat % 2 ^ 14 } :: rest
          pendS := s.hart.pendS ++ (match v.op.sdest with
            | some d => if d = 0 then [] else [(false, d, v.id)]
            | none => []) }))) ∧
  (∀ s : State, (s.hart.hst.mode = true ∨ s.hart.ctx = none ∨ (∃ c, s.hart.ctx = some c ∧ c.faults = []) →
      exec .engineFaultDelivery s = .next s) ∧
    ∀ c f fs, s.hart.hst.mode = false → s.hart.ctx = some c → c.faults = f :: fs → Empty s →
      let code := f.cause.toNat % 2 ^ 8
      ∃ p, exec .engineFaultDelivery s = .next { s with
          pkg := p
          hart := { trapped s f.addr s.hart.pc (BitVec.ofNat 64 (f.cause.toNat / 2 ^ 32 * 2 ^ 32 + f.cause.toNat / 2 ^ 16 % 16 * 2 ^ 16
              + 2 ^ 15 + 2 ^ 13 + 2 ^ 12 + if code = 6 ∨ code = 8 ∨ code = 9 then code else 7)) with
            ctx := some { c with faults := fs } } } ∧
        p = { s.pkg with barriers := p.barriers }) ∧
  (∀ (s : State) (d a : SReg), IssuesPrivileged s [a, d] →
    let x := s.hart.reg a
    exec (.svec d a) s = .next (if x.toNat < 2 ^ 48 ∧ x.toNat % 4 = 0 then
      withResult { s with hart := { s.hart with svec := x } } d s.hart.svec 1 else withResult s d 2 1).answered ∧
    exec (.swatch d a) s = .next (withResult { s with hart := { s.hart with watch := x } } d s.hart.watch 1).answered) ∧
  ∀ (s : State) (d a b : SReg), s.hart.hst.mode = false →
    ∀ i ∈ [Instr.sret a, .svec d a, .swatch d a, .subr d a, .subw d a b, .ctxsave d a, .ctxrest d a, .ctxdrop d a, .spool d a b,
      .sring d a b, .xrng d a b, .xrrd d a b, .xctx d a b, .xinv d a b, .xpois d a b, .lrecl d a, .lgive d a, .lspare d a,
      .lmir d a, .lstat d a],
      exec i s = .next (s.trapHere .priv)

/-! ### Words of the supervisor -/

/-- R167, R169, R171, R268, R270, R301, R305 to R307: the words that reach the user bank, the pools, the overflow ring, the
range entries, the translation context, kept translations and the poison bitmap, in supervisor mode; after each the front holds
until the answer comes (R305, R355). (Where the bitmap lies and which bit is whose, and that a pool or ring in use is BUSY: log
entries 12 and 79.) R299, R314, R316, R318, R308: the words of the lanes mark a reclaim, a return, a sparing or a change of
protected mode as pending for the hart they name, and `lstat` shows a lane; the front then holds until the answer comes (R305,
R355). (From `lgive` on nothing starts on the hart that gives its lanes back: log entry 29; it is free once a handler's own
operations there are done: log entry 115.) -/
def Obligations.SupervisorAndLaneWords : Prop :=
  (∀ (d a b : SReg) (s : State), IssuesPrivileged s [a, b, d] →
    let x := s.hart.reg a
    let y := s.hart.reg b
    let out (i : Instr) (t : State) (v : Word) : Prop := exec i s = .next (withResult t d v 1).answered
    -- the user bank: s28 to s31 and the token counters
    (let k := x.toNat
     let r : SReg := ⟨(28 + k) % 32, Nat.mod_lt _ (by decide)⟩
     let t : Tok := ⟨k % 16, Nat.mod_lt _ (by decide)⟩
     (k < 4 → out (.subr d a) s s.hart.s[r] ∧ out (.subw d a b) { s with hart := { s.hart with s := s.hart.s.set r y } } s.hart.s[r]) ∧
     (16 ≤ k → k < 32 → out (.subr d a) s (s.hart.tk[t].cnt.setWidth 64) ∧
       out (.subw d a b) { s with hart := { s.hart with tk := s.hart.tk.set t ⟨y.setWidth 32, s.hart.tk[t].out⟩ } }
         (s.hart.tk[t].cnt.setWidth 64)) ∧
     (4 ≤ k → k < 16 ∨ 32 ≤ k → out (.subr d a) s 2 ∧ out (.subw d a b) s 2)) ∧
    -- spool: base, slots, helm or not, window pages
    (let helm := y.getLsbD 16
     let cw := y.toNat / 2 ^ 17 % 2 ^ 7
     let fits := x.toNat % 64 = 0 ∧ y.toNat < 2 ^ 24 ∧ cw ≤ if helm then 16 else 96
     let busy := ∃ v ∈ s.die.saved, v.slot ≠ none ∧ (v.lanes = 0 ↔ helm = true)
     let p : Option Pool := some ⟨x.toNat, y.toNat % 2 ^ 16, cw⟩
     (¬fits → out (.spool d a b) s 2) ∧ (fits → busy → out (.spool d a b) s 1) ∧
     (fits → ¬busy → out (.spool d a b) { s with die := { s.die with
       pool := if helm then s.die.pool else p, helmPool := if helm then p else s.die.helmPool, poolUser := s.hart.xlat } } 0)) ∧
    -- sring: base and a power of two of slots
    (let fits := x.toNat % 64 = 0 ∧ ∃ e, e ≤ 16 ∧ y.toNat = 2 ^ e
     (¬fits → out (.sring d a b) s 2) ∧ (fits → s.die.ring ≠ [] → out (.sring d a b) s 1) ∧
     (fits → s.die.ring = [] → out (.sring d a b) { s with die := { s.die with
       ringBase := x.toNat, ringSlots := y.toNat, ringHead := 0, ringUser := s.hart.xlat } } 0)) ∧
    -- xrng, xrrd
    (let at' := x.toNat
     let k := y.toNat
     let w (j : Nat) : Word := ownWord s (at' + 8 * j) 8
     let bad := ∃ j < 4, ownPoison s (at' / 8 + j)
     let stored (c : Core) : State := { s with core := c, hart := { s.hart with stores := [] } }
     let inChart := at' % 8 = 0 ∧ at' + 32 ≤ if s.hart.hst.helm then 0x10000 else 0x60000
     let page (v : Word) : Prop := v.toNat % 4096 = 0 ∧ v.toNat < 2 ^ 48
     let fits := k < 512 ∧ page (w 0) ∧ page (w 1) ∧ page (w 2) ∧ (w 3).toNat / 2 ^ 16 % 2 ^ 40 = 0 ∧ (w 3).toNat / 32 % 8 = 0
     (¬inChart → exec (.xrng d a b) s = .next (s.trapHere .chart)) ∧
     (inChart → bad → exec (.xrng d a b) s = .next ((s.countPsn s.cur).trapHere .poison)) ∧
     (inChart → ¬bad → s.hart.loads = [] → s.core.chart.wf = true →
       (¬fits → ∃ c, out (.xrng d a b) (stored c) 2 ∧ storesDone s (stored c)) ∧
       (fits → ∃ rs c, out (.xrng d a b) { stored c with die := { s.die with ranges := rs } } (s.die.range k).attr ∧
         storesDone s (stored c) ∧ c = { s.core with chart := c.chart, chartPoison := c.chartPoison } ∧
         ({ s.die with ranges := rs } : Die).range k = ⟨w 0, w 1, w 2, w 3⟩ ∧
         ∀ j, j ≠ k → ({ s.die with ranges := rs } : Die).range j = s.die.range j)) ∧
     (let r := s.die.range x.toNat
      out (.xrrd d a b) s (if 512 ≤ x.toNat ∨ 4 ≤ k then 2 else if k = 0 then r.base else if k = 1 then r.limit
        else if k = 2 then r.off else r.attr))) ∧
    -- xctx
    (s.hart.ctx = none → out (.xctx d a b) s 2) ∧
    (∀ c, s.hart.ctx = some c →
      let fits := x.toNat ≤ 254 ∧ y.toNat % 4096 = 0 ∧
        (y.toNat < 0x8000000000 ∨ (0x10000000000 ≤ y.toNat ∧ y.toNat < 0x10400000000))
      (¬fits → out (.xctx d a b) s 2) ∧
      (fits → out (.xctx d a b) { s with hart := { s.hart with ctx := some { c with tctx := x.toNat, root := y.toNat } } }
        (BitVec.ofNat 64 c.tctx))) ∧
    -- xinv
    (let num := x.toNat % 256
     let page := y.toNat / 4096 * 4096
     let keeps (t : Tr) : Bool :=
       !(decide (num = 255 ∨ num = t.ctx) && (y.getLsbD 0 || decide (t.lo < page + 4096 ∧ page < t.hi)))
     ∃ t, out (.xinv d a b) t 0 ∧ t.pkg = s.pkg ∧ t.die = s.die ∧ t.hart = { s.hart with ports := t.hart.ports } ∧
       (∀ p : Port, t.hart.ports[p] = { s.hart.ports[p] with tr := s.hart.ports[p].tr.filter keeps }) ∧
       (∀ k : Chan, t.core.chans[k] = { s.core.chans[k] with q := s.core.chans[k].q.map fun c =>
         { c with srcTr := c.srcTr.filter keeps, dstTr := c.dstTr.filter keeps } }) ∧
       t.quad.passes = s.quad.passes.map fun p => { p with trs := p.trs.map (Option.filter keeps) }) ∧
    -- xpois
    (let pa := x.toNat
     let fits := (pa < 0x8000000000 ∨ (0x10000000000 ≤ pa ∧ pa < 0x10400000000)) ∧ y.toNat ≤ 1
     (¬fits → out (.xpois d a b) s 2) ∧
     (fits → s.pkg.mem.wf = true → ∃ m, out (.xpois d a b) { s with pkg := { s.pkg with mem := m } }
         (truth (s.pkg.poisoned (pa / 4096) = true)) ∧ m.wf = true ∧
       (∀ q, q ≠ s.pkg.poisonByte (pa / 4096) → m.read q = s.pkg.mem.read q) ∧
       ∀ f, f < 2 ^ 27 ∨ (2 ^ 28 ≤ f ∧ f < 2 ^ 28 + 2 ^ 22) → ({ s.pkg with mem := m } : Pkg).poisoned f =
         if f = pa / 4096 then s.pkg.bulkReady && decide (y = 1) else s.pkg.poisoned f))) ∧
  (∀ (d a : SReg) (s : State), s.hart.hst.mode = true → s.useMask.getLsbD 23 = true → Free s [a, d] →
    let x := s.hart.reg a
    let at' : HartId := { s.cur with hid := x.toNat % 8 }
    (x.getLsbD 8 = true → (s.getHart at').lanes ≤ 4 → exec (.lmir d a) s = .next (withResult s d 2 1).answered) ∧
    (x.getLsbD 8 = false ∨ 4 < (s.getHart at').lanes → exec (.lmir d a) s = .next
      (withResult (s.putHart at' { s.getHart at' with mirrorPend := some (x.getLsbD 8) }) d 0 1).answered)) ∧
  ∀ (d a : SReg) (s : State), IssuesPrivileged s [a, d] →
    let x := s.hart.reg a
    let out (i : Instr) (t : State) (v : Word) : Prop := exec i s = .next (withResult t d v 1).answered
    let at' (k : Nat) : HartId := { s.cur with hid := k }
    let h := s.getHart (at' (x.toNat % 8))
    let puts (h' : Hart) : State := s.putHart (at' (x.toNat % 8)) h'
    -- lrecl
    (let may := h.hst.recl = true ∧ h.hst.helm = false ∧ (if h.hst.prot then 16 else 8) ≤ h.lanes
     let busy := h.reclPend = true ∨ ∀ k < 8, (s.getHart (at' k)).lanes ≠ 0
     (¬may → out (.lrecl d a) s 2) ∧ (may → busy → out (.lrecl d a) s 1) ∧
     (may → ¬busy → out (.lrecl d a) (puts { h with reclPend := true }) 0)) ∧
    -- lgive
    (h.gave = [] → out (.lgive d a) s 2) ∧
    (∀ g more, h.gave = g :: more →
      let o := s.getHart (at' g)
      let may := o.ctx = none ∧ o.hst.mode = false ∧ s.ownDone (at' g) = true ∧ o.lanes = h.lanes
      (¬may → out (.lgive d a) s 1) ∧ (may →
        let t := puts { h with givePend := true }
        out (.lgive d a) (t.putHart (at' g) { t.getHart (at' g) with leaving := true }) 0)) ∧
    -- lspare, lstat
    (let lane := x.toNat % 32
     let owns (k : Nat) : Prop := k < 8 ∧ (s.getHart (at' k)).lane0 ≤ lane ∧ lane < (s.getHart (at' k)).lane0 + (s.getHart (at' k)).lanes
     (s.core.spare ≠ none ∨ s.core.sparePend ≠ none → out (.lspare d a) s 1) ∧
     (s.core.spare = none → s.core.sparePend = none →
       ((∃ k, owns k) → out (.lspare d a) { s with core := { s.core with sparePend := some lane } } 0) ∧
       ((∀ k, ¬owns k) → s.pkg.mem.wf = true → ∃ p, out (.lspare d a)
          { s with pkg := p, core := { s.core with spare := some lane, sparePend := none } } 0 ∧
         p = { s.pkg with mem := p.mem } ∧
         let at' := capAddr s.cur.die s.cur.quad s.cur.core 3
         p.mem.word at' = BitVec.ofNat 64 ((s.pkg.mem.word at').toNat / 256 % 256 * 256 + 128 + lane) ∧
         ∀ q, q < at' ∨ at' + 8 ≤ q → p.mem.read q = s.pkg.mem.read q)) ∧
     let lost := (s.core.unwritten.any fun w => decide (w.1 = lane)) || s.core.faulty.getLsbD lane
     let bits (mirror free : Bool) (owner : Nat) : Word :=
       BitVec.ofNat 64 (128 * (decide (s.core.spare = some lane)).toNat + 64 * lost.toNat + 32 * mirror.toNat +
         4 * owner + 2 * free.toNat)
     ((∀ k, ¬owns k) → out (.lstat d a) s (bits false true 0)) ∧
     ∀ k, owns k → (∀ j < k, ¬owns j) →
       let h := s.getHart (at' k)
       out (.lstat d a) s (bits (h.hst.prot && decide (h.lane0 + h.lanes / 2 ≤ lane)) (decide (h.ctx = none ∧ h.hst.mode = false)) k))

/-! ### Saved contexts -/

/-- R302, R96: mask number q of an area, counted after the 32 vector registers, holds in the slices of its first n lanes the bits of a
mask: bit j of lane l's slice is position j × Leff + (l mod Leff). -/
def Sys2Proof.Claims.MaskAt (m : Mem) (v : Saved) (lanes leff n q : Nat) (x : MBits) : Prop :=
  ∀ l < n, ∀ j < 256, (v.word m (0x800 + 32 * lanes * (32 + q) + 32 * l + 8 * (j / 64))).getLsbD (j % 64) =
    x.getLsbD (j * leff + l % leff)

/-- R302: word k of the identity block of an area. -/
def Sys2Proof.Claims.identWord (m : Mem) (v : Saved) (helm : Bool) (k : Nat) : Word :=
  v.word m ((if helm then 0x20800 else 0xCC00) + 8 * k)

/-- R302: word k of the Chart window of an area. -/
def Sys2Proof.Claims.windowWord (m : Mem) (v : Saved) (helm : Bool) (k : Nat) : Word :=
  v.word m ((if helm then 0x20900 else 0xCD00) + 8 * k)

/-- R284, R302: the record of a hart's trap as a save area holds it. -/
def Sys2Proof.Claims.RecordAt (m : Mem) (v : Saved) (h : Hart) : Prop :=
  v.word m 0x10 = h.trpc ∧ v.word m 0x18 = h.trcause ∧ v.word m 0x20 = h.trfrom ∧
  ∀ k : Fin 8, v.word m (0x28 + 8 * k.val) = h.trlg[k]

/-- R302, R303: at these offsets a save area holds a hart's context, the address at which it goes on, what of its queue is saved, the
identity of the context and its Chart window. -/
def Sys2Proof.Claims.ImageOf (m : Mem) (v : Saved) (s : State) (c : Ctx) (rpc : Word) (qf : Bool) : Prop :=
  let h := s.hart
  let helm := h.hst.helm
  let quad := s.quad
  v.word m 0 = BitVec.ofNat 64 ((if helm then 0 else h.lanes) * 2 ^ 48 + min h.vq.length 32 * 2 ^ 40 + helm.toNat * 2 ^ 15 +
    qf.toNat * 2 ^ 14 + c.lost.toNat * 2 ^ 13 + 1) ∧
  v.word m 0x08 = rpc ∧ v.word m 0x68 = BitVec.ofNat 64 h.fcr.code ∧ v.word m 0x70 = h.xst.setWidth 64 ∧
  (∀ k : Fin 5, v.word m (0x78 + 8 * k.val) = h.xi[k]) ∧ v.word m 0xA0 = h.hst.word ∧ v.word m 0xA8 = BitVec.ofNat 64 h.vl ∧
  v.word m 0xB0 = h.vcfg.setWidth 64 ∧ v.word m 0xB8 = BitVec.ofNat 64 h.vcap ∧
  (∀ r : SReg, v.word m (0xC0 + 8 * r.val) = if r = 0 then 0 else h.s[r]) ∧
  (∀ k : Tok, v.word m (0x1C0 + 8 * k.val) = BitVec.ofNat 64 (h.tk[k].cnt.toNat + h.tk[k].out % 128 * 2 ^ 32)) ∧
  -- ports, fragment buffer, queue
  (∀ p : Port, let w (j : Nat) : Word := v.word m (0x240 + 32 * p.val + 8 * j)
    let x := h.ports[p]
    if x.bound then w 0 = x.handle ∧ w 1 = x.layout ∧ w 2 = BitVec.ofNat 64 x.pos ∧ w 3 = x.status else ∀ j < 4, w j = 0) ∧
  (∀ k < 4, let w (j : Nat) : Word := v.word m (0x340 + 16 * k + 8 * j)
    match h.frags[k]? with
    | some f => w 0 = f.resume ∧ w 1 = if f.waiting then 2 else 1
    | none => w 0 = 0 ∧ w 1 = 0) ∧
  (∀ k < 32, let w (j : Nat) : Word := v.word m (0x380 + 32 * k + 8 * j)
    match h.vq[k]? with
    | some x => w 0 = x.word.setWidth 64 ∧ w 1 = x.addr ∧ w 3 = (x.sv[0]?).getD 0 ∧
        w 2 = BitVec.ofNat 64 (x.vl % 2 ^ 14 + x.vcfg.toNat * 2 ^ 14 + x.cap % 2 ^ 14 * 2 ^ 23 + x.rm.code * 2 ^ 37)
    | none => ∀ j < 4, w j = 0) ∧
  -- matrix state
  (∀ k < 16, v.word m (0x780 + 8 * k) = if helm = false then 0
    else if k = 0 then BitVec.ofNat 64 (quad.mxcV.toNat * 2 ^ 15 + quad.bfmt.toNat * 2 ^ 8 + quad.afmt.toNat)
    else if k = 1 then BitVec.ofNat 64 (quad.mg + quad.ng * 2 ^ 8 + quad.kg * 2 ^ 16)
    else if k = 2 then quad.ten.setWidth 64 else 0) ∧
  (helm = true → ∀ t < 8, quad.ten.getLsbD t = true → ∀ k < 2048,
    v.word m (0x800 + t * 0x4000 + 8 * k) = quad.tiles.word (t * 0x4000 + 8 * k)) ∧
  -- registers, masks, FM, the masks of the fragment buffer
  (helm = false →
    (∀ r : VReg, ∀ j < 4 * h.lanes,
      v.word m (0x800 + 32 * h.lanes * r.val + 8 * j) = BitVec.ofNat 64 (h.v[r].toNat / 2 ^ (64 * j) % 2 ^ 64)) ∧
    (0 < h.leff → (h.hst.prot = true → h.lanes % 2 = 0) →
      let at' := MaskAt m v h.lanes h.leff h.lanes
      (∀ k : MReg, at' k.val h.m[k]) ∧ at' 8 h.fm ∧
      ∀ k < 4, at' (9 + k) (((h.frags[k]?).map Frag.mask).getD 0) ∧ at' (13 + k) (((h.frags[k]?).map Frag.restore).getD 0))) ∧
  -- identity
  (let w := identWord m v helm
   w 0 = c.use ∧ w 1 = c.scope ∧ w 2 = BitVec.ofNat 64 c.iter ∧ w 3 = BitVec.ofNat 64 (s.cur.die * 2 ^ 8 + c.tctx) ∧
   w 4 = BitVec.ofNat 64 c.root ∧ w 5 = BitVec.ofNat 64 (c.cwLen * 2 ^ 48 + c.cwBase * 2 ^ 32) ∧
   w 6 = (match c.graph with
     | some g => BitVec.ofNat 64 (g.node * 2 ^ 48 + g.area.toNat)
     | none => 0) ∧
   w 7 = BitVec.ofNat 64 (s.cur.quad * 2 ^ 8 + s.cur.core) ∧
   w 8 = BitVec.ofNat 64 (min c.lostFaults (2 ^ 32 - 1) * 2 ^ 32 + c.faults.length) ∧
   (∀ k < 8, match c.faults[k]? with
     | some f => w (9 + 2 * k) = f.addr ∧ w (10 + 2 * k) = f.cause
     | none => w (9 + 2 * k) = 0 ∧ w (10 + 2 * k) = 0) ∧
   ∀ k < 32, 25 ≤ k → w k = 0) ∧
  ∀ k < c.cwLen * 512, windowWord m v helm k = s.core.chart.word (c.cwBase * 4096 + 8 * k)

/-- R302, R303, R306: what a hart, its core and, of a helm core, its quad take back from a save area. -/
def Sys2Proof.Claims.TakenFrom (s : State) (v : Saved) (t : State) : Prop :=
  let m := s.pkg.mem
  let h := t.hart
  let helm := s.hart.hst.helm
  let w (o : Nat) : Word := v.word m o
  let lanes := h.lanes
  let leff := h.leff
  (∀ r : SReg, h.s[r] = if r = 0 then 0 else w (0xC0 + 8 * r.val)) ∧ h.fcr.code = (w 0x68).toNat % 4 ∧
  h.vl = (w 0xA8).toNat % 2 ^ 14 ∧ h.vcfg = (w 0xB0).setWidth 9 ∧ h.vcap = (w 0xB8).toNat % 2 ^ 14 ∧
  h.xst = (w 0x70).setWidth 5 ∧ (∀ k : Fin 5, h.xi[k] = w (0x78 + 8 * k.val)) ∧
  h.hst.prio.val = (w 0xA0).toNat / 2 ^ 10 % 8 ∧ h.hst.recl = (w 0xA0).getLsbD 8 ∧ h.hst.prot = (w 0xA0).getLsbD 7 ∧
  h.hst.rchk = (w 0xA0).getLsbD 6 ∧ h.hst.helm = helm ∧ lanes = s.hart.lanes ∧
  -- ports, queue
  (∀ p : Port, let w (j : Nat) : Word := v.word m (0x240 + 32 * p.val + 8 * j)
    h.ports[p] = if (w 3).getLsbD 63 then
      ⟨true, w 0, w 1, (w 2).toNat, (w 3).getLsbD 61, (w 3).getLsbD 60, (w 3).toNat % 2 ^ 14, none⟩ else PortSt.unbound) ∧
  (let n := if helm then 0 else min 32 ((w 0).toNat / 2 ^ 40 % 2 ^ 8)
   let q (k j : Nat) : Word := w (0x380 + 32 * k + 8 * j)
   (∀ k < n, ∃ op, entryOp ((q k 0).toNat % 2 ^ 32) = some op) → h.vq.length = n ∧
     ∀ k < n, ∃ x, h.vq[k]? = some x ∧ entryOp ((q k 0).toNat % 2 ^ 32) = some x.op ∧ x.word.toNat = (q k 0).toNat % 2 ^ 32 ∧
       x.tok = entryToken ((q k 0).toNat % 2 ^ 32) ∧ x.addr = q k 1 ∧ x.vl = (q k 2).toNat % 2 ^ 14 ∧
       x.vcfg.toNat = (q k 2).toNat / 2 ^ 14 % 2 ^ 9 ∧ x.cap = (q k 2).toNat / 2 ^ 23 % 2 ^ 14 ∧
       x.rm.code = (q k 2).toNat / 2 ^ 37 % 4 ∧ x.sv[0]? = some (q k 3) ∧ x.sup = false) ∧
  -- registers, masks, FM, fragment buffer
  (helm = false → lanes ≤ 32 →
    (∀ r : VReg, (∀ j < 4 * lanes, BitVec.ofNat 64 (h.v[r].toNat / 2 ^ (64 * j) % 2 ^ 64) = w (0x800 + 32 * lanes * r.val + 8 * j)) ∧
      h.v[r].toNat < 2 ^ (256 * lanes)) ∧
    (0 < leff →
      let at' (q : Nat) (x : MBits) : Prop := MaskAt m v lanes leff leff q x ∧ x.toNat < 2 ^ (256 * leff)
      let used := (List.range 4).filter fun k => decide ((w (0x348 + 16 * k)).toNat % 4 ≠ 0)
      (∀ k : MReg, at' k.val h.m[k]) ∧ at' 8 h.fm ∧ h.frags.length = used.length ∧
      ∀ (i k : Nat) (f : Frag), used[i]? = some k → h.frags[i]? = some f → f.resume = w (0x340 + 16 * k) ∧
        (f.waiting = true ↔ (w (0x348 + 16 * k)).toNat % 4 = 2) ∧ at' (9 + k) f.mask ∧ at' (13 + k) f.restore)) ∧
  -- matrix state
  (helm = true → s.quad.tiles.wf = true →
    let q := t.quad
    q.ten = (w 0x790).setWidth 8 ∧ q.mxcV = (w 0x780).getLsbD 15 ∧ q.bfmt.toNat = (w 0x780).toNat / 2 ^ 8 % 32 ∧
    q.afmt.toNat = (w 0x780).toNat % 32 ∧ q.mg = (w 0x788).toNat % 2 ^ 7 ∧ q.ng = (w 0x788).toNat / 2 ^ 8 % 2 ^ 7 ∧
    q.kg = (w 0x788).toNat / 2 ^ 16 % 2 ^ 12 ∧
    ∀ a < 8, ∀ k < 2048, q.tiles.word (a * 0x4000 + 8 * k) =
      if (w 0x790).getLsbD a then w (0x800 + a * 0x4000 + 8 * k) else s.quad.tiles.word (a * 0x4000 + 8 * k)) ∧
  -- identity and Chart window
  ∃ c, h.ctx = some c ∧
    let w := identWord m v helm
    let base := (w 5).toNat / 2 ^ 32 % 2 ^ 8 * 4096
    let len := (w 5).toNat / 2 ^ 48 % 2 ^ 8 * 4096
    c.use = w 0 ∧ c.scope = w 1 ∧ c.iter = (w 2).toNat ∧ c.tctx = (w 3).toNat % 256 ∧ c.root = (w 4).toNat ∧
    4096 * c.cwBase = base ∧ 4096 * c.cwLen = len ∧ (w 6 = 0 → c.graph = none) ∧
    (w 6 ≠ 0 → ∃ g, c.graph = some g ∧ g.node = (w 6).toNat / 2 ^ 48 ∧ g.area.toNat = (w 6).toNat % 2 ^ 48) ∧
    c.faults.map (fun f => (f.addr, f.cause)) =
      (List.range (min 8 ((w 8).toNat % 2 ^ 4))).map (fun k => (w (9 + 2 * k), w (10 + 2 * k))) ∧
    c.lostFaults = (w 8).toNat / 2 ^ 32 ∧ c.lost = (v.word m 0).getLsbD 13 ∧
    (s.core.chart.wf = true → (∀ k < len / 8, t.core.chart.word (base + 8 * k) = windowWord m v helm k) ∧
      ∀ a, a < base ∨ base + len ≤ a → t.core.chart.read a = s.core.chart.read a)

/-- R284, R302: the record of its trap that a hart takes back, in the bits that are not held zero. -/
def Sys2Proof.Claims.RecordFrom (m : Mem) (v : Saved) (h : Hart) : Prop :=
  h.trpc = v.word m 0x10 % 2 ^ 48 ∧ h.trcause = v.word m 0x18 &&& 0xFFFFFFFF000FF1FF ∧ h.trfrom = v.word m 0x20 % 2 ^ 48 ∧
  ∀ k : Fin 8, h.trlg[k] = v.word m (0x28 + 8 * k.val) &&& 0x3FFF

/-- R302: the counters and outstanding counts of a save area. -/
def Sys2Proof.Claims.TokensFrom (m : Mem) (v : Saved) (h : Hart) : Prop :=
  ∀ k : Tok, h.tk[k] = ⟨(v.word m (0x1C0 + 8 * k.val)).setWidth 32, (v.word m (0x1C0 + 8 * k.val)).toNat / 2 ^ 32 % 2 ^ 7⟩

/-- The pages of an area lie apart. -/
def Sys2Proof.Claims.PagesApart (pages : List Nat) : Prop := pages.Nodup ∧ ∀ p ∈ pages, p % 4096 = 0

/-- R265, R266, R298, R301 to R303, R306: `ctxsave`, `ctxrest` and `ctxdrop`; the Plotter's full save of a context that is to be
saved into a free slot of its pool, and its restore on a hart that takes it. A context saved while its scope is cancelled ends at
once. That a `ctxdrop` of an area which holds no context answers INVAL is the model's choice (log entry 79, DEDUCED): R306 gives it no
status. (Where a saved context goes on and that `ctxrest` waits for the handler's own queue, the record a full save writes, what an area
keeps of queue entries, and what a return makes outstanding again: log entries 62, 63, 64 and 72.) -/
def Obligations.ContextsAreSavedAndRestored : Prop :=
  (∀ (d a : SReg) (s : State), IssuesPrivileged s [a, d] →
    let x := s.hart.reg a
    let me : Xl := ⟨s.cur.die, s.hart.xlat.1, s.hart.xlat.2, false⟩
    let out (i : Instr) (t : State) (v : Word) : Prop := exec i s = .next (withResult t d v 1).answered
    let cancelled (k : Word) : Prop := s.pkg.scopeState k = some .cancelling ∨ s.pkg.scopeState k = some .cancelled
    -- ctxsave
    (s.hart.ctx = none → out (.ctxsave d a) s 2) ∧
    (∀ c, s.hart.ctx = some c →
      let bytes := (if s.hart.hst.helm then 0x20900 else 0xCD00) + c.cwLen * 4096
      (s.areaPages me x bytes true = none → exec (.ctxsave d a) s = .next (s.trapHere .beacon)) ∧
      ∀ off pages, s.areaPages me x bytes true = some (off, pages) →
        (s.unitsQuiet = false ∨ (s.hart.qf = false ∧ s.hart.vq ≠ []) → exec (.ctxsave d a) s = .next s.hold) ∧
        (s.unitsQuiet = true → (s.hart.qf = true ∨ s.hart.vq = []) → Quiet s → PagesApart pages → s.pkg.mem.wf = true →
          s.hart.lanes ≤ 32 →
          (cancelled c.scope → ∃ t, out (.ctxsave d a) t 0 ∧ t.hart.ctx = none ∧ ∀ w ∈ t.die.saved, w.ctx.id ≠ c.id) ∧
          (¬cancelled c.scope → ∃ t v, out (.ctxsave d a) t 0 ∧ t.die.saved = (s.die.saved.filter fun w => !decide (w.areaOff = off ∧ w.pages = pages)) ++ [v] ∧
            v.areaOff = off ∧ v.pages = pages ∧ v.slot = none ∧ v.queued = false ∧ v.ctx = c ∧ v.prio = s.hart.hst.prio.val ∧
            v.lanes = (if s.hart.hst.helm then 0 else s.hart.lanes) ∧ v.origin = s.cur ∧
            ImageOf t.pkg.mem v s c (if s.hart.trcause.getLsbD 12 then s.hart.trfrom else s.hart.trpc) s.hart.qf ∧ RecordAt t.pkg.mem v s.hart ∧
            t.hart.ctx = none ∧ (∀ x ∈ t.hart.vq, x.sup = true) ∧ t.hart.hst = s.hart.hst ∧ t.hart.supS = s.hart.supS ∧
            ∀ p : Port, t.hart.ports[p] = PortSt.unbound))) ∧
    -- ctxrest
    (s.areaAt x = none → exec (.ctxrest d a) s = .next (s.trapHere .beacon) ∧ exec (.ctxdrop d a) s = .next (s.trapHere .beacon)) ∧
    ∀ v, s.areaAt x = some v →
      let m := s.pkg.mem
      let helm := (v.word m 0).getLsbD 15
      let w := identWord m v helm
      let inval : Prop := s.hart.ctx ≠ none ∨ helm ≠ s.hart.hst.helm ∨
        (helm = false ∧ (v.word m 0).toNat / 2 ^ 48 % 2 ^ 8 ≠ s.hart.lanes) ∨ (w 3).toNat / 2 ^ 8 % 4 ≠ s.cur.die ∨
        w 0 &&& ~~~(s.pkg.capOf s.cur) ≠ 0 ∨
        (if helm then 16 else 96) < (w 5).toNat / 2 ^ 32 % 2 ^ 8 + (w 5).toNat / 2 ^ 48 % 2 ^ 8
      (inval → out (.ctxrest d a) s 2) ∧
      (¬inval → s.queueQuiet = false → exec (.ctxrest d a) s = .next s.hold) ∧
      (¬inval → s.queueQuiet = true → Quiet s → ∃ t : State, exec (.ctxrest d a) s = .next ((t.writeReg d 0 1).answered) ∧
        TakenFrom s v t ∧ RecordFrom m v t.hart ∧ TokensFrom m v t.hart ∧
        t.hart.hst.mode = true ∧ t.hart.supS = s.hart.supS ∧ t.hart.pc = s.hart.pc ∧
        (∀ w ∈ t.die.saved, ¬(w.areaOff = v.areaOff ∧ w.pages = v.pages))) ∧
      -- ctxdrop
      (∀ die w, s.savedAt v = some (die, w) → ∃ t, out (.ctxdrop d a) t 0 ∧
        (∀ y ∈ (t.getDie die).saved, y.ctx.id ≠ w.ctx.id) ∧ t.hart = s.hart ∧
        (w.ctx.scope ≠ 0 →
          (t.pkg.counts w.ctx.scope).kt = min ((s.pkg.counts w.ctx.scope).kt + 1) (2 ^ 32 - 1))) ∧
      (s.savedAt v = none → (v.word s.pkg.mem 0).toNat % 256 ≠ 1 → out (.ctxdrop d a) s 2)) ∧
  (∀ s : State, s.hart.savePend = false ∨ s.hart.ctx = none ∨ s.hart.hst.mode = true → exec .fullSave s = .next s) ∧
  (∀ (s : State) (c : Ctx), s.hart.ctx = some c → s.hart.savePend = true → s.hart.hst.mode = false → Empty s → s.hart.bops = [] → s.hart.late = [] →
    (∀ o ∈ s.core.divider, o.hid ≠ s.cur.hid) → (s.hart.hst.helm = true → s.quad.mops = []) →
    let helm := s.hart.hst.helm
    let bytes := (if helm then 0x20900 else 0xCD00) + c.cwLen * 4096
    (s.die.freeSlot helm c.cwLen = none → exec .fullSave s = .next s) ∧
    ∀ slot va off pages, s.die.freeSlot helm c.cwLen = some (slot, va) →
      s.areaPages ⟨s.cur.die, s.die.poolUser.1, s.die.poolUser.2, false⟩ (BitVec.ofNat 64 va) bytes true = some (off, pages) →
      PagesApart pages → s.pkg.mem.wf = true → s.hart.lanes ≤ 32 →
      s.pkg.scopeState c.scope ≠ some .cancelling → s.pkg.scopeState c.scope ≠ some .cancelled →
      ∃ t v, exec .fullSave s = .next t ∧ v ∈ t.die.saved ∧ v.areaOff = off ∧ v.pages = pages ∧ v.slot = some slot ∧
        v.queued = true ∧ v.ctx = c ∧ v.prio = s.hart.hst.prio.val ∧ v.lanes = (if helm then 0 else s.hart.lanes) ∧
        v.origin = s.cur ∧ ImageOf t.pkg.mem v s c s.hart.pc false ∧ (v.word t.pkg.mem 0x18).toNat % 256 = 0 ∧
        t.hart.ctx = none ∧ t.hart.hst.mode = false ∧ t.hart.savePend = false) ∧
  ∀ (s : State) (k : Nat), (s.die.saved[k]? = none → exec (.contextRestore k) s = .next s) ∧
    ∀ v, s.die.saved[k]? = some v →
      (s.restorable v s.cur = false → exec (.contextRestore k) s = .next s) ∧
      (s.restorable v s.cur = true → s.nextSaved s.cur.die = some v → s.nextRec s.cur.die = none →
        v.lanes = (if s.hart.hst.helm then 0 else s.hart.lanes) →
        let record := v.word s.pkg.mem 0x18
        ∃ t, exec (.contextRestore k) s = .next t ∧ TakenFrom s v t ∧ t.hart.hst.mode = false ∧
          (record.getLsbD 14 = false ∨ record.getLsbD 15 = false ∨ record.getLsbD 12 = false ∨ record.getLsbD 13 = true → TokensFrom s.pkg.mem v t.hart) ∧
          t.hart.pc = v.word s.pkg.mem 8 ∧ (∀ w ∈ t.die.saved, ¬(w.areaOff = v.areaOff ∧ w.pages = v.pages)))

/-! ### Collectives -/

/-- R332: the status word of a collective. -/
def Sys2Proof.Claims.ringStatus (code flags : Nat) (fail : Option Nat) (step n : Nat) : Word :=
  BitVec.ofNat 64 (code * 2 ^ 56 + flags * 2 ^ 48 + (match fail with
    | some k => 2 ^ 42 + k % 1024 * 2 ^ 32
    | none => 0) + step % 2 ^ 16 * 2 ^ 16 + n % 2 ^ 16)

/-- n words at a DVA that an instruction may read: a multiple of 64, every word at an address of a beacon, none poisoned. -/
def Sys2Proof.Claims.AreaHolds (s : State) (va : Word) (ws : List Word) : Prop :=
  va.toNat % 64 = 0 ∧ ∀ (k : Nat) (w : Word), ws[k]? = some w →
    ∃ pa, s.blockAddr ⟨s.cur.die, s.hart.xlat.1, s.hart.xlat.2, !s.hart.hst.mode⟩ (va + BitVec.ofNat 64 (8 * k)) false = some pa ∧
      s.pkg.beaconPoison.contains (pa / 8) = false ∧ w = s.pkg.mem.word pa

/-- The trap of n words at a DVA that may not be read: BEACON where the address or a translation is at fault, else POISON. -/
def Sys2Proof.Claims.AreaTraps (s : State) (va : Word) (n : Nat) (c : Cause) : Prop :=
  let pa (k : Nat) : Option Nat :=
    s.blockAddr ⟨s.cur.die, s.hart.xlat.1, s.hart.xlat.2, !s.hart.hst.mode⟩ (va + BitVec.ofNat 64 (8 * k)) false
  (va.toNat % 64 ≠ 0 ∨ ∃ k < n, pa k = none) ∧ c = .beacon ∨
  va.toNat % 64 = 0 ∧ (∀ k < n, (pa k).isSome = true) ∧ (∃ k < n, ∃ p, pa k = some p ∧ s.pkg.beaconPoison.contains (p / 8) = true) ∧
    c = .poison

/-- R331: the group record that lies at a DVA, with its GEN and its members. -/
def Sys2Proof.Claims.GroupAt (s : State) (va : Word) (gen : Nat) (members : BitVec 1024) : Prop :=
  ∃ ws, ws.length = 17 ∧ AreaHolds s va ws ∧ gen = (ws.getD 0 0).toNat / 2 ^ 48 ∧
    ∀ i < 1024, members.getLsbD i = (ws.getD (1 + i / 64) 0).getLsbD (i % 64)

/-- R335: the conditions under which `callr` answers INVAL. -/
def Sys2Proof.Claims.CallInvalid (p : Pkg) (W : Nat → Word) (gen : Nat) (members : BitVec 1024) (i o : RunD) : Prop :=
  let comb := (W 3).toNat % 16
  16 ≤ (W 3).toNat ∨ W 5 ≠ 0 ∨ W 6 ≠ 0 ∨ W 7 ≠ 0 ∨
  i.state ≠ .sealed ∨ o.state = .sealed ∨ o.state = .broken ∨ o.state = .view ∨ (o.state = .alloc ∧ o.mark ≠ 0) ∨
  i.wlog ≠ o.wlog ∨ ¬((comb = 1 ∧ i.wlog ≤ 6) ∨ (comb = 3 ∧ i.wlog = 2) ∨ ((comb = 4 ∨ comb = 5 ∨ comb = 6) ∧ i.wlog = 3)) ∨
  o.cap.toNat < i.mark.toNat ∨ ∀ r ∈ p.rings, ¬(r.group = W 0 ∧ r.gen = gen ∧ r.members = members)

/-- R327, R331 to R335: `cid`, `lkstat`, `cabort`, `cform` and `callr`; after a word that does not wait for other packages the front
holds until the answer comes (R332, R355). (RATIO of `lkstat` is open, log entry 1; how group records
are checked, the order of `callr`'s checks, the writer fields of an output, what `cabort` and the status fields hold: log entries
40, 42, 33, 41 and 43.) -/
def Obligations.CollectiveWords : Prop :=
  ∀ (d a b : SReg) (s : State), Issues s 22 [a, b, d] →
    let x := s.hart.reg a
    let y := s.hart.reg b
    let me : Xl := ⟨s.cur.die, s.hart.xlat.1, s.hart.xlat.2, !s.hart.hst.mode⟩
    let out (i : Instr) (t : State) (v : Word) : Prop := exec i s = .next (withResult t d v 1).answered
    let traps (i : Instr) (c : Cause) : Prop := exec i s = .next ((if c = .poison then s.countPsn s.cur else s).trapHere c)
    let held (p : Pkg) (limit : Nat) : State :=
      { s with pkg := p, hart := { s.hart with hold := .coll d s.hart.clock limit } }.hold
    out (.cid d) s (BitVec.ofNat 64 (s.pkg.id % 1024)) ∧
    (∃ v : Word, exec (.lkstat d a) s = .next { (withResult s d v 1).answered with fresh := s.fresh + 1 } ∧
      match s.pkg.links[x.toNat]? with
      | some l => v.toNat / 2 ^ 16 = l.up.toNat * 2 ^ 47 + l.lost.toNat * 2 ^ 46 + min l.chunkF 65535 * 2 ^ 16 + min l.retry 65535
      | none => v = 0) ∧
    (∀ c, AreaTraps s x 17 c → traps (.cabort d a) c ∧ traps (.cform d a b) c) ∧
    (∀ gen members, GroupAt s x gen members →
      let n := (ringIds members).length
      -- cabort
      ((∀ r ∈ s.pkg.rings, r.group ≠ x) → out (.cabort d a) s (ringStatus 2 0 none 0 0)) ∧
      (∀ r, s.pkg.rings.find? (fun r => decide (r.group = x)) = some r → (∀ c ∈ s.pkg.colls, c.gen ≠ r.gen) →
        out (.cabort d a)
          { s with pkg := { s.pkg with aborted := if s.pkg.aborted.any (fun q => decide (q.1 = r.gen)) then s.pkg.aborted
                                                  else s.pkg.aborted ++ [(r.gen, some s.pkg.id)] } }
          (ringStatus 0 0 none 0 (ringIds r.members).length)) ∧
      -- cform
      (gen = 0 ∨ members.getLsbD s.pkg.id = false → out (.cform d a b) s (ringStatus 2 0 none 0 n)) ∧
      (gen ≠ 0 → members.getLsbD s.pkg.id = true → n = 1 →
        (s.pkg.rings.length < 16 → (∀ r ∈ s.pkg.rings, r.group ≠ x) →
          out (.cform d a b) { s with pkg := { s.pkg with rings := s.pkg.rings ++ [⟨x, gen, members, 0⟩] } }
            (ringStatus 0 0 none 0 1)) ∧
        (s.pkg.rings.length = 16 → (∀ r ∈ s.pkg.rings, r.group ≠ x ∧ r.inUse ≠ 0) →
          out (.cform d a b) s (ringStatus 1 0 none 0 1))) ∧
      (gen ≠ 0 → members.getLsbD s.pkg.id = true → n ≠ 1 → exec (.cform d a b) s = .next (held { s.pkg with
        colls := s.pkg.colls ++ ([⟨s.cur, true, d, x, gen, members, 0, 0, 0, y.toNat, s.hart.clock, 0⟩] : List Coll) } y.toNat))) ∧
    -- callr
    (∀ c, AreaTraps s x 8 c → traps (.callr d a) c) ∧
    ∀ ws, ws.length = 8 → AreaHolds s x ws →
      let W (k : Nat) : Word := ws.getD k 0
      (∀ c, AreaTraps s (W 0) 17 c → traps (.callr d a) c) ∧
      ∀ gen members, GroupAt s (W 0) gen members →
      let n := (ringIds members).length
      (s.run (W 1) = none ∨ s.run (W 2) = none → traps (.callr d a) .runfault) ∧
      ∀ i o, s.run (W 1) = some i → s.run (W 2) = some o →
      (CallInvalid s.pkg W gen members i o → out (.callr d a) s (ringStatus 2 0 none 0 n)) ∧
      (¬CallInvalid s.pkg W gen members i o →
        let gone := s.pkg.aborted.find? fun q => decide (q.1 = gen)
        let busy := 4 ≤ (s.pkg.colls.filter fun c => !c.form).length ∨ o.state = .opened ∨ i.rdrs = 511
        (∀ q, gone = some q → out (.callr d a) s (ringStatus 5 0 q.2 0 n)) ∧
        (gone = none → busy → out (.callr d a) s (ringStatus 1 0 none 0 n)) ∧
        (gone = none → ¬busy →
          (i.mark ≠ 0 →
            (∀ e, s.checkStream me i .read 0 = .error e → traps (.callr d a) e.cause) ∧
            ∀ t e, s.checkStream me i .read 0 = .ok t → s.checkStream me o .write 0 = .error e → traps (.callr d a) e.cause) ∧
          ((i.mark ≠ 0 → ∃ t t', s.checkStream me i .read 0 = .ok t ∧ s.checkStream me o .write 0 = .ok t') →
            s.pkg.mem.wf = true → s.cur.die < 4 → s.cur.quad < 64 → s.cur.core ≤ 4 →
            o.state = .alloc ∧ o.mark = 0 ∧
            (n ≠ 1 → ∃ p, exec (.callr d a) s = .next (held p (W 4).toNat) ∧
              p.colls = s.pkg.colls ++ ([⟨s.cur, false, d, W 0, gen, members, W 1, W 2, (W 3).toNat % 16, (W 4).toNat,
                s.hart.clock, 0⟩] : List Coll) ∧
              p.run (W 1) = some { i with rdrs := i.rdrs + 1 } ∧
              p.run (W 2) = some { o with state := .opened, writer := ⟨2, s.cur.die, s.cur.quad,
                if s.cur.core = 4 then 0 else s.cur.core, 0, 4, false⟩ }) ∧
            (n = 1 → i.mark = 0 → ∃ p, out (.callr d a) { s with pkg := p } (ringStatus 0 0 none 0 1) ∧
              p.run (W 1) = some i ∧ p.run (W 2) = some { o with state := .sealed, writer := Writer.none, mark := 0 }) ∧
            (n = 1 → i.mark ≠ 0 → ∃ bound : State, bound = { s with pkg := bound.pkg } ∧
              bound.pkg.run (W 1) = some { i with rdrs := i.rdrs + 1 } ∧
              ∀ tr own tr' u, bound.readStream me { i with rdrs := i.rdrs + 1 } none 0 (i.mark.toNat * 2 ^ i.wlog) = .ok (tr, own) →
                bound.writeStream me o none 0 own = .ok (tr', u) →
                ∃ p, out (.callr d a) { s with pkg := p } (ringStatus 0 0 none 0 1) ∧ p.run (W 1) = some i ∧
                  p.run (W 2) = some { o with state := .sealed, writer := Writer.none, mark := i.mark } ∧
                  ∀ q, inBulk q = true ∨ inHold q = true → p.mem.read q = u.pkg.mem.read q))))

/-- R336: an element of the output of a ring with k members: the value of rank 0 in a broadcast; else all members' values,
combined from the rank after its segment on, round the ring; the output is its elements, with every flag raised, and on a ring
of one member the input as it stands. R334 to R337: what other packages bring to a hart that waits in a `cform` or a `callr`: an
agreeing or another hello, a step, the last step with its output, a lost link or a time-out before a step or an agent's event,
an abort. (Which link carries a hop is open, log entry 1; the ends of a status and what an event may bring: log entries 43, 54
and 95.) -/
def Obligations.CollectivesEnd : Prop :=
  ((∀ (comb w n : Nat) (xs : List (List Byte)), ringResult comb w n xs =
    ((List.range n).flatMap (fun e => (ringElem comb w n e xs).1),
     (List.range n).foldl (fun f e => f ||| (ringElem comb w n e xs).2) 0)) ∧
  (∀ (comb w n : Nat) (x : List Byte), x.length = n * w → ringResult comb w n [x] = (x, 0)) ∧
  ∀ (comb n e : Nat) (xs : List (List Byte)), e < n → 2 ≤ xs.length →
    let k := xs.length
    let raw (w r : Nat) : List Byte := ((xs.getD r []).drop (e * w)).take w
    let v (r : Nat) : Nat := leNat (raw 8 r)
    let signed (r : Nat) : Int := (BitVec.ofNat 64 (v r)).toInt
    (∀ w, ringElem 1 w n e xs = (raw w 0, 0)) ∧
    ((ringElem 4 8 n e xs).1 = leBytes (((List.range k).map v).sum % 2 ^ 64) 8) ∧
    (comb = 5 ∨ comb = 6 → (∀ b ∈ xs, (e + 1) * 8 ≤ b.length) → ∃ r < k, (ringElem comb 8 n e xs).1 = raw 8 r ∧
      ∀ q < k, if comb = 5 then signed q ≤ signed r else signed r ≤ signed q) ∧
    ∀ g < k, g * n / k ≤ e → e < (g + 1) * n / k →
      let order := (List.range (k - 1)).map fun j => (g + j + 2) % k
      let r := order.foldl (fun (acc : Nat × FFlags) q =>
        let z := fAdd .f32 .rne acc.1 (leNat (raw 4 q))
        (z.1, acc.2 ||| z.2)) (leNat (raw 4 ((g + 1) % k)), 0)
      ringElem 3 4 n e xs = (leBytes r.1 4, r.2)) ∧
  ∀ (s : State) (c : Coll), s.pkg.colls = [c] → c.hart = s.cur → s.hart.pendingReg c.d = false →
    (∃ d since limit, s.hart.hold = .coll d since limit) →
    let n := (ringIds c.members).length
    let drop (p : Pkg) : State := { s with pkg := { p with colls := [] }, hart := { s.hart with hold := .none } }
    let ends (t : State) (p : Pkg) (v : Word) : State := { (withResult t c.d v 1).advance with pkg := p }
    let aborts (p : Pkg) (fail : Option Nat) : Pkg :=
      { p with colls := [], aborted := if p.aborted.any (fun q => decide (q.1 = c.gen)) then p.aborted
                                       else p.aborted ++ [(c.gen, fail)] }
    let next := successor c.members s.pkg.id
    let prev := predecessor c.members s.pkg.id
    let lost (k : Nat) : Prop := s.pkg.hopLost k = true
    let late := c.since + c.limit ≤ s.hart.clock
    let cut := lost next ∨ lost prev
    (c.form = true →
      (∀ gen m ans, gen ≠ c.gen ∨ m ≠ c.members → exec (.hello gen m ans) s = .next s) ∧
      (s.pkg.rings.length < 16 → (∀ r ∈ s.pkg.rings, r.group ≠ c.group) →
        exec (.hello c.gen c.members .agrees) s = .next (ends (drop s.pkg)
          { s.pkg with colls := [], rings := s.pkg.rings ++ [⟨c.group, c.gen, c.members, 0⟩] } (ringStatus 0 0 none 0 n))) ∧
      (∀ pa g m, AreaAt s c.group 17 pa → s.pkg.mem.wf = true → ∃ p,
        exec (.hello c.gen c.members (.mismatch g m)) s = .next (ends (drop s.pkg) p (ringStatus 6 0 none 0 n)) ∧
        Rewritten { s.pkg with colls := [] } p ((pa, BitVec.ofNat 64 (max c.gen g % 65536 * 2 ^ 48)) ::
          (List.range 16).map fun k =>
            (pa + 8 * (k + 1), BitVec.ofNat 64 ((c.members &&& m).toNat / 2 ^ (64 * k) % 2 ^ 64)))) ∧
      (∀ l, ¬late → l = false ∨ ¬lost next → exec (.cformTimeout l) s = .next s) ∧
      (∀ l, late ∨ (l = true ∧ lost next) → exec (.cformTimeout l) s =
        .next (ends (drop s.pkg) (aborts s.pkg (some next)) (ringStatus 4 0 (some next) 0 n)))) ∧
    (c.form = false → ∀ i o, s.run c.input = some i → s.run c.output = some o → o.state = .opened →
      c.input ≠ c.output → s.pkg.mem.wf = true →
      let size := i.mark.toNat * 2 ^ i.wlog
      let settled (p : Pkg) : Prop := p.colls = [] ∧ p.run c.input = some { i with rdrs := i.rdrs - 1 } ∧
        p.run c.output = some { o with state := .alloc, writer := Writer.none, mark := 0 }
      (∀ others, cut ∨ late → ∃ who p, (who = next ∨ who = prev) ∧ (cut → lost who) ∧ exec (.ringStep others) s =
          .next { ends (drop s.pkg) p (ringStatus 4 0 (some who) c.steps n) with fresh := s.fresh + 1 } ∧ settled p ∧
        p.aborted = (aborts s.pkg (some who)).aborted) ∧
      (∀ others, ¬cut → ¬late → (∀ x ∈ others, x.length = size) → c.steps + 1 < 2 * (n - 1) → exec (.ringStep others) s = .next
        { s with pkg := { s.pkg with colls := [{ c with steps := c.steps + 1, since := s.hart.clock }] } }) ∧
      (∀ others, ¬cut → ¬late → (∃ x ∈ others, x.length ≠ size) → ∃ p, exec (.ringStep others) s =
          .next (ends (drop s.pkg) p (ringStatus 6 0 none c.steps n)) ∧ settled p ∧ p.aborted = (aborts s.pkg none).aborted) ∧
      (∀ others, ¬cut → ¬late → others.length = n - 1 → (∀ x ∈ others, x.length = size) → 2 * (n - 1) ≤ c.steps + 1 →
        let me : Xl := ⟨s.cur.die, s.hart.xlat.1, s.hart.xlat.2, !s.hart.hst.mode⟩
        let k := rankOf c.members s.pkg.id
        ∀ tr own, s.readStream me i none 0 size = .ok (tr, own) →
        let r := ringResult c.comb (2 ^ i.wlog) i.mark.toNat (others.take k ++ [own] ++ others.drop k)
        ∀ tr' u, s.writeStream me o none 0 r.1 = .ok (tr', u) → ∃ p, exec (.ringStep others) s = .next (ends
            { drop s.pkg with hart := { s.hart with hold := .none, xst := s.hart.xst ||| r.2 } } p
            (ringStatus 0 r.2.toNat none (2 * (n - 1)) n)) ∧
          p.colls = [] ∧ p.run c.input = some { i with rdrs := i.rdrs - 1 } ∧
          p.run c.output = some { o with state := .sealed, writer := Writer.none, mark := i.mark } ∧
          ∀ a, inBulk a = true ∨ inHold a = true → p.mem.read a = u.pkg.mem.read a) ∧
      (∀ who, (who ≠ next ∧ who ≠ prev) ∨ (¬lost who ∧ ¬late) → exec (.collectiveTimeout who) s = .next s) ∧
      (∀ who, who = next ∨ who = prev → lost who ∨ late → ∃ p, exec (.collectiveTimeout who) s =
          .next (ends (drop s.pkg) p (ringStatus 4 0 (some who) c.steps n)) ∧ settled p ∧
        p.aborted = (aborts s.pkg (some who)).aborted) ∧
      ∀ fail, ∃ p, exec (.abortFlood c.gen fail) s = .next (ends (drop s.pkg) p (ringStatus 5 0 fail c.steps n)) ∧ settled p ∧
        p.aborted = (aborts s.pkg fail).aborted) ∧
    -- aborts
    (∀ gen fail, gen ≠ c.gen → s.pkg.aborted.any (fun q => decide (q.1 = gen)) = true →
      exec (.abortFlood gen fail) s = .next s) ∧
    (∀ gen fail, s.pkg.aborted.any (fun q => decide (q.1 = gen)) = false → gen ≠ c.gen →
      exec (.abortFlood gen fail) s = .next { s with pkg := { s.pkg with aborted := s.pkg.aborted ++ [(gen, fail)] } }) ∧
    ∀ fail, c.form = true →
      exec (.abortFlood c.gen fail) s = .next (ends (drop s.pkg) (aborts s.pkg fail) (ringStatus 5 0 fail 0 n))

/-! ### Integrity -/

/-- R318: the word of a core in the capability table: 0 CAP, 1 CEIL, 2 HEALTH, 3 SPARE. -/
def Sys2Proof.Claims.capWordAt (d q c k : Nat) : Nat := 0x2000037E000 + d * 0x400000 + 32 * (5 * q + c) + 8 * k

/-- R317: the bits that a core or a helm core may hold. -/
def Sys2Proof.Claims.capKinds (c : Nat) : Word := if c = 4 then 0x7BE007 else 0xFE3FFF

/-- R287: the DONE counter of lane group g of an entry whose elements below k are done, with what it had done before: above the ranks of
all of them. -/
def Sys2Proof.Claims.doneBelow (h : Hart) (x : VEntry) (k g : Nat) : Nat :=
  let leff := max 1 h.leff
  max (x.dones.getD g 0) (if g < h.lanes / 4
    then ((List.range k).filter fun i => i % leff / 4 = g).foldl (fun n i => max n (i / leff * 4 + i % 4 + 1)) 0 else 0)

/-- R285, R287, R289, R292: the hart stopped by a trap of the lanes with x as the head of its vector queue and `rest` behind it,
the elements of x below k done: counters rank by rank, and in the registers `v` and `m` (as they stood) only the results `land` of
those elements, with their flags. -/
def Sys2Proof.Claims.LaneStopped (s t : State) (x : VEntry) (rest : List VEntry) (v : VFile) (m : MFile) (k : Nat)
    (land : Option (VFile × MFile × FFlags)) (code aux : Nat) : Prop :=
  t.hart.pc = s.hart.svec ∧ t.hart.hst = { s.hart.hst with mode := true } ∧
  t.hart.trpc = x.addr % 2 ^ 48 ∧ t.hart.trfrom = s.hart.pc % 2 ^ 48 ∧
  t.hart.trcause = BitVec.ofNat 64 (aux * 2 ^ 32 + (match x.tok with | some tk => tk.val | none => 0) * 2 ^ 16 + 2 ^ 14 + 2 ^ 12 +
    s.hart.hst.mode.toNat * 2 ^ 8 + code) ∧
  (∃ ds, t.hart.vq = { x with dones := ds } :: rest ∧ ∀ g, ds.getD g 0 = doneBelow s.hart x k g) ∧
  (∀ g : Fin 8, t.hart.trlg[g] = BitVec.ofNat 64 (doneBelow s.hart x k g.val % 2 ^ 14)) ∧
  match land with
  | none => t.hart.v = v ∧ t.hart.m = m ∧ t.hart.xst = s.hart.xst
  | some r => t.hart.m = r.2.1 ∧ t.hart.xst = s.hart.xst ||| r.2.2 ∧ (s.hart.hst.prot = false → t.hart.v = r.1) ∧
      ∀ (q : VReg) (b : Nat), b < 256 * s.hart.leff → t.hart.v[q].getLsbD b = r.1[q].getLsbD b

/-- R292: what the elements of an entry below k leave, of an operation of fixed latency or a read of a tile that is enabled. -/
def Sys2Proof.Claims.partOf (s : State) (x : VEntry) (v : VFile) (m : MFile) (k : Nat) : Option (VFile × MFile × FFlags) :=
  let e := { ({ s.hart with v := v, m := m }).env x v m with vl := k, tp := false }
  match x.op with
  | .vts f d t _ => if f.isWrite = false ∧ s.quad.ten.getLsbD t.val = true then some ((tileMove f d t e s.quad).1, m, 0) else none
  | op => (fixedRes op e).map fun r => (r.v, r.m, Raised.flags r.raised)

/-- An operand of an entry lies in the register that a trap of the lanes names; of a mismatch only a destination counts. -/
def Sys2Proof.Claims.hits (x : VEntry) (reg : Nat) (dst : Bool) (u : VUse) : Bool :=
  (u.dst || !dst) && u.mask == decide (32 ≤ reg) && spansMeet (u.span (g8Of x.vcfg) (sewOf x.vcfg)) (reg % 32, 1)

/-- R304, R313: the elements of an entry in the groups before the first that lies in the register. -/
def Sys2Proof.Claims.groupsBefore (h : Hart) (x : VEntry) (reg : Nat) (u : VUse) : Nat :=
  let w := max 1 (h.geo x).w
  min x.vl ((reg % 32 - u.reg) * 256 / max 1 (64 * u.w / w) * (max 1 h.leff * (64 / w)))

/-- R315: two register files that agree but for the slice of one register, of a mask register one 64-bit word of it, in the hart's
lane k. -/
def Sys2Proof.Claims.SliceOnly (s : State) (v : VFile) (m : MFile) (reg k : Nat) : Prop :=
  (∀ r : VReg, r.val ≠ reg → v[r] = s.hart.v[r]) ∧ (∀ r : MReg, reg < 32 ∨ r.val ≠ reg % 8 → m[r] = s.hart.m[r]) ∧
  (∀ (r : VReg) (b : Nat), b / 256 ≠ k → v[r].getLsbD b = s.hart.v[r].getLsbD b) ∧
  ∃ w < 4, ∀ (r : MReg) (i : Nat), (i % s.hart.leff ≠ k ∨ i / s.hart.leff / 64 ≠ w) → m[r].getLsbD i = s.hart.m[r].getLsbD i

/-- R309, R312, R313, R315, R318: corrected errors and replays are counted and freeze the hart; a lane whose ALU has failed
takes the spare, or traps MIRROR or LANELOST, and no slice is lost; a lost slice traps LANELOST outside protected mode, and
until each of its words is written again its lane counts as lost. What a lost slice reads as, and which word of a mask slice is
lost, is open (log entry 1); the counters at Leff 2: log entry 20. A vector queue that is not empty stops at the entry whose
group failed, or else before its next entry (log entries 76 and 88). R172, R316 to R322: fences and writes of the capability
table take effect on the core's mask, and contexts that need a bit that leaves are to be saved; a sounding drains its quad, and
its scan sets the masks anew; a drain that lasts too long is given up; key pairs. Which bits a core may hold at all is log entry
45, what an interval does that ends while a quad drains is log entry 55, and what a scan makes of CAP and of a failing ALU is
log entry 77; whether the slice storage of a lost lane is found at fault is a free choice (log entry 1). -/
def Obligations.ReplaysFencesAndSoundings : Prop :=
  ((∀ (s : State) (lane reg n : Nat), s.pkg.mem.wf = true → lane < 32 → reg < 40 →
    let at' := capWordAt s.cur.die s.cur.quad s.cur.core 2
    let owned := s.hart.lane0 ≤ lane ∧ lane < s.hart.lane0 + s.hart.lanes
    let counted (p : Pkg) (k : Nat) : Prop :=
      let w := s.pkg.mem.word at'
      p = { s.pkg with mem := p.mem } ∧ (∀ a, a < at' ∨ at' + 8 ≤ a → p.mem.read a = s.pkg.mem.read a) ∧
      (p.mem.word at').toNat = w.toNat - w.toNat / 2 ^ 32 % 2 ^ 16 * 2 ^ 32 + min (2 ^ 16 - 1) (w.toNat / 2 ^ 32 % 2 ^ 16 + k) * 2 ^ 32
    let ev : Instr := .elementGroupReplay lane reg n
    let aux := lane + reg % 32 * 2 ^ 8 + reg / 32 * 2 ^ 13
    let cause (code : Nat) : Word := BitVec.ofNat 64 (aux * 2 ^ 32 + 2 ^ 12 + s.hart.hst.mode.toNat * 2 ^ 8 + code)
    let after (k : Nat) : State := { s with hart := { s.hart with frozen := s.hart.frozen + 12 * k } }
    let rests (s : State) : Prop := ∀ b ∈ s.hart.bops, b.started = true → b.ent = none
    (¬owned ∨ n = 0 → exec ev s = .next s) ∧
    (owned → 1 ≤ n → n < 3 → ∃ p, exec ev s = .next { after n with pkg := p } ∧ counted p n) ∧
    (owned → 3 ≤ n → s.core.spare = none → s.core.sparePend = none → ∃ p,
      exec ev s = .next { after 3 with pkg := p, core := { s.core with sparePend := some lane } } ∧ counted p 3) ∧
    (owned → 3 ≤ n → (s.core.spare ≠ none ∨ s.core.sparePend ≠ none) → s.hart.hst.prot = true → Empty s → rests s → ∃ t,
      exec ev s = .next t ∧ t.hart = trapped (after 2) s.hart.pc s.hart.pc (cause 0x10)) ∧
    (owned → 3 ≤ n → (s.core.spare ≠ none ∨ s.core.sparePend ≠ none) → s.hart.hst.prot = false → Empty s → rests s →
      ∃ t, exec ev s = .next t ∧ t.hart = { trapped (after 2) s.hart.pc s.hart.pc (cause 0x0F) with
          ctx := s.hart.ctx.map fun c => { c with lost := true } })) ∧
  (∀ (s : State) (aux : BitVec 32), ¬(s.hart.ctx = none ∧ s.hart.hst.mode = false) → s.hart.stopped = false →
    let lane := aux.toNat % 32
    let owned := s.hart.lane0 ≤ lane ∧ lane < s.hart.lane0 + s.hart.lanes
    let reg := aux.toNat / 2 ^ 8 % 32 + if aux.getLsbD 13 then 32 else 0
    let k := lane - s.hart.lane0
    let all : List (Nat × Nat × Nat) := (List.range 40).flatMap fun r => (List.range 4).map fun w => (lane, r, w)
    let rests := ∀ b ∈ s.hart.bops, b.started = true → b.ent = none
    let marked : Core := { s.core with unwritten := s.core.unwritten.filter (fun w => w.1 ≠ lane) ++ all }
    let cause (code : Nat) : Word := BitVec.ofNat 64 (aux.toNat * 2 ^ 32 + 2 ^ 12 + s.hart.hst.mode.toNat * 2 ^ 8 + code)
    (¬owned → exec (.trapEntry .lanelost aux) s = .next s) ∧
    (owned → s.hart.hst.prot = true → exec (.trapEntry .lanelost aux) s = .next { s with core := marked }) ∧
    (owned → s.hart.hst.prot = false → Empty s → rests → ∃ t, exec (.trapEntry .lanelost aux) s = .next t ∧ t.core = marked ∧
      t.hart = { trapped s s.hart.pc s.hart.pc (cause 0x0F) with
        v := t.hart.v, m := t.hart.m, ctx := s.hart.ctx.map fun c => { c with lost := true } } ∧
      SliceOnly s t.hart.v t.hart.m reg k) ∧
    (s.hart.hst.prot = false → exec (.trapEntry .mirror aux) s = .next s) ∧
    (s.hart.hst.prot = true → Empty s → rests → ∃ p, exec (.trapEntry .mirror aux) s =
      .next { s with pkg := p, hart := trapped s s.hart.pc s.hart.pc (cause 0x10) }) ∧
    -- with a queue: its head stops at the group that failed
    (∀ x rest, Quiet s → rests → s.hart.vq = x :: rest →
      (s.core.net ++ s.core.pipe).filter (fun o => o.hid = s.cur.hid) = [] →
      let us := x.named (max 1 s.hart.leff)
      let stops (t : State) (v : VFile) (m : MFile) (dst : Bool) (code : Nat) : Prop :=
        (x.vl = 0 ∨ (∀ u ∈ us, hits x reg dst u = false) → LaneStopped s t x rest v m 0 none code aux.toNat) ∧
        ∀ u, (∃ w ∈ us, hits x reg dst w = true) → (s.hart.geo x).us.find? (hits x reg dst) = some u →
          let k := groupsBefore s.hart x reg u
          if k = 0 ∨ partOf s x v m k = none then LaneStopped s t x rest v m 0 none code aux.toNat
          else LaneStopped s t x rest v m k (partOf s x v m k) code aux.toNat
      (s.hart.hst.prot = true → ∃ t, exec (.trapEntry .mirror aux) s = .next t ∧ t.core = s.core ∧
        stops t s.hart.v s.hart.m true 0x10) ∧
      (s.hart.hst.prot = false → owned → ∃ t v m, exec (.trapEntry .lanelost aux) s = .next t ∧ t.core = marked ∧
        SliceOnly s v m reg k ∧ stops t v m false 0x0F)) ∧
    -- an operation that has begun in a unit is the head again: one of the network or a plane store with its counters zero, a load
    -- with its groups before the one that failed
    ∀ o, Quiet s → rests → (s.core.net ++ s.core.pipe).filter (fun o => o.hid = s.cur.hid) = [o] →
      (∀ y ∈ s.hart.vq, o.ent.id < y.id) →
      let us := o.ent.named (max 1 s.hart.leff)
      let whole : Prop := match o.ent.op with
        | .vwait _ _ _ => False
        | .vld _ _ _ => False
        | .vst _ _ _ => False
        | .vpt _ _ _ _ _ => False
        | _ => True
      let V : VEntry := { o.ent with dones := [] }
      let gone (t : State) : Prop := ∀ p, p ∈ t.core.net ++ t.core.pipe ↔ p ∈ s.core.net ++ s.core.pipe ∧ p ≠ o
      (s.hart.hst.prot = true → whole → (∃ u ∈ us, hits o.ent reg true u = true) → ∃ t,
        exec (.trapEntry .mirror aux) s = .next t ∧ gone t ∧ LaneStopped s t V s.hart.vq s.hart.v s.hart.m 0 none 0x10 aux.toNat) ∧
      (s.hart.hst.prot = false → owned → whole → (∃ u ∈ us, hits o.ent reg false u = true) → ∃ t v m,
        exec (.trapEntry .lanelost aux) s = .next t ∧ gone t ∧ SliceOnly s v m reg k ∧
        LaneStopped s t V s.hart.vq v m 0 none 0x0F aux.toNat) ∧
      ∀ md d b u, o.ent.op = .vld md d b → s.hart.hst.prot = true → (∃ w ∈ us, hits o.ent reg true w = true) →
        (s.hart.geo o.ent).us.find? (hits o.ent reg true) = some u →
        let n := groupsBefore s.hart o.ent reg u
        let e := { s.hart.env o.ent (s.filesOf o.ent).1 (s.filesOf o.ent).2 with tp := false }
        ∃ t, exec (.trapEntry .mirror aux) s = .next t ∧ gone t ∧
          if o.passed = true then LaneStopped s t o.ent s.hart.vq s.hart.v s.hart.m n
            (some (chartLoad md e d s.core.chart n, s.hart.m, 0)) 0x10 aux.toNat
          else LaneStopped s t o.ent s.hart.vq s.hart.v s.hart.m 0 none 0x10 aux.toNat) ∧
  ∀ (s : State) (c : Nat), c < 5 → s.pkg.mem.wf = true → ∃ p, exec (.eccWriteback c) s = .next { s with pkg := p } ∧
    let at' := capWordAt s.cur.die s.cur.quad c 2
    let w := s.pkg.mem.word at'
    (p.mem.word at').toNat = w.toNat - w.toNat / 2 ^ 32 % 2 ^ 16 * 2 ^ 32 + min (2 ^ 16 - 1) (w.toNat / 2 ^ 32 % 2 ^ 16 + 1) * 2 ^ 32 ∧
    ∀ a, a < at' ∨ at' + 8 ≤ a → p.mem.read a = s.pkg.mem.read a) ∧
  (∀ s : State, s.pkg.mem.wf = true →
    let W (c k : Nat) : Word := s.pkg.mem.word (capWordAt s.cur.die s.cur.quad c k)
    -- a fence, and Vexud's writes
    (∀ bits : BitVec 24, s.cur.core < 5 → s.cur.hid < 8 → ∃ t, exec (.capabilityFence bits) s = .next t ∧
      let new := W s.cur.core 0 &&& ~~~(bits.setWidth 64) &&& capKinds s.cur.core
      Rewritten s.pkg t.pkg [(capWordAt s.cur.die s.cur.quad s.cur.core 0, new)] ∧
      (t.hart.savePend = true ↔ s.hart.savePend = true ∨
        ∃ c, s.hart.ctx = some c ∧ c.use &&& (W s.cur.core 0 &&& ~~~new) ≠ 0)) ∧
    (∀ (e k : Nat) (v : Word), 200 ≤ e ∨ 2 ≤ k → exec (.capabilityTableWrite e k v) s = .next s) ∧
    (∀ (e k : Nat) (v : Word), e < 200 → k < 2 → ∃ t, exec (.capabilityTableWrite e k v) s = .next t ∧
      Rewritten s.pkg t.pkg [(capWordAt s.cur.die (e / 5) (e % 5) k, v &&& if k = 0 then capKinds (e % 5) else 0xFFFFFF)]) ∧
    -- soundings
    (∀ v : Nat, exec (.soundingIntervalSet v) s =
      .next { s with die := { s.die with sndInterval := v, sndAt := s.die.cycles + v } }) ∧
    (let due := s.die.sndInterval ≠ 0 ∧ s.die.sndAt ≤ s.die.cycles
     let next := s.die.sndAt + s.die.sndInterval
     (¬due → exec .sounding s = .next s) ∧
     (due → s.die.draining ≠ none → exec .sounding s = .next { s with die := { s.die with sndAt := next } }) ∧
     (due → s.die.draining = none → ∃ t, exec .sounding s = .next t ∧ t.die = { s.die with
         sndAt := next, draining := some s.die.sndNext, drainStart := s.die.cycles, sndNext := (s.die.sndNext + 1) % 40 } ∧
       ∀ c < 5, ∀ h < 8, (s.getHart ⟨s.cur.die, s.die.sndNext, c, h⟩).ctx ≠ none →
         (s.getHart ⟨s.cur.die, s.die.sndNext, c, h⟩).hst.prio.val ≤ 6 →
         (t.getHart ⟨s.cur.die, s.die.sndNext, c, h⟩).savePend = true)) ∧
    (s.die.draining = none → exec .soundingDrainTimeout s = .next s ∧ ∀ fails alus, exec (.scanTest fails alus) s = .next s) ∧
    ∀ q, s.die.draining = some q →
      let V (c k : Nat) : Word := s.pkg.mem.word (capWordAt s.cur.die q c k)
      let skip (w : Word) : Word := if w.toNat / 256 % 256 = 255 then w else w + 256
      (s.die.cycles < s.die.drainStart + 2 ^ 24 ∨ s.quadDrained s.cur.die q = true → exec .soundingDrainTimeout s = .next s) ∧
      (s.die.drainStart + 2 ^ 24 ≤ s.die.cycles → s.quadDrained s.cur.die q = false → ∃ t,
        exec .soundingDrainTimeout s = .next t ∧ t.die = { s.die with draining := none } ∧
        Rewritten s.pkg t.pkg ((List.range 5).map fun c => (capWordAt s.cur.die q c 3, skip (V c 3)))) ∧
      ∀ (fails : List (BitVec 24)) (alus : List (Option Nat)),
        (s.quadDrained s.cur.die q = false → exec (.scanTest fails alus) s = .next s) ∧
        (s.quadDrained s.cur.die q = true → ∃ t, exec (.scanTest fails alus) s = .next t ∧ t.die = { s.die with draining := none } ∧
          let core (u : State) (c : Nat) : Core := u.getCore ⟨s.cur.die, q, c, 0⟩
          let sorter : BitVec 24 := if fails.any (fun f => f.getLsbD 17) then 0x20000 else 0
          let alu (c : Nat) : Option Nat := alus.getD c none
          -- the spare stands in for a failing ALU where it is free or that lane's already
          let spared (c l : Nat) : Prop := (core s c).spare = none ∨ (core s c).spare = some (l % 32)
          let failed (c : Nat) : Word :=
            let f : Word := (fails.getD c 0 ||| sorter).setWidth 64
            match alu c with
            | none => f
            | some l => if ¬spared c l ∧ f &&& 0xF8 = 0 then f ||| 0xF8 else f
          let kept : Word := 0x680000
          (∀ c < 5, ∃ b : BitVec 32, (∀ l, b.getLsbD l = true → (∃ w ∈ (core s c).unwritten, w.1 = l) ∨ (core s c).faulty.getLsbD l = true) ∧
            core t c = match alu c with
              | none => { core s c with faulty := b }
              | some l => if spared c l then { core s c with spare := some (l % 32), sparePend := none, faulty := b }
                  else { core s c with faulty := b }) ∧
          Rewritten s.pkg t.pkg ((List.range 5).flatMap fun c =>
            [(capWordAt s.cur.die q c 0, (V c 0 ||| V c 1 &&& ~~~kept) &&& ~~~failed c &&& capKinds c),
             (capWordAt s.cur.die q c 2, BitVec.ofNat 64
               (min 65535 ((V c 2).toNat / 2 ^ 48 + 1) * 2 ^ 48 + (V c 0 &&& failed c).toNat % 2 ^ 24)),
             (capWordAt s.cur.die q c 3, match alu c with
               | some l => if spared c l then BitVec.ofNat 64 ((V c 3).toNat / 256 % 256 * 256 + 128 + l % 32) else V c 3
               | none => V c 3)]))) ∧
  ∀ (s : State) (k : Nat) (a b : BitVec 256),
    (128 ≤ k → exec (.keyPairLoad k a b) s = .next s) ∧
    (k < 128 → ∃ ks, exec (.keyPairLoad k a b) s = .next { s with pkg := { s.pkg with keys := ks } } ∧
      ∀ j, assocGet ks j = if j = k then some (a, b) else assocGet s.pkg.keys j)

/-! ### Links, dies and lends -/

/-- R309, R323, R325 to R327, R330: what befalls a link is counted in its status word, and 16 failed retries of one flit or 16
failed fetches of one chunk lose it, which Vexud reports, and ends the collectives that need it (R337); whether a retry is of the flit that failed last is a free choice (log
entry 1), and so is which link carries a hop. The loss of a die-to-die link takes its boundary away until the link is retrained, and a die without a boundary is
isolated until it is reset; a lost package leaves every pod channel (log entry 54); a core reset clears the registers of its
channels (log entry 78); a die that is reset runs nothing, keeps its memories (its Charts where no store of a hart has still to
perform), and has no open scope (log entry 56). -/
def Obligations.LinksAndResets : Prop :=
  (∀ (s : State) (l : Nat),
    let at' (ls : List Link) (f : Link → Link) : Prop :=
      ∀ j, ls[j]? = if j = l then (s.pkg.links[l]?).map f else s.pkg.links[j]?
    let upTo (n : Link → Nat) : Nat := if Config.freeBit s.fresh then (match s.pkg.links[l]? with | some k => n k | none => 0) else 0
    let changed (ls : List Link) : State := { s with fresh := s.fresh + 1, pkg := { s.pkg with links := ls } }
    (upTo (·.flits) < 16 → ∃ ls, exec (.linkFlitRetry l) s = .next (changed ls) ∧
      at' ls fun k => { k with retry := min 65535 (k.retry + 1), flits := upTo (·.flits) + 1 }) ∧
    (16 ≤ upTo (·.flits) → exec (.linkFlitRetry l) s = exec (.linkLost l) (changed s.pkg.links)) ∧
    (∃ ls, (at' ls fun k => { k with chunkF := min 65535 (k.chunkF + 1), chunks := upTo (·.chunks) + 1 }) ∧
      exec (.chunkRefetch l) s = if upTo (·.chunks) < 15 then .next (changed ls) else exec (.linkLost l) (changed ls)) ∧
    (s.pkg.colls = [] → ∃ ls bs iso, exec (.linkLost l) s = .next { s with pkg := { s.pkg with
          links := ls, boundariesLost := bs, isolated := iso
          vexud := { s.pkg.vexud with reports := s.pkg.vexud.reports ++ [.linkLost l] } } } ∧
      (at' ls fun k => { k with up := false, lost := true, flits := 0, chunks := 0 }) ∧
      (∀ b, b ∈ bs ↔ b ∈ s.pkg.boundariesLost ∨ (8 ≤ l ∧ l < 12 ∧ b = l - 8)) ∧
      ∀ d, d ∈ iso ↔ d ∈ s.pkg.isolated ∨ (d < 4 ∧ ∀ b < 4, (boundaryEnds b).1 = d ∨ (boundaryEnds b).2 = d → b ∈ bs)) ∧
    -- a member of a collective that has lost the link to a neighbour
    (∀ c, s.pkg.colls = [c] → c.hart = s.cur → c.form = false → s.hart.pendingReg c.d = false →
      (∃ d since limit, s.hart.hold = .coll d since limit) →
      let near := [successor c.members s.pkg.id, predecessor c.members s.pkg.id]
      let gone (k : Nat) : Prop := k ∈ near ∧ (s.pkg.portTo k = l ∧ l < s.pkg.links.length ∨ s.pkg.hopLost k = true)
      (∃ k, gone k) → ∃ t who, exec (.linkLost l) s = .next t ∧ gone who ∧ t.pkg.colls = [] ∧
        t.hart = (withResult { s with hart := { s.hart with hold := .none } } c.d
          (ringStatus 4 0 (some who) c.steps (ringIds c.members).length) 1).advance.hart) ∧
    ∃ ls bs, exec (.linkRetrain l) s = .next { s with pkg := { s.pkg with links := ls, boundariesLost := bs } } ∧
      (at' ls fun k => { k with up := true, lost := false }) ∧ ∀ b, b ∈ bs ↔ b ∈ s.pkg.boundariesLost ∧ b + 8 ≠ l) ∧
  (∀ (s : State) (k : Nat), ∃ t, exec (.packageLost k) s = .next t ∧ t.pkg.vexud.lostPkgs = k :: s.pkg.vexud.lostPkgs ∧
    (∀ b ∈ t.pkg.barriers, b.lvl = .pod → k ∉ b.far) ∧
    ((∀ b ∈ s.pkg.barriers, b.lvl = .pod → k ∉ b.far) → t = { s with pkg := { s.pkg with vexud := t.pkg.vexud } })) ∧
  (∀ s : State, ∃ cs, exec .coreReset s = .next { s with core := { s.core with chans := cs } } ∧
    ∀ k : Chan, cs[k] = { s.core.chans[k] with seq := 0, mark := 0 }) ∧
  ∀ s : State, s.pkg.mem.wf = true → ∃ t, exec (.dieReset s.cur.die) s = .next t ∧ t.hart = Hart.reset s.cur ∧
    t.die.queues = [] ∧ t.die.ring = [] ∧ t.die.saved = [] ∧ t.die.draining = none ∧ t.die.ranges = s.die.ranges ∧
    (s.hart.stores = [] → (∀ x ∈ s.harts, x.2.stores = []) → t.core.chart = s.core.chart) ∧ t.core.shadow = [] ∧ t.core.pipe = [] ∧ t.core.net = [] ∧ (∀ k : Chan, t.core.chans[k] = Channel.idle) ∧
    t.quad.plane = s.quad.plane ∧ t.quad.tiles = s.quad.tiles ∧ t.quad.mops = [] ∧ t.quad.passes = [] ∧
    (∀ b, b ∈ t.pkg.boundariesLost ↔ b ∈ s.pkg.boundariesLost ∧ (boundaryEnds b).1 ≠ s.cur.die ∧ (boundaryEnds b).2 ≠ s.cur.die) ∧
    (∀ e, e ∈ t.pkg.isolated ↔ e ∈ s.pkg.isolated ∧ e ≠ s.cur.die) ∧
    ∀ c ∈ s.pkg.scopes, c.handle.toNat / 2 ^ 46 % 4 = s.cur.die → t.pkg.scopeState c.handle = none

/-- R328, R329: an idle die asks the die with the highest queue; the victim lends the upper half of what a record has left, or
turns the request away; the copy enters the thief's queue, and the acknowledgement takes the lent iterations from the record;
without a path they come back; a die with lends is not gated. (What counts as a free core, and which record of a priority is
lent: log entry 57; a request that meets a lost path: log entry 68.) -/
def Obligations.DiesLendRecords : Prop :=
  (∀ (s : State) (v : Nat),
    let may := s.die.stealing = none ∧ s.die.gated = false ∧ s.nextRec s.cur.die = none ∧
      (∃ c ∈ dieCores s.cur.die, s.coreFree c = true) ∧ s.busiest = some v
    (¬may → exec (.stealRequest v) s = .next s) ∧
    (may → ∃ mask, exec (.stealRequest v) s = .next { s with die := { s.die with stealing := some (v, mask) } } ∧
      ∀ b, mask.getLsbD b = true ↔ ∃ c ∈ dieCores s.cur.die, s.coreFree c = true ∧ (s.pkg.capOf c).getLsbD b = true) ∧
    (s.busiest = some v → v < 4 ∧ v ≠ s.cur.die ∧ s.pkg.cutOff s.cur.die v = false ∧
      ∀ e < 4, e ≠ s.cur.die → s.pkg.cutOff s.cur.die e = false → ∀ q ∈ (s.getDie e).queues, ∃ r ∈ (s.getDie v).queues, q.prio ≤ r.prio)) ∧
  (∀ (s : State) (thief : Nat),
    (thief = s.cur.die ∨ (∀ mask, (s.getDie thief).stealing ≠ some (s.cur.die, mask)) → exec (.lend thief) s = .next s) ∧
    ∀ mask, (thief ≠ s.cur.die → (s.getDie thief).stealing = some (s.cur.die, mask) →
      let answered : State := s.putDie thief { s.getDie thief with stealing := none }
      let covers (r : QRec) : Prop := recUse r.words &&& ~~~mask = 0 ∧ recPin r.words = false ∧ 2 ≤ r.left
      let apart := s.pkg.cutOff s.cur.die thief = true ∨ s.pkg.cutOff thief s.cur.die = true
      (apart ∨ (∃ r ∈ s.die.queues, r.lent ≠ none) ∨ (∀ r ∈ s.die.queues, r.prio < 8 → ¬covers r) → exec (.lend thief) s = .next answered) ∧
      (¬apart → (∀ r ∈ s.die.queues, r.lent = none ∧ r.prio < 8) → (∃ r ∈ s.die.queues, covers r) → ∃ r ∈ s.die.queues, covers r ∧
        (∀ q ∈ s.die.queues, covers q → q.prio ≤ r.prio) ∧
        let lo := r.last - (r.last - r.next) / 2
        ∃ t, exec (.lend thief) s = .next t ∧
          t.pkg = { s.pkg with lends := s.pkg.lends ++
            ([⟨{ r with next := lo, borrowed := true }, s.cur.die, thief, false⟩] : List Lent) } ∧
          t.die = { s.die with queues := s.die.queues.map fun q => if q.age = r.age ∧ q.last = r.last then
            { q with lent := some (lo, r.last, thief), words := q.words.set 4 (recW q.words 4 ||| 0x4000000000) } else q }))) ∧
  (∀ (s : State) (l : Lent), s.pkg.lends = [l] →
    let gone (d : Die) : State := { s with pkg := { s.pkg with lends := [] }, die := d }
    let apart := s.pkg.cutOff l.victim l.thief = true ∨ s.pkg.cutOff l.thief l.victim = true
    let settled (f : QRec → Nat → QRec) : Die := { s.die with
      queues := (s.die.queues.map fun r => if r.age = l.copy.age ∧ r.last = l.copy.last then (match r.lent with
        | some (lo, _, _) => f r lo
        | none => r) else r).filter fun r => decide (r.next < r.last) }
    let whole (r : QRec) : QRec := { r with lent := none, words := r.words.set 4 (recW r.words 4 &&& ~~~0x4000000000) }
    -- the copy arrives
    (l.thief = s.cur.die → l.acked = false → ¬apart →
      (s.pkg.scopeState (recScope l.copy.words) ≠ some .live →
        exec .stealEnter s = .next (gone { s.die with stealing := none })) ∧
      (s.pkg.scopeState (recScope l.copy.words) = some .live →
        (512 ≤ (s.die.queue l.copy.prio).length → exec .stealEnter s = .next s) ∧
        ((s.die.queue l.copy.prio).length < 512 → ∃ qs, exec .stealEnter s = .next
            { s with pkg := { s.pkg with lends := [{ l with acked := true }] }, die := { s.die with stealing := none, queues := qs } } ∧
          ∀ q, q ∈ qs ↔ q ∈ s.die.queues ∨ q = { l.copy with entered := s.die.cycles }))) ∧
    (l.thief ≠ s.cur.die ∨ l.acked = true ∨ apart → exec .stealEnter s = .next s) ∧
    -- the acknowledgement arrives, or the way is lost
    (l.victim = s.cur.die → l.acked = true →
      exec .stealAcknowledgement s = .next (gone (settled fun r lo => { whole r with last := lo }))) ∧
    (l.victim ≠ s.cur.die ∨ l.acked = false → exec .stealAcknowledgement s = .next s) ∧
    (l.victim = s.cur.die → l.acked = false → apart →
      exec .lendReclaim s = .next (gone (settled fun r _ => whole r))) ∧
    (l.victim ≠ s.cur.die ∨ l.acked = true ∨ ¬apart → exec .lendReclaim s = .next s)) ∧
  ∀ (s : State) (d : Nat),
    let holds := (∃ r ∈ (s.getDie d).queues, r.lent ≠ none) ∨ ∃ l ∈ s.pkg.lends, l.thief = d ∧ l.acked = false
    (holds → exec (.diePowerGating d) s = .next s) ∧
    (¬holds → exec (.diePowerGating d) s = .next (s.putDie d { s.getDie d with gated := true }))

/-! ### Vexud and the host -/

/-- The state with one more thing handed to the host. -/
def Sys2Proof.Claims.reporting (s : State) (r : HostReport) : State :=
  { s with pkg := { s.pkg with vexud := { s.pkg.vexud with reports := s.pkg.vexud.reports ++ [r] } } }

/-- R265: a task of a scope that runs, is saved, waits in a shadow slot, or has iterations in a queue, the overflow ring or a lend. -/
def Sys2Proof.Claims.TaskIn (s : State) (h : Word) : Prop :=
  (∃ p ∈ s.allHarts, ∃ c, p.2.ctx = some c ∧ c.scope = h) ∨
  (∃ d ∈ s.dieIds, (∃ v ∈ (s.getDie d).saved, v.ctx.scope = h) ∨
    ∃ r ∈ (s.getDie d).queues ++ (s.getDie d).ring, recScope r.words = h) ∨
  (∃ c ∈ s.coreIds, ∃ x ∈ (s.getCore c).shadow, recScope x.words = h) ∨
  ∃ l ∈ s.pkg.lends, recScope l.copy.words = h

/-- R150, R160, R176, R265, R276, R277, R279, R338 to R340: once the part runs at its nominal clock, a signed image lies at its
address under a range entry of its own, and the parts of its Chart image, the handles of runs among them, join the listing it
began; a run is made of host data, and a sealed run read back; a start opens a root scope and spawns its listing there; its end
and the attestation are reported; a request that cannot be carried out is answered so. Which descriptor and which scope entry
are taken is open, and so is the signature (log entries 1 and 93); that an image takes the lowest free range entry, and what makes way for it, that Vexud
works in context 0, how the parts of a listing belong together and that CTL of a start's records asks for no graph are the
model's choices (log entry 58). -/
def Obligations.HostRequests : Prop :=
  (∀ (s : State) (kind : Nat) (dva : Word) (pa : Nat) (bytes : List Byte) (ok : Bool), s.pkg.mem.wf = true →
    let n := bytes.length
    let ev : Instr := .hostLoadImage kind dva pa bytes ok
    let refused := exec ev s = .next (reporting s (.imageLoaded false))
    let vex := s.pkg.vexud
    let nominal := vex.phase = .nominal
    let last := pa + (n - 1)
    let placed := ok = true ∧ dva.toNat % 4096 = pa % 4096 ∧ dva.toNat + n < 2 ^ 48
    let room : Prop := if kind = 2 then
        0x20000000000 ≤ pa ∧ pa + n < 0x20001000000 ∧ pa / 2 ^ 22 % 4 = s.cur.die ∧ pa % 2 ^ 22 + n ≤ 0x37E000
      else 0x10000000000 ≤ pa ∧ last < 0x10400000000 ∧ pa / 2 ^ 32 % 4 = s.cur.die ∧ last / 2 ^ 32 % 4 = s.cur.die
    let joins (image : List (Nat × Byte)) : Prop := ∀ init l, vex.listings = init ++ [l] →
      exec ev s = .next (reporting { s with pkg := { s.pkg with
        vexud := { vex with listings := init ++ [{ l with chart := l.chart ++ image }] } } } (.imageLoaded true))
    (¬nominal → exec ev s = .next s) ∧
    (nominal → ok = false ∨ (kind < 3 ∧ 2 ^ 48 ≤ dva.toNat + n) ∨ (kind < 3 ∧ ¬room) ∨ (kind < 3 ∧ dva.toNat % 4096 ≠ pa % 4096) ∨
      (3 ≤ kind ∧ vex.listings = []) ∨ (kind = 3 ∧ 0x60000 < dva.toNat + n) ∨
      (kind = 4 ∧ (0x60000 < dva.toNat + 8 ∨ vex.runs.length ≤ pa)) ∨ 5 ≤ kind → refused) ∧
    (nominal → kind = 3 → ok = true → dva.toNat + n ≤ 0x60000 → ∃ image, joins image ∧
      image.length = n ∧ ∀ i < n, image[i]? = (bytes[i]?).map fun b => (dva.toNat + i, b)) ∧
    (nominal → kind = 4 → ok = true → dva.toNat + 8 ≤ 0x60000 → ∀ h, vex.runs[pa]? = some h → ∃ image, joins image ∧
      image.length = 8 ∧ ∀ i < 8, image[i]? = some (dva.toNat + i, BitVec.ofNat 8 (h.toNat / 2 ^ (8 * i)))) ∧
    (nominal → kind < 3 → placed → room →
      let lo := dva.toNat / 4096 * 4096
      let hi := (dva.toNat + n + 4095) / 4096 * 4096
      -- a range entry that makes way: of an image that lies elsewhere under the same addresses
      let goes (x : Range) : Prop := x.attr.getLsbD 0 = true ∧ x.attr.toNat / 2 ^ 56 = 0 ∧
        x.off.toNat ≠ (pa / 4096 * 4096 + (2 ^ 48 - lo)) % 2 ^ 48 ∧ x.base.toNat < hi ∧ lo < x.limit.toNat
      let stays (j : Nat) : Prop := (s.die.range j).attr.getLsbD 0 = true ∧ ¬goes (s.die.range j)
      ∀ k < 512, ¬stays k → (∀ j < k, stays j) →
      ∃ m rs, exec ev s = .next (reporting { s with
          pkg := { s.pkg with mem := m, vexud := if kind = 0 then { vex with
            listings := vex.listings ++ [⟨s.cur.die, dva.toNat, dva.toNat + n, []⟩] } else vex }
          die := { s.die with ranges := rs } } (.imageLoaded true)) ∧ m.wf = true ∧
        (∀ i < n, m.read (pa + i) = bytes.getD i 0) ∧ (∀ a, a < pa ∨ pa + n ≤ a → m.read a = s.pkg.mem.read a) ∧
        (∀ j, j ≠ k → ¬goes (s.die.range j) → ({ s.die with ranges := rs } : Die).range j = s.die.range j) ∧
        (∀ j, j ≠ k → goes (s.die.range j) → ({ s.die with ranges := rs } : Die).range j = ⟨0, 0, 0, 0⟩) ∧
        let r := ({ s.die with ranges := rs } : Die).range k
        r.attr = (if kind = 0 then 0x19 else 0x17) ∧ r.base.toNat = lo ∧ r.limit.toNat = hi ∧
        ∀ i < n, (dva.toNat + i + r.off.toNat) % 2 ^ 48 = pa + i)) ∧
  (∀ (s : State) (base : Word) (wlog : Nat) (rs : List (List Byte)), s.pkg.mem.wf = true → s.cur.die < 4 →
    let fits := wlog ≤ 6 ∧ base.toNat % 64 = 0 ∧ rs ≠ [] ∧ ∀ b ∈ rs, b.length = 2 ^ wlog
    let free (i : Nat) : Prop := i < 8192 ∧ (s.pkg.mem.read (descAddr s.cur.die i + 5)).toNat / 16 = 0
    let count : Word := BitVec.ofNat 64 rs.length
    let nominal := s.pkg.vexud.phase = .nominal
    (¬nominal → exec (.hostCreateRun base wlog rs) s = .next s) ∧
    (nominal → ¬fits ∨ (∀ i, ¬free i) → exec (.hostCreateRun base wlog rs) s = .next (reporting s .runRefused)) ∧
    (nominal → fits → (∃ i, free i) → ∃ i, free i ∧
      let gen := if (s.pkg.desc s.cur.die i).gen = 0 then 1 else (s.pkg.desc s.cur.die i).gen
      let d : RunD := ⟨gen, .alloc, wlog, 0, Writer.none, 0, base, count, 0, (s.pkg.desc s.cur.die i).under⟩
      let h : Word := BitVec.ofNat 64 (gen * 2 ^ 48 + s.cur.die * 2 ^ 46 + i)
      (∀ e, s.writeStream ⟨s.cur.die, 0, 0, false⟩ d none 0 rs.flatten = .error e →
        exec (.hostCreateRun base wlog rs) s = .next (reporting s .runRefused)) ∧
      ∀ tr u, s.writeStream ⟨s.cur.die, 0, 0, false⟩ d none 0 rs.flatten = .ok (tr, u) →
        ∃ p, exec (.hostCreateRun base wlog rs) s = .next (reporting { s with
            pkg := { p with vexud := { s.pkg.vexud with runs := s.pkg.vexud.runs ++ [h] } }, fresh := s.fresh + 1 } (.runCreated h)) ∧
          Redescribed u.pkg p s.cur.die i { d with state := .sealed, mark := count, under := (0, 0) })) ∧
  (∀ (s : State) (h : Word),
    let refused : Prop := exec (.hostReadRun h) s = .next (reporting s (.readRefused h))
    (s.pkg.vexud.phase ≠ .nominal → exec (.hostReadRun h) s = .next s) ∧
    (s.pkg.vexud.phase = .nominal → s.run h = none → refused) ∧
    ∀ r, s.pkg.vexud.phase = .nominal → s.run h = some r → (r.state ≠ .sealed → refused) ∧
      (∀ e, r.state = .sealed → s.readStream ⟨s.cur.die, 0, 0, false⟩ r none 0 (r.mark.toNat * 2 ^ r.wlog) = .error e →
        exec (.hostReadRun h) s = .next (reporting (s.noteErr e) (.readRefused h))) ∧
      ∀ tr bs, r.state = .sealed → s.readStream ⟨s.cur.die, 0, 0, false⟩ r none 0 (r.mark.toNat * 2 ^ r.wlog) = .ok (tr, bs) →
        exec (.hostReadRun h) s = .next (reporting s
          (.runData h ((List.range r.mark.toNat).map fun k => (bs.drop (k * 2 ^ r.wlog)).take (2 ^ r.wlog))))) ∧
  (∀ s : State, s.pkg.mem.wf = true → s.cur.die < 4 →
    let entry (i : Nat) : Word := s.pkg.mem.word (0x20000380000 + s.cur.die * 0x400000 + i * 64)
    let free (i : Nat) : Prop := i < 4096 ∧ (entry i).toNat / 2 ^ 44 % 16 = 0
    let refused (recs : List Word) (replay : Option (Word × Word)) : Prop :=
      exec (.hostStart recs replay) s = .next (reporting s .startRefused)
    (s.pkg.vexud.phase ≠ .nominal → ∀ recs replay, exec (.hostStart recs replay) s = .next s) ∧
    (s.pkg.vexud.phase = .nominal → (∀ i, ¬free i) → ∀ recs replay, refused recs replay) ∧
    (s.pkg.vexud.phase = .nominal → refused [] none ∧ ∀ w ws replay, refused (w :: ws) (some replay)) ∧
    (s.pkg.vexud.phase = .nominal → (∃ i, free i) → ∃ i, free i ∧
      let g := (entry i).toNat / 2 ^ 48
      let root : Word := BitVec.ofNat 64 ((if g = 0 then 1 else g) * 2 ^ 48 + s.cur.die * 2 ^ 46 + i)
      let opened (t : State) (listing : Option Nat) : Prop :=
        t.pkg.scopeState root = some .live ∧ t.pkg.mem.word (scopeWordAt root 1) = 0 ∧ t.harts = s.harts ∧ t.hart = s.hart ∧
        t.pkg.vexud.starts = s.pkg.vexud.starts ++ [⟨s.fresh, root, listing, listing.isNone, 0, 0, 0, 0, false⟩]
      (∀ g b, ∃ t, exec (.hostStart [] (some (g, b))) s = .next t ∧ (t = reporting s .startRefused ∨
        (opened t none ∧ ∃ p ∈ t.pkg.replays, p.owner = none ∧ p.scope = root))) ∧
      ∀ r : List Word, r.length = 16 →
        -- the listing loaded last on this die that holds the code, and does not run
        let code := (r.getD 0 0).toNat % 2 ^ 48
        let holds (k : Nat) : Prop := ∃ l, s.pkg.vexud.listings[k]? = some l ∧ l.die = s.cur.die ∧ l.lo ≤ code ∧ code < l.hi
        let runs (k : Nat) : Prop := ∃ t ∈ s.pkg.vexud.starts, t.listing = some k ∧ t.reported = false
        ((∀ k, ¬holds k) → refused r none) ∧
        ∀ k, holds k → (∀ j, k < j → ¬holds j) →
          (runs k ∨ recOk (r.set 5 root) none = false → refused r none) ∧
          (¬runs k → recOk (r.set 5 root) none = true → (s.die.queue (recPrio r)).length < 512 →
            ∃ t, exec (.hostStart r none) s = .next t ∧ opened t (some k) ∧
              t.pkg.mem.word (scopeWordAt root 2) = twoCounts 0 (recTotal r) ∧
              ∀ q, q ∈ t.die.queues ↔ q ∈ s.die.queues ∨ q = ⟨r.set 5 root, 0, recTotal r, recPrio r, s.pkg.nextAge,
                s.die.cycles, none, false, none, 0, 0, some k⟩))) ∧
  (∀ (s : State) (k : Nat),
    (s.pkg.vexud.starts[k]? = none → exec (.startReport k) s = .next s) ∧
    ∀ t, s.pkg.vexud.starts[k]? = some t →
      let acked := s.pkg.scopeState t.scope = some .cancelled
      let ended : Prop :=
        if t.traps ≠ 0 then acked
        else if t.replay then acked ∨ ∀ r ∈ s.pkg.replays, r.owner ≠ none ∨ r.scope ≠ t.scope
        else ∀ h ∈ s.pkg.subtree t.scope,
          s.pkg.scopeState h ≠ some .cancelling ∧ ¬TaskIn s h
      (t.reported = true ∨ ¬ended → exec (.startReport k) s = .next s) ∧
      (t.reported = false → ended →
        let s' : State := { s with pkg := { s.pkg with vexud := { s.pkg.vexud with
          starts := s.pkg.vexud.starts.set k { t with reported := true } } } }
        let word (j : Nat) : Word := s.pkg.mem.word (scopeWordAt t.scope j)
        exec (.startReport k) s = .next (reporting s' (if t.traps = 0 then .ended t.id t.tasks
          else .cancelled t.id t.firstCause t.firstPc (t.traps - 1) [word 4, word 5, word 6])))) ∧
  ∀ (s : State) (nonce : Word),
    let caps : List Word := (List.range 4).flatMap fun d => (List.range 40).flatMap fun q => (List.range 5).map fun c =>
      s.pkg.mem.word (capWordAt d q c 0)
    let keys := s.pkg.keys.length
    let signed : List Word := [0xF900, BitVec.ofNat 64 s.pkg.id, nonce] ++ s.pkg.vexud.measurements ++ caps ++ [BitVec.ofNat 64 keys]
    exec (.attestationReport nonce) s = .next (if s.pkg.vexud.phase = .nominal then
      reporting s (.attestation 0xF900 nonce s.pkg.id s.pkg.vexud.measurements caps keys (Config.sign signed)) else s)

/-- R17, R163, R171, R317, R318, R327, R339 to R343: the phases of a start from cold, in which one image that fails keeps the module
in boot, and at whose end the poison bitmap is empty, the tables are set, the package has an ID and routes, and the clock is
nominal; the clock and the channels; the stop when the surroundings leave their limits, after which no step is taken; a code
line that arrives, the PC's first and then the next one; a port read that goes on. Where the bitmap lies, the ID and the routes
are free values (log entries 1 and 12); what cores the tables trust is log entry 45, how the clock and the surroundings act log
entry 91, and what the line buffer holds log entry 10. -/
def Obligations.StartsAndLimits : Prop :=
  (∀ s : State, s.cur.die < 4 → s.pkg.mem.wf = true →
    let vex (v : Vexud) : Pkg := { s.pkg with vexud := v }
    let clocked (t : State) (mhz : Nat) : Prop := (∀ d < 4, t.getDie d = { s.getDie d with mhz := mhz }) ∧ t.hart = s.hart ∧
      t.core = s.core ∧ t.quad = s.quad
    (s.pkg.vexud.phase = .off → ∃ t, exec .coldStart s = .next t ∧ clocked t 1200 ∧
      t.pkg = vex { s.pkg.vexud with phase := .verifying }) ∧
    (s.pkg.vexud.phase ≠ .off → exec .coldStart s = .next s) ∧
    (∀ digest, exec (.imageVerify digest true) s = .next { s with pkg := vex { s.pkg.vexud with
      measurements := s.pkg.vexud.measurements ++ [digest], verified := true } }) ∧
    (∀ digest, ∃ f, exec (.imageVerify digest false) s = .next (reporting { s with pkg := vex { s.pkg.vexud with failed := f } }
        .bootFailed) ∧ (f = true ↔ s.pkg.vexud.failed = true ∨ s.pkg.vexud.phase = .verifying)) ∧
    (let warm := s.pkg.vexud.phase = .verifying ∧ s.pkg.vexud.verified = true ∧ s.pkg.vexud.failed = false
     (warm → exec .heatingComplete s = .next { s with pkg := vex { s.pkg.vexud with phase := .training } }) ∧
     (¬warm → exec .heatingComplete s = .next s)) ∧
    (s.pkg.vexud.phase = .training → ∃ t ports, exec .lpddrTraining s = .next t ∧ clocked t 1700 ∧
      t.pkg.vexud = { s.pkg.vexud with phase := .nominal, reports := s.pkg.vexud.reports ++ [.routes ports] } ∧
      ports.length = 1024 ∧ (∀ k ∈ ports, k < 8) ∧ t.pkg.id < 1024 ∧
      t.pkg.poisonAt % 4096 = 0 ∧ t.pkg.poisonAt + 0x1080000 ≤ 2 ^ 39 ∧
      (∀ i < 0x1080000, t.pkg.mem.read (t.pkg.poisonAt + i) = 0) ∧ t.pkg.mem.wf = true ∧
      (∀ a, (a < t.pkg.poisonAt ∨ t.pkg.poisonAt + 0x1080000 ≤ a) → (∀ d < 4, ∀ e < 200, a < capAddr d 0 0 (4 * e) ∨
        capAddr d 0 0 (4 * e) + 16 ≤ a) → t.pkg.mem.read a = s.pkg.mem.read a) ∧
      ∀ d < 4, ∀ q < 40, ∀ c < 5, ∀ k < 2, t.pkg.mem.word (capWordAt d q c k) = capKinds c) ∧
    (s.pkg.vexud.phase ≠ .training → exec .lpddrTraining s = .next s) ∧
    (∀ mhz, exec (.clockStretch mhz) s = .next (if s.pkg.vexud.phase = .nominal then
      { s with die := { s.die with mhz := if mhz < 1200 then 1200 else if 1700 < mhz then 1700 else mhz } } else s)) ∧
    (∀ ch, exec (.channelRetrain ch) s = .next (if ch < 64 then
      { s with pkg := vex { s.pkg.vexud with retrained := ch :: s.pkg.vexud.retrained } } else s)) ∧
    (∃ t, exec (.environmentLimit false) s = .next t ∧ clocked t 1200 ∧ t.pkg = s.pkg) ∧
    ∃ t, exec (.environmentLimit true) s = .next t ∧ clocked t 1200 ∧ t.pkg = vex { s.pkg.vexud with stopped := true }) ∧
  (∀ s : State, s.pkg.vexud.stopped = true → step s = .fault .diesStopped) ∧
  (∀ s : State,
    let l := s.hart.pc.toNat / 64
    let fetched (l : Nat) : State := { s with hart := { s.hart with lines := (l :: s.hart.lines).take 8 } }
    (l ∉ s.hart.lines → exec .codeLineFill s = .next (fetched l)) ∧
    (l ∈ s.hart.lines → l + 1 ∉ s.hart.lines → exec .codeLineFill s = .next (fetched (l + 1))) ∧
    (l ∈ s.hart.lines → l + 1 ∈ s.hart.lines → exec .codeLineFill s = .next s)) ∧
  ∀ (s : State) (o : UOp), s.core.oldest .pipe s.cur.hid = some o →
    (o.blocked = false → exec .portReadResume s = .next s) ∧
    ∀ d p b m, o.ent.op = .vpt .rd d p b m → o.blocked = true → o.ent.dones = [] →
      (∀ k ∈ s.hart.vholds, k.id = o.ent.id → k.raced = [] ∧ k.old = []) →
      let goes := exec .portReadResume s = .next { s with core := s.core.putOp .pipe { o with blocked := false } }
      (s.run s.hart.ports[p].handle = none → goes) ∧
      ∀ r i, s.run s.hart.ports[p].handle = some r → (List.range o.ent.vl).find? (activeIn s o.ent) = some i →
        let waits := (r.state = .opened ∨ r.state = .alloc) ∧
          r.mark.toNat * 2 ^ r.wlog < s.hart.ports[p].elemByte (2 ^ r.wlog) + sewOf o.ent.vcfg / 8
        (waits → exec .portReadResume s = .next s) ∧ (¬waits → goes)

/-! ### Steps, words, invariants, reset -/

/-- The word w stands at the PC of the focused hart, and nothing goes before its issue (R17, R79, R110, R253, R266, R290, R306). -/
structure Sys2Proof.Claims.AtFront (s : State) (w : BitVec 32) : Prop where
  runs : s.hart.idle = false ∧ s.hart.stopped = false
  live : s.hart.frozen = 0
  kill : s.killDue = false
  fault : s.faultDue = none
  hold : s.hart.hold = .none
  held : s.frontHeld = false
  vector : s.defaultHandler = none
  line : s.hart.pc.toNat / 64 ∈ s.hart.lines
  watch : s.hart.hst.mode = true ∨ s.hart.watch = 0 ∨ s.hart.pc ≠ s.hart.watch
  word : s.fetchWord s.hart.pc = .ok w

/-- R17, R32, R42: a step whose turn is a front's runs the instruction that the word at its PC decodes to, and traps ILLEGAL at a
word that decodes to none; a step whose turn is an event's runs the event. The word is the four bytes that the translation of the
PC reaches, the lowest in the low bits. Whose turn it is, where the agenda leaves it open, is the model's choice (log entry 4). -/
def Obligations.StepRunsTheDecodedWord : Prop :=
  (∀ (s t : State), s.pkg.vexud.stopped = false →
    ((∃ h rest, s.agenda = .front h :: rest ∧ t = State.focus { s with agenda := rest } h) ∨
      (s.agenda = [] ∧ s.nextKill = none ∧ s.nextEvent = none ∧ ∃ h, s.nextFront = some h ∧ t = s.focus h)) →
    ∀ w, AtFront t w →
      (∀ i, decode w = some i → step s = exec i t) ∧ (decode w = none → step s = .next (t.trapHere .illegal))) ∧
  (∀ (s : State) (h : HartId) (e : Instr) (rest : List Action), s.pkg.vexud.stopped = false → s.agenda = .event h e :: rest →
    e.isEvent = true → step s = exec e (State.focus { s with agenda := rest } h)) ∧
  ∀ (s : State) (t : Tr) (pa : Nat), s.hart.pc.toNat % 4 = 0 →
    accessRun s.cur.die s.die.ranges s.pkg s.hart.xlat.1 s.hart.xlat.2 (!s.hart.hst.mode) .exec none s.hart.pc = .ok (t, pa) →
    t.keysFor s.pkg pa = none → t.keysFor s.pkg (pa + 1) = none → t.keysFor s.pkg (pa + 2) = none →
    t.keysFor s.pkg (pa + 3) = none → (∀ u ∈ s.pkg.bad, u / 64 ≠ pa / 64) →
    s.fetchWord s.hart.pc = .ok ((leWord s.pkg.mem pa 4).setWidth 32)

/-- 02_instruction_words.md and the worked examples of 02 and 06: a word of each of some formats decodes to the instruction it
stands for, and the all-zero and all-ones words to none. -/
def Obligations.TableWordsDecode : Prop :=
  decode 0x1F4F8010 = some (.ldc .d 9 30 16) ∧ decode 0x2098A580 = some (.div 12 10 11 2) ∧
  decode 0x2C000101 = some (.dly 1) ∧ decode 0x046A5200 = some (.add .d 13 9 9) ∧
  decode 0x2C038022 = some (.tkwThreshold 2 14) ∧ decode 0x2C000000 = some .nop ∧
  decode 0x42213E00 = some (.vadd 4 4 (.imm 31) 0) ∧ decode 0x45621C83 = some (.vfmul 12 8 (.scal 14) 2) ∧
  decode 0x48400018 = some (.vfwmaccBf 8 0 (.vec 0) 0) ∧ decode 0x4C110010 = some (.vfncvtBfF 2 4 0) ∧
  decode 0 = none ∧ decode 0xFFFFFFFF = none

/-- Every well-formed instruction is the decoding of its encoding, with every operand at every value that the encoding admits. -/
def Obligations.EncodedWordsDecode : Prop :=
  ∀ i : Instr, i.wellFormed = true → ∃ w, encode i = some w ∧ decode w = some i

/-- The memory of the package keeps its canonical form in every step: addresses rise, and no byte is listed that reads as an
unlisted one does. That an unlisted byte reads 0 is the model's choice (log entry 2). -/
def Obligations.MemoryStaysCanonical : Prop :=
  ∀ (s t : State), s.pkg.mem.wf = true → step s = .next t → t.pkg.mem.wf = true

/-- Right after reset the memories list nothing and are canonical, and the SEQ and mark registers of every channel are 0 (R230);
no hart holds a context, and what the focused one holds is at the values of a task's start in R12 and R106. That a hart holds
these before its first task is the model's choice (log entry 3). -/
def Obligations.ResetState : Prop :=
  let s := State.reset
  s.pkg.mem = ⟨[]⟩ ∧ s.core.chart = ⟨[]⟩ ∧ s.quad.plane = ⟨[]⟩ ∧ s.quad.tiles = ⟨[]⟩ ∧ s.pkg.mem.wf = true ∧
  (∀ h k, (s.getCore h).chans[(k : Chan)].seq = 0 ∧ (s.getCore h).chans[k].mark = 0) ∧
  (∀ h, (s.getHart h).ctx = none ∧ (s.getHart h).hst.mode = false ∧ (s.getHart h).hst.helm = decide (h.core = 4)) ∧
  (∀ r, s.hart.reg r = 0) ∧ (∀ tk, s.hart.token false tk = ⟨0, 0⟩ ∧ s.hart.token true tk = ⟨0, 0⟩) ∧
  s.hart.fcr = .rne ∧ s.hart.xst = 0 ∧ (∀ k : Fin 5, s.hart.xi[k] = BitVec.allOnes 64) ∧ s.hart.hst.rchk = true ∧
  (∀ r : VReg, s.hart.v[r] = 0) ∧ (∀ r : MReg, s.hart.m[r] = 0) ∧ s.hart.vcfg = 0 ∧ s.hart.vl = 0 ∧
  s.hart.fm = BitVec.allOnes 8192 ∧ s.hart.frags = []
end

