-- ==== Sys2Proof/Laws/State.lean ====
section
/-! SUPPORT. One lemma per field and update of the state: what the named operations that change one part leave as it was. -/
namespace Sys2Proof.Machine

section
variable (s : State)

@[simp] theorem mapHart_hart (f : Hart → Hart) : (s.mapHart f).hart = f s.hart := rfl
@[simp] theorem mapHart_cur (f : Hart → Hart) : (s.mapHart f).cur = s.cur := rfl
@[simp] theorem mapHart_core (f : Hart → Hart) : (s.mapHart f).core = s.core := rfl
@[simp] theorem mapHart_quad (f : Hart → Hart) : (s.mapHart f).quad = s.quad := rfl
@[simp] theorem mapHart_die (f : Hart → Hart) : (s.mapHart f).die = s.die := rfl
@[simp] theorem mapHart_harts (f : Hart → Hart) : (s.mapHart f).harts = s.harts := rfl
@[simp] theorem mapHart_cores (f : Hart → Hart) : (s.mapHart f).cores = s.cores := rfl
@[simp] theorem mapHart_quads (f : Hart → Hart) : (s.mapHart f).quads = s.quads := rfl
@[simp] theorem mapHart_dies (f : Hart → Hart) : (s.mapHart f).dies = s.dies := rfl
@[simp] theorem mapHart_pkg (f : Hart → Hart) : (s.mapHart f).pkg = s.pkg := rfl
@[simp] theorem mapHart_agenda (f : Hart → Hart) : (s.mapHart f).agenda = s.agenda := rfl
@[simp] theorem mapHart_fresh (f : Hart → Hart) : (s.mapHart f).fresh = s.fresh := rfl

@[simp] theorem mapCore_core (f : Core → Core) : (s.mapCore f).core = f s.core := rfl
@[simp] theorem mapCore_cur (f : Core → Core) : (s.mapCore f).cur = s.cur := rfl
@[simp] theorem mapCore_hart (f : Core → Core) : (s.mapCore f).hart = s.hart := rfl
@[simp] theorem mapCore_quad (f : Core → Core) : (s.mapCore f).quad = s.quad := rfl
@[simp] theorem mapCore_die (f : Core → Core) : (s.mapCore f).die = s.die := rfl
@[simp] theorem mapCore_harts (f : Core → Core) : (s.mapCore f).harts = s.harts := rfl
@[simp] theorem mapCore_cores (f : Core → Core) : (s.mapCore f).cores = s.cores := rfl
@[simp] theorem mapCore_quads (f : Core → Core) : (s.mapCore f).quads = s.quads := rfl
@[simp] theorem mapCore_dies (f : Core → Core) : (s.mapCore f).dies = s.dies := rfl
@[simp] theorem mapCore_pkg (f : Core → Core) : (s.mapCore f).pkg = s.pkg := rfl
@[simp] theorem mapCore_agenda (f : Core → Core) : (s.mapCore f).agenda = s.agenda := rfl
@[simp] theorem mapCore_fresh (f : Core → Core) : (s.mapCore f).fresh = s.fresh := rfl

@[simp] theorem mapQuad_quad (f : Quad → Quad) : (s.mapQuad f).quad = f s.quad := rfl
@[simp] theorem mapQuad_cur (f : Quad → Quad) : (s.mapQuad f).cur = s.cur := rfl
@[simp] theorem mapQuad_hart (f : Quad → Quad) : (s.mapQuad f).hart = s.hart := rfl
@[simp] theorem mapQuad_core (f : Quad → Quad) : (s.mapQuad f).core = s.core := rfl
@[simp] theorem mapQuad_die (f : Quad → Quad) : (s.mapQuad f).die = s.die := rfl
@[simp] theorem mapQuad_harts (f : Quad → Quad) : (s.mapQuad f).harts = s.harts := rfl
@[simp] theorem mapQuad_cores (f : Quad → Quad) : (s.mapQuad f).cores = s.cores := rfl
@[simp] theorem mapQuad_quads (f : Quad → Quad) : (s.mapQuad f).quads = s.quads := rfl
@[simp] theorem mapQuad_dies (f : Quad → Quad) : (s.mapQuad f).dies = s.dies := rfl
@[simp] theorem mapQuad_pkg (f : Quad → Quad) : (s.mapQuad f).pkg = s.pkg := rfl
@[simp] theorem mapQuad_agenda (f : Quad → Quad) : (s.mapQuad f).agenda = s.agenda := rfl
@[simp] theorem mapQuad_fresh (f : Quad → Quad) : (s.mapQuad f).fresh = s.fresh := rfl

@[simp] theorem mapDie_die (f : Die → Die) : (s.mapDie f).die = f s.die := rfl
@[simp] theorem mapDie_cur (f : Die → Die) : (s.mapDie f).cur = s.cur := rfl
@[simp] theorem mapDie_hart (f : Die → Die) : (s.mapDie f).hart = s.hart := rfl
@[simp] theorem mapDie_core (f : Die → Die) : (s.mapDie f).core = s.core := rfl
@[simp] theorem mapDie_quad (f : Die → Die) : (s.mapDie f).quad = s.quad := rfl
@[simp] theorem mapDie_harts (f : Die → Die) : (s.mapDie f).harts = s.harts := rfl
@[simp] theorem mapDie_cores (f : Die → Die) : (s.mapDie f).cores = s.cores := rfl
@[simp] theorem mapDie_quads (f : Die → Die) : (s.mapDie f).quads = s.quads := rfl
@[simp] theorem mapDie_dies (f : Die → Die) : (s.mapDie f).dies = s.dies := rfl
@[simp] theorem mapDie_pkg (f : Die → Die) : (s.mapDie f).pkg = s.pkg := rfl
@[simp] theorem mapDie_agenda (f : Die → Die) : (s.mapDie f).agenda = s.agenda := rfl
@[simp] theorem mapDie_fresh (f : Die → Die) : (s.mapDie f).fresh = s.fresh := rfl

@[simp] theorem mapPkg_pkg (f : Pkg → Pkg) : (s.mapPkg f).pkg = f s.pkg := rfl
@[simp] theorem mapPkg_cur (f : Pkg → Pkg) : (s.mapPkg f).cur = s.cur := rfl
@[simp] theorem mapPkg_hart (f : Pkg → Pkg) : (s.mapPkg f).hart = s.hart := rfl
@[simp] theorem mapPkg_core (f : Pkg → Pkg) : (s.mapPkg f).core = s.core := rfl
@[simp] theorem mapPkg_quad (f : Pkg → Pkg) : (s.mapPkg f).quad = s.quad := rfl
@[simp] theorem mapPkg_die (f : Pkg → Pkg) : (s.mapPkg f).die = s.die := rfl
@[simp] theorem mapPkg_harts (f : Pkg → Pkg) : (s.mapPkg f).harts = s.harts := rfl
@[simp] theorem mapPkg_cores (f : Pkg → Pkg) : (s.mapPkg f).cores = s.cores := rfl
@[simp] theorem mapPkg_quads (f : Pkg → Pkg) : (s.mapPkg f).quads = s.quads := rfl
@[simp] theorem mapPkg_dies (f : Pkg → Pkg) : (s.mapPkg f).dies = s.dies := rfl
@[simp] theorem mapPkg_agenda (f : Pkg → Pkg) : (s.mapPkg f).agenda = s.agenda := rfl
@[simp] theorem mapPkg_fresh (f : Pkg → Pkg) : (s.mapPkg f).fresh = s.fresh := rfl

@[simp] theorem mapMem_mem (f : Mem → Mem) : (s.mapMem f).pkg.mem = f s.pkg.mem := rfl
@[simp] theorem mapMem_cur (f : Mem → Mem) : (s.mapMem f).cur = s.cur := rfl
@[simp] theorem mapMem_hart (f : Mem → Mem) : (s.mapMem f).hart = s.hart := rfl
@[simp] theorem mapMem_core (f : Mem → Mem) : (s.mapMem f).core = s.core := rfl
@[simp] theorem mapMem_quad (f : Mem → Mem) : (s.mapMem f).quad = s.quad := rfl
@[simp] theorem mapMem_die (f : Mem → Mem) : (s.mapMem f).die = s.die := rfl
@[simp] theorem mapMem_harts (f : Mem → Mem) : (s.mapMem f).harts = s.harts := rfl
@[simp] theorem mapMem_fresh (f : Mem → Mem) : (s.mapMem f).fresh = s.fresh := rfl

@[simp] theorem mapVexud_vexud (f : Vexud → Vexud) : (s.mapVexud f).pkg.vexud = f s.pkg.vexud := rfl
@[simp] theorem mapVexud_mem (f : Vexud → Vexud) : (s.mapVexud f).pkg.mem = s.pkg.mem := rfl
@[simp] theorem mapVexud_cur (f : Vexud → Vexud) : (s.mapVexud f).cur = s.cur := rfl
@[simp] theorem mapVexud_hart (f : Vexud → Vexud) : (s.mapVexud f).hart = s.hart := rfl
@[simp] theorem mapVexud_core (f : Vexud → Vexud) : (s.mapVexud f).core = s.core := rfl
@[simp] theorem mapVexud_quad (f : Vexud → Vexud) : (s.mapVexud f).quad = s.quad := rfl
@[simp] theorem mapVexud_die (f : Vexud → Vexud) : (s.mapVexud f).die = s.die := rfl
@[simp] theorem mapVexud_harts (f : Vexud → Vexud) : (s.mapVexud f).harts = s.harts := rfl
@[simp] theorem mapVexud_cores (f : Vexud → Vexud) : (s.mapVexud f).cores = s.cores := rfl
@[simp] theorem mapVexud_quads (f : Vexud → Vexud) : (s.mapVexud f).quads = s.quads := rfl
@[simp] theorem mapVexud_dies (f : Vexud → Vexud) : (s.mapVexud f).dies = s.dies := rfl
@[simp] theorem mapVexud_agenda (f : Vexud → Vexud) : (s.mapVexud f).agenda = s.agenda := rfl
@[simp] theorem mapVexud_fresh (f : Vexud → Vexud) : (s.mapVexud f).fresh = s.fresh := rfl

@[simp] theorem report_reports (r : HostReport) : (s.report r).pkg.vexud.reports = s.pkg.vexud.reports ++ [r] := rfl
@[simp] theorem report_mem (r : HostReport) : (s.report r).pkg.mem = s.pkg.mem := rfl
@[simp] theorem report_cur (r : HostReport) : (s.report r).cur = s.cur := rfl
@[simp] theorem report_hart (r : HostReport) : (s.report r).hart = s.hart := rfl
@[simp] theorem report_core (r : HostReport) : (s.report r).core = s.core := rfl
@[simp] theorem report_quad (r : HostReport) : (s.report r).quad = s.quad := rfl
@[simp] theorem report_die (r : HostReport) : (s.report r).die = s.die := rfl
@[simp] theorem report_harts (r : HostReport) : (s.report r).harts = s.harts := rfl
@[simp] theorem report_cores (r : HostReport) : (s.report r).cores = s.cores := rfl
@[simp] theorem report_quads (r : HostReport) : (s.report r).quads = s.quads := rfl
@[simp] theorem report_dies (r : HostReport) : (s.report r).dies = s.dies := rfl
@[simp] theorem report_agenda (r : HostReport) : (s.report r).agenda = s.agenda := rfl
@[simp] theorem report_fresh (r : HostReport) : (s.report r).fresh = s.fresh := rfl

@[simp] theorem bump_hart (n : Nat) : (s.bump n).hart = s.hart := rfl
@[simp] theorem bump_cur (n : Nat) : (s.bump n).cur = s.cur := rfl
@[simp] theorem bump_core (n : Nat) : (s.bump n).core = s.core := rfl
@[simp] theorem bump_quad (n : Nat) : (s.bump n).quad = s.quad := rfl
@[simp] theorem bump_die (n : Nat) : (s.bump n).die = s.die := rfl
@[simp] theorem bump_pkg (n : Nat) : (s.bump n).pkg = s.pkg := rfl
@[simp] theorem bump_fresh (n : Nat) : (s.bump n).fresh = s.fresh + n := rfl

end

/-! ### Registers of a hart -/

section
variable (h : Hart)

@[simp] theorem regIn_zero (sup : Bool) : h.regIn sup 0 = 0 := rfl
@[simp] theorem reg_zero : h.reg 0 = 0 := rfl
@[simp] theorem setRegIn_zero (sup : Bool) (v : Word) : h.setRegIn sup 0 v = h := rfl
@[simp] theorem markS_zero (sup : Bool) (id : Nat) : h.markS sup 0 id = h := rfl
@[simp] theorem setRegIn_pc (sup : Bool) (r : SReg) (v : Word) : (h.setRegIn sup r v).pc = h.pc := by
  unfold Hart.setRegIn; split <;> [rfl; (split <;> rfl)]
@[simp] theorem setRegIn_hst (sup : Bool) (r : SReg) (v : Word) : (h.setRegIn sup r v).hst = h.hst := by
  unfold Hart.setRegIn; split <;> [rfl; (split <;> rfl)]
@[simp] theorem setRegIn_slot (sup : Bool) (r : SReg) (v : Word) : (h.setRegIn sup r v).slot = h.slot := by
  unfold Hart.setRegIn; split <;> [rfl; (split <;> rfl)]
@[simp] theorem setRegIn_infl (sup : Bool) (r : SReg) (v : Word) : (h.setRegIn sup r v).infl = h.infl := by
  unfold Hart.setRegIn; split <;> [rfl; (split <;> rfl)]
@[simp] theorem setRegIn_merges (sup : Bool) (r : SReg) (v : Word) : (h.setRegIn sup r v).merges = h.merges := by
  unfold Hart.setRegIn; split <;> [rfl; (split <;> rfl)]
@[simp] theorem setRegIn_loads (sup : Bool) (r : SReg) (v : Word) : (h.setRegIn sup r v).loads = h.loads := by
  unfold Hart.setRegIn; split <;> [rfl; (split <;> rfl)]
@[simp] theorem setRegIn_late (sup : Bool) (r : SReg) (v : Word) : (h.setRegIn sup r v).late = h.late := by
  unfold Hart.setRegIn; split <;> [rfl; (split <;> rfl)]
@[simp] theorem setRegIn_stores (sup : Bool) (r : SReg) (v : Word) : (h.setRegIn sup r v).stores = h.stores := by
  unfold Hart.setRegIn; split <;> [rfl; (split <;> rfl)]

/-- A register reads what was last written to it; s0 stays zero (R3). -/
theorem setRegIn_same (sup : Bool) (r : SReg) (v : Word) (hr : r ≠ 0) : (h.setRegIn sup r v).regIn sup r = v := by
  cases sup <;> simp [Hart.setRegIn, Hart.regIn, hr]

/-- A write leaves the other registers of its bank. -/
theorem setRegIn_other (sup : Bool) (r q : SReg) (v : Word) (hq : q ≠ r) (hb : sup = true → bankIx q ≠ bankIx r) :
    (h.setRegIn sup r v).regIn sup q = h.regIn sup q := by
  unfold Hart.setRegIn
  split
  · rfl
  · unfold Hart.regIn
    split
    · rfl
    · cases sup with
      | false =>
        have : r.val ≠ q.val := fun e => hq (Fin.ext e.symm)
        simp [this]
      | true =>
        have : (bankIx r).val ≠ (bankIx q).val := fun e => hb rfl (Fin.ext e.symm)
        simp [this]

/-- A write to one bank leaves the other. -/
theorem setRegIn_bank (sup : Bool) (r q : SReg) (v : Word) : (h.setRegIn sup r v).regIn (!sup) q = h.regIn (!sup) q := by
  unfold Hart.setRegIn
  split
  · rfl
  · unfold Hart.regIn; cases sup <;> rfl

/-- A token of a bank reads what was written. -/
@[simp] theorem setToken_same (sup : Bool) (t : Tok) (x : Token) : (h.setToken sup t x).token sup t = x := by
  cases sup <;> simp [Hart.setToken, Hart.token]

end
end Sys2Proof.Machine
end

