-- ==== Sys2Proof/Laws/Time.lean ====
section
/-! SUPPORT. What the passing of a slot can do: results in flight land, and nothing else of the machine changes (R17, R19). -/
namespace Sys2Proof.Machine

/-! ### Control registers -/

/-- Clearing QF over a frozen queue discards its head and may make its increment; nothing else but TRCAUSE changes. -/
theorem setTrcause_keeps (h : Hart) (v : Word) :
    h.setTrcause v = { h with
      trcause := v, vq := (h.setTrcause v).vq, bops := (h.setTrcause v).bops, pendS := (h.setTrcause v).pendS
      tk := (h.setTrcause v).tk, supTk := (h.setTrcause v).supTk } := by
  unfold Hart.setTrcause
  simp only
  split
  · split
    · rfl
    · split
      · split
        · rfl
        · simp only [Hart.postEnd, Hart.setToken, Hart.unmarkS]; split <;> rfl
      · rfl
  · rfl

/-- What a write of a control register may change. -/
theorem setCreg_keeps (h : Hart) (c : CReg) (v : Word) :
    h.setCreg c v = { h with
      fcr := (h.setCreg c v).fcr, xst := (h.setCreg c v).xst, xi := (h.setCreg c v).xi
      hst := { h.hst with rchk := (h.setCreg c v).hst.rchk }
      trpc := (h.setCreg c v).trpc, trcause := (h.setCreg c v).trcause, trfrom := (h.setCreg c v).trfrom
      trlg := (h.setCreg c v).trlg, vq := (h.setCreg c v).vq, bops := (h.setCreg c v).bops, pendS := (h.setCreg c v).pendS
      tk := (h.setCreg c v).tk, supTk := (h.setCreg c v).supTk } := by
  cases c <;> try rfl
  simp only [Hart.setCreg]
  rw [setTrcause_keeps]

/-! ### A slot -/

/-- What a slot leaves alone, as a relation between the state before and after. -/
structure SlotKeeps (s t : State) : Prop where
  cur : t.cur = s.cur
  core : t.core = { s.core with chart := t.core.chart, chartPoison := t.core.chartPoison }
  still : s.hart.stores = [] → t.core = s.core ∧ t.hart.stores = []
  die : t.die = s.die
  pkg : t.pkg = s.pkg
  harts : t.harts = s.harts
  cores : t.cores = s.cores
  quads : t.quads = s.quads
  dies : t.dies = s.dies
  agenda : t.agenda = s.agenda
  fresh : t.fresh = s.fresh
  tiles : t.quad.tiles = s.quad.tiles
  plane : t.quad.plane = s.quad.plane
  pc : t.hart.pc = s.hart.pc
  mode : t.hart.hst.mode = s.hart.hst.mode
  helm : t.hart.hst.helm = s.hart.hst.helm
  v : t.hart.v = s.hart.v
  m : t.hart.m = s.hart.m
  vl : t.hart.vl = s.hart.vl
  vcfg : t.hart.vcfg = s.hart.vcfg
  ports : t.hart.ports = s.hart.ports
  ctx : t.hart.ctx = s.hart.ctx
  svec : t.hart.svec = s.hart.svec
  hold : t.hart.hold = s.hart.hold

theorem SlotKeeps.refl (s : State) : SlotKeeps s s :=
  ⟨rfl, rfl, fun h => ⟨rfl, h⟩, rfl, rfl, rfl, rfl, rfl, rfl, rfl, rfl, rfl, rfl, rfl, rfl, rfl, rfl, rfl, rfl, rfl, rfl, rfl, rfl, rfl⟩

theorem SlotKeeps.trans {s t u : State} (h : SlotKeeps s t) (k : SlotKeeps t u) : SlotKeeps s u :=
  ⟨k.cur.trans h.cur, by rw [k.core, h.core], fun e => ⟨(k.still (h.still e).2).1.trans (h.still e).1, (k.still (h.still e).2).2⟩, k.die.trans h.die, k.pkg.trans h.pkg, k.harts.trans h.harts,
   k.cores.trans h.cores, k.quads.trans h.quads, k.dies.trans h.dies, k.agenda.trans h.agenda, k.fresh.trans h.fresh,
   k.tiles.trans h.tiles, k.plane.trans h.plane, k.pc.trans h.pc, k.mode.trans h.mode, k.helm.trans h.helm, k.v.trans h.v,
   k.m.trans h.m, k.vl.trans h.vl, k.vcfg.trans h.vcfg, k.ports.trans h.ports, k.ctx.trans h.ctx, k.svec.trans h.svec,
   k.hold.trans h.hold⟩

/-- A landing result keeps all that a slot keeps. -/
theorem landOne_keeps (s : State) (x : Infl) : SlotKeeps s (landOne s x) := by
  unfold landOne
  cases x.dest with
  | sreg sup r =>
    simp only [State.mapHart, Hart.setRegIn]
    constructor <;> split <;> (try split) <;> (try split) <;> first | rfl | exact fun h => ⟨rfl, h⟩
  | creg c =>
    have hk := setCreg_keeps s.hart c x.val
    simp only [State.mapHart]
    split <;> (constructor <;> first | rfl | (intro h; exact ⟨rfl, by dsimp only; rw [hk]; exact h⟩) | (dsimp only; rw [hk]))
  | mxc => constructor <;> dsimp only [State.mapHart, State.mapQuad] <;> split <;> first | rfl | exact fun h => ⟨rfl, h⟩
  | mdim => constructor <;> dsimp only [State.mapHart, State.mapQuad] <;> split <;> first | rfl | exact fun h => ⟨rfl, h⟩
  | none => constructor <;> dsimp only [State.mapHart, State.mapQuad] <;> split <;> first | rfl | exact fun h => ⟨rfl, h⟩

theorem foldl_landOne_keeps : ∀ (xs : List Infl) (s : State), SlotKeeps s (xs.foldl landOne s)
  | [], s => SlotKeeps.refl s
  | x :: xs, s => (landOne_keeps s x).trans (foldl_landOne_keeps xs (landOne s x))

/-- A landing result changes neither the time nor what else is in flight. -/
theorem landOne_time (s : State) (x : Infl) :
    (landOne s x).hart.slot = s.hart.slot ∧ (landOne s x).hart.clock = s.hart.clock ∧
    (landOne s x).hart.infl = s.hart.infl ∧ (landOne s x).hart.merges = s.hart.merges := by
  unfold landOne
  cases x.dest with
  | sreg sup r =>
    simp only [State.mapHart, Hart.setRegIn]
    refine ⟨?_, ?_, ?_, ?_⟩ <;> split <;> (try split) <;> (try split) <;> rfl
  | creg c =>
    have hk := setCreg_keeps s.hart c x.val
    simp only [State.mapHart]
    split <;> (refine ⟨?_, ?_, ?_, ?_⟩ <;> first | rfl | (dsimp only; rw [hk]))
  | mxc => refine ⟨?_, ?_, ?_, ?_⟩ <;> dsimp only [State.mapHart, State.mapQuad] <;> split <;> rfl
  | mdim => refine ⟨?_, ?_, ?_, ?_⟩ <;> dsimp only [State.mapHart, State.mapQuad] <;> split <;> rfl
  | none => refine ⟨?_, ?_, ?_, ?_⟩ <;> dsimp only [State.mapHart, State.mapQuad] <;> split <;> rfl

theorem foldl_landOne_time : ∀ (xs : List Infl) (s : State),
    (xs.foldl landOne s).hart.slot = s.hart.slot ∧ (xs.foldl landOne s).hart.clock = s.hart.clock ∧
    (xs.foldl landOne s).hart.infl = s.hart.infl ∧ (xs.foldl landOne s).hart.merges = s.hart.merges
  | [], _ => ⟨rfl, rfl, rfl, rfl⟩
  | x :: xs, s => by
    have h := foldl_landOne_time xs (landOne s x)
    have k := landOne_time s x
    exact ⟨h.1.trans k.1, h.2.1.trans k.2.1, h.2.2.1.trans k.2.2.1, h.2.2.2.trans k.2.2.2⟩

/-- What a landing result does to the scalar registers: it writes its own destination and no other. -/
theorem landOne_regIn (s : State) (x : Infl) (sup : Bool) (r : SReg)
    (hx : sup = true → ∀ q, x.dest = .sreg true q → q ≠ r → bankIx r ≠ bankIx q) :
    (landOne s x).hart.regIn sup r = if x.dest = .sreg sup r ∧ r ≠ 0 then x.val else s.hart.regIn sup r := by
  have flags : ∀ (t : State), (if x.flags = 0 then t else t.mapHart fun h => { h with xst := h.xst ||| x.flags }).hart.regIn sup r
      = t.hart.regIn sup r := by
    intro t; split <;> rfl
  unfold landOne
  rw [flags]
  cases hd : x.dest with
  | sreg sup' q =>
    have hx' := hx
    rw [hd] at hx'
    by_cases h0 : q = 0
    · subst h0
      have : ¬(Dest.sreg sup' 0 = Dest.sreg sup r ∧ r ≠ 0) := by rintro ⟨h, h'⟩; cases h; exact h' rfl
      rw [if_neg this]; rfl
    · by_cases hs : sup' = sup
      · subst hs
        by_cases hq : r = q
        · subst hq
          rw [if_pos ⟨rfl, h0⟩]
          exact setRegIn_same _ _ _ _ h0
        · have : ¬(Dest.sreg sup' q = Dest.sreg sup' r ∧ r ≠ 0) := by rintro ⟨h, -⟩; cases h; exact hq rfl
          rw [if_neg this]
          refine setRegIn_other _ _ _ _ _ hq ?_
          intro e
          subst e
          exact hx' rfl q rfl (Ne.symm hq)
      · have : ¬(Dest.sreg sup' q = Dest.sreg sup r ∧ r ≠ 0) := by rintro ⟨h, -⟩; cases h; exact hs rfl
        rw [if_neg this]
        have e : sup = !sup' := by cases sup <;> cases sup' <;> simp_all
        rw [e]
        exact setRegIn_bank _ _ _ _ _
  | creg c =>
    simp only [State.mapHart]
    rw [if_neg (by simp), setCreg_keeps]; rfl
  | mxc => simp [State.mapQuad]
  | mdim => simp [State.mapQuad]
  | none => simp

/-- No result in flight goes to the place of a supervisor register under another name. -/
def PlaceOk (xs : List Infl) (sup : Bool) (r : SReg) : Prop :=
  sup = true → ∀ x ∈ xs, ∀ q, x.dest = .sreg true q → q ≠ r → bankIx r ≠ bankIx q

theorem foldl_landOne_regIn (sup : Bool) (r : SReg) : ∀ (xs : List Infl) (s : State),
    PlaceOk xs sup r → (∀ x ∈ xs, x.dest ≠ .sreg sup r) →
    (xs.foldl landOne s).hart.regIn sup r = s.hart.regIn sup r
  | [], _, _, _ => rfl
  | x :: xs, s, hx, hn => by
    rw [List.foldl_cons, foldl_landOne_regIn sup r xs _ (fun e y hy => hx e y (List.mem_cons_of_mem _ hy))
      (fun y hy => hn y (List.mem_cons_of_mem _ hy)), landOne_regIn s x sup r (fun e => hx e x List.mem_cons_self),
      if_neg (fun h => hn x List.mem_cons_self h.1)]

/-- A flag merge changes XST and the indices, nothing else. -/
theorem mergeFlags_keeps (h : Hart) (f : FFlags) (idx : List (Option Nat)) :
    h.mergeFlags f idx = { h with xst := (h.mergeFlags f idx).xst, xi := (h.mergeFlags f idx).xi } := rfl

theorem foldl_mergeFlags_keeps (g : Merge → List (Option Nat)) : ∀ (xs : List Merge) (h : Hart),
    xs.foldl (fun h x => h.mergeFlags x.flags (g x)) h =
      { h with xst := (xs.foldl (fun h x => h.mergeFlags x.flags (g x)) h).xst
               xi := (xs.foldl (fun h x => h.mergeFlags x.flags (g x)) h).xi }
  | [], _ => rfl
  | x :: xs, h => by
    rw [List.foldl_cons, foldl_mergeFlags_keeps g xs (h.mergeFlags x.flags (g x))]
    rfl

/-- Merges that are due change XST, the indices, and what is still to merge. -/
theorem mergeDue_keeps (s : State) :
    mergeDue s = { s with hart := { s.hart with
      xst := (mergeDue s).hart.xst, xi := (mergeDue s).hart.xi, merges := (mergeDue s).hart.merges } } := by
  unfold mergeDue
  simp only
  split
  · rfl
  · simp only [State.mapHart]
    rw [foldl_mergeFlags_keeps (fun x => x.lows.map fun i => if i = 0 then none else some (i - 1))]

/-- What lands in a slot, in its order: control registers first. -/
def dueOf (h : Hart) : List Infl :=
  let due := h.infl.filter fun x => decide (x.ready ≤ h.slot)
  (due.filter fun x => x.dest.isCreg) ++ due.filter fun x => !x.dest.isCreg

theorem landDue_eq (s : State) : landDue s = (dueOf s.hart).foldl landOne
    (s.mapHart fun h => { h with infl := h.infl.filter fun x => !decide (x.ready ≤ h.slot) }) := by
  unfold landDue dueOf
  rw [List.foldl_append]

theorem mergeDue_slot (s : State) : SlotKeeps s (mergeDue s) := by
  rw [mergeDue_keeps]
  exact ⟨rfl, rfl, fun h => ⟨rfl, h⟩, rfl, rfl, rfl, rfl, rfl, rfl, rfl, rfl, rfl, rfl, rfl, rfl, rfl, rfl, rfl, rfl, rfl, rfl, rfl, rfl, rfl⟩

/-- Stores that perform change the Chart and its marks, nothing else of the core. -/
theorem foldl_performStore : ∀ (xs : List ChartStore) (c : Core),
    xs.foldl performStore c =
      { c with chart := (xs.foldl performStore c).chart, chartPoison := (xs.foldl performStore c).chartPoison }
  | [], _ => rfl
  | x :: xs, c => by rw [List.foldl_cons, foldl_performStore xs (performStore c x)]; rfl

theorem storesDue_none (s : State) (h : s.hart.stores = []) : storesDue s = s := by simp [storesDue, h]

/-- The stores that are due change the Chart and what is still to store. -/
theorem storesDue_eq (s : State) :
    storesDue s = { s with
      core := { s.core with chart := (storesDue s).core.chart, chartPoison := (storesDue s).core.chartPoison }
      hart := { s.hart with stores := (storesDue s).hart.stores } } := by
  unfold storesDue
  simp only
  split
  · rfl
  · simp only [State.mapCore, State.mapHart]
    rw [foldl_performStore]

theorem storesDue_slot (s : State) : SlotKeeps s (storesDue s) := by
  have hs : s.hart.stores = [] → (storesDue s).core = s.core ∧ (storesDue s).hart.stores = [] :=
    fun h => by rw [storesDue_none s h]; exact ⟨rfl, h⟩
  rw [storesDue_eq] at hs ⊢
  exact ⟨rfl, rfl, hs, rfl, rfl, rfl, rfl, rfl, rfl, rfl, rfl, rfl, rfl, rfl, rfl, rfl, rfl, rfl, rfl, rfl, rfl, rfl, rfl, rfl⟩

/-- What a load that performs may change: the Chart by the stores before it, what is still to store and to load, and the values of
results in flight. -/
theorem performLoad_eq (s : State) (l : ChartLoad) :
    performLoad s l = { s with
      core := { s.core with chart := (performLoad s l).core.chart, chartPoison := (performLoad s l).core.chartPoison }
      hart := { s.hart with stores := (performLoad s l).hart.stores, loads := (performLoad s l).hart.loads
                            infl := (performLoad s l).hart.infl } } := by
  unfold performLoad storesBefore
  simp only
  split
  · rfl
  · simp only [State.mapCore, State.mapHart]
    rw [foldl_performStore]

/-- A load that performs forms the value of its result in flight, and changes no result's destination or slot. -/
theorem performLoad_infl (s : State) (l : ChartLoad) :
    (performLoad s l).hart.infl.map (fun x => (x.dest, x.ready, x.flags)) = s.hart.infl.map fun x => (x.dest, x.ready, x.flags) := by
  have h : (storesBefore s l.id).hart.infl = s.hart.infl := by unfold storesBefore; simp only; split <;> rfl
  unfold performLoad
  simp only [State.mapHart, h, List.map_map]
  refine List.map_congr_left fun x _ => ?_
  simp only [Function.comp]
  split <;> rfl

theorem performLoad_slot (s : State) (l : ChartLoad) : SlotKeeps s (performLoad s l) := by
  have hs : s.hart.stores = [] → (performLoad s l).core = s.core ∧ (performLoad s l).hart.stores = [] := fun h => by
    have e : storesBefore s l.id = s := by simp [storesBefore, h]
    unfold performLoad
    rw [e]
    exact ⟨rfl, h⟩
  rw [performLoad_eq] at hs ⊢
  exact ⟨rfl, rfl, hs, rfl, rfl, rfl, rfl, rfl, rfl, rfl, rfl, rfl, rfl, rfl, rfl, rfl, rfl, rfl, rfl, rfl, rfl, rfl, rfl, rfl⟩

theorem foldl_performLoad_slot : ∀ (xs : List ChartLoad) (s : State), SlotKeeps s (xs.foldl performLoad s)
  | [], s => SlotKeeps.refl s
  | x :: xs, s => (performLoad_slot s x).trans (foldl_performLoad_slot xs (performLoad s x))

/-- What loads that perform leave alone beside that. -/
theorem foldl_performLoad_keeps : ∀ (xs : List ChartLoad) (s : State),
    (xs.foldl performLoad s).hart.slot = s.hart.slot ∧ (xs.foldl performLoad s).hart.clock = s.hart.clock ∧
    (∀ sup r, (xs.foldl performLoad s).hart.regIn sup r = s.hart.regIn sup r) ∧
    (xs.foldl performLoad s).hart.infl.map (fun x => (x.dest, x.ready, x.flags)) =
      s.hart.infl.map fun x => (x.dest, x.ready, x.flags)
  | [], _ => ⟨rfl, rfl, fun _ _ => rfl, rfl⟩
  | x :: xs, s => by
    have h := foldl_performLoad_keeps xs (performLoad s x)
    have e := performLoad_eq s x
    exact ⟨h.1.trans (by rw [e]), h.2.1.trans (by rw [e]), fun sup r => (h.2.2.1 sup r).trans (by rw [e]; rfl),
      h.2.2.2.trans (performLoad_infl s x)⟩

theorem loadsDue_none (s : State) (h : s.hart.loads = []) : loadsDue s = s := by simp [loadsDue, h]

theorem landDue_slot (s : State) : SlotKeeps s (landDue s) := by
  rw [landDue_eq]
  refine SlotKeeps.trans ?_ (foldl_landOne_keeps _ _)
  exact ⟨rfl, rfl, fun h => ⟨rfl, h⟩, rfl, rfl, rfl, rfl, rfl, rfl, rfl, rfl, rfl, rfl, rfl, rfl, rfl, rfl, rfl, rfl, rfl, rfl, rfl, rfl, rfl⟩

/-- A slot keeps everything but the registers that results in flight write, and the Chart bytes that stores reach. -/
theorem tick_keeps (s : State) : SlotKeeps s (tick s) := by
  refine SlotKeeps.trans ?_ ((foldl_performLoad_slot _ _).trans ((landDue_slot _).trans ((mergeDue_slot _).trans (storesDue_slot _))))
  exact ⟨rfl, rfl, fun h => ⟨rfl, h⟩, rfl, rfl, rfl, rfl, rfl, rfl, rfl, rfl, rfl, rfl, rfl, rfl, rfl, rfl, rfl, rfl, rfl, rfl, rfl, rfl, rfl⟩

theorem ticks_keeps : ∀ (n : Nat) (s : State), SlotKeeps s (ticks n s)
  | 0, s => SlotKeeps.refl s
  | n + 1, s => (tick_keeps s).trans (ticks_keeps n (tick s))

/-- What of the results in flight remains when those that are due have landed. -/
theorem landDue_time (s : State) : (landDue s).hart.slot = s.hart.slot ∧ (landDue s).hart.clock = s.hart.clock ∧
    (landDue s).hart.infl = s.hart.infl.filter fun x => !decide (x.ready ≤ s.hart.slot) := by
  rw [landDue_eq]
  have h := foldl_landOne_time (dueOf s.hart)
    (s.mapHart fun h => { h with infl := h.infl.filter fun x => !decide (x.ready ≤ h.slot) })
  exact ⟨h.1, h.2.1, h.2.2.1⟩

/-- The state in which a slot's loads have performed and its results are about to land. -/
def slotOpened (s : State) : State :=
  loadsDue (s.mapHart fun h => { h with slot := h.slot + 1, clock := h.clock + 1 })

theorem slotOpened_keeps (s : State) :
    (slotOpened s).hart.slot = s.hart.slot + 1 ∧ (slotOpened s).hart.clock = s.hart.clock + 1 ∧
    (∀ sup r, (slotOpened s).hart.regIn sup r = s.hart.regIn sup r) ∧
    (slotOpened s).hart.infl.map (fun x => (x.dest, x.ready, x.flags)) = s.hart.infl.map fun x => (x.dest, x.ready, x.flags) :=
  foldl_performLoad_keeps _ _

theorem tick_slot (s : State) : (tick s).hart.slot = s.hart.slot + 1 ∧ (tick s).hart.clock = s.hart.clock + 1 := by
  have k := slotOpened_keeps s
  have h := landDue_time (slotOpened s)
  unfold tick
  rw [storesDue_eq, mergeDue_keeps]
  exact ⟨h.1.trans k.1, h.2.1.trans k.2.1⟩

/-- With no load to perform, the results that are not yet due stay in flight as they are. -/
theorem tick_infl (s : State) (hl : s.hart.loads = []) :
    (tick s).hart.infl = s.hart.infl.filter fun x => !decide (x.ready ≤ s.hart.slot + 1) := by
  have e : slotOpened s = s.mapHart fun h => { h with slot := h.slot + 1, clock := h.clock + 1 } := loadsDue_none _ hl
  have h := (landDue_time (slotOpened s)).2.2
  unfold tick
  rw [storesDue_eq, mergeDue_keeps]
  exact h.trans (by rw [e]; rfl)

/-- A slot with nothing in flight only passes. -/
theorem tick_quiet (s : State) (hi : s.hart.infl = []) (hm : s.hart.merges = []) (hs : s.hart.stores = []) (hl : s.hart.loads = []) :
    tick s = { s with hart := { s.hart with slot := s.hart.slot + 1, clock := s.hart.clock + 1 } } := by
  simp [tick, loadsDue, landDue, mergeDue, storesDue, State.mapHart, hi, hm, hs, hl]

/-- A register for which nothing is in flight keeps its value over a slot. -/
theorem tick_regIn (s : State) (sup : Bool) (r : SReg) (hk : PlaceOk s.hart.infl sup r)
    (hn : ∀ x ∈ s.hart.infl, x.dest ≠ .sreg sup r) : (tick s).hart.regIn sup r = s.hart.regIn sup r := by
  have k := slotOpened_keeps s
  have hd : ∀ x ∈ dueOf (slotOpened s).hart, ∃ y ∈ s.hart.infl, y.dest = x.dest := by
    intro x hx
    have hm : x ∈ (slotOpened s).hart.infl := by
      unfold dueOf at hx
      simp only [List.mem_append, List.mem_filter] at hx
      rcases hx with h | h <;> exact h.1.1
    have := List.mem_map_of_mem (f := fun x : Infl => (x.dest, x.ready, x.flags)) hm
    rw [k.2.2.2] at this
    obtain ⟨y, hy, e⟩ := List.mem_map.1 this
    exact ⟨y, hy, congrArg Prod.fst e⟩
  unfold tick
  rw [storesDue_eq, mergeDue_keeps, landDue_eq]
  refine Eq.trans (foldl_landOne_regIn sup r (dueOf (slotOpened s).hart)
    ((slotOpened s).mapHart fun h => { h with infl := h.infl.filter fun x => !decide (x.ready ≤ h.slot) }) ?_ ?_) (k.2.2.1 sup r)
  · intro e x hx q hq
    obtain ⟨y, hy, hxy⟩ := hd x hx
    exact hk e y hy q (hxy.trans hq)
  · intro x hx hq
    obtain ⟨y, hy, hxy⟩ := hd x hx
    exact hn y hy (hxy.trans hq)

/-! ### The transfers of control -/

theorem advance_keeps (s : State) : SlotKeeps
    (s.mapHart fun h => { h with pc := h.pc + 4, held := false, atVector := false, lastTransfer := none, asked := false }) s.advance :=
  tick_keeps _

@[simp] theorem advance_pc (s : State) : s.advance.hart.pc = s.hart.pc + 4 := (advance_keeps s).pc
@[simp] theorem advance_slot (s : State) : s.advance.hart.slot = s.hart.slot + 1 := (tick_slot _).1
@[simp] theorem advance_pkg (s : State) : s.advance.pkg = s.pkg := (advance_keeps s).pkg
theorem advance_core (s : State) (h : s.hart.stores = []) : s.advance.core = s.core := ((advance_keeps s).still h).1
@[simp] theorem advance_die (s : State) : s.advance.die = s.die := (advance_keeps s).die
@[simp] theorem advance_cur (s : State) : s.advance.cur = s.cur := (advance_keeps s).cur

theorem jump_keeps (s : State) (t : Word) : SlotKeeps
    (s.mapHart fun h => { h with pc := t, held := false, atVector := false, lastTransfer := some h.pc, asked := false }) (s.jump t) :=
  ticks_keeps 3 _

@[simp] theorem jump_pc (s : State) (t : Word) : (s.jump t).hart.pc = t := (jump_keeps s t).pc

/-- Falling through with nothing in flight. -/
theorem advance_quiet (s : State) (hi : s.hart.infl = []) (hm : s.hart.merges = []) (hs : s.hart.stores = []) (hl : s.hart.loads = []) :
    s.advance = { s with hart := { s.hart with
      pc := s.hart.pc + 4, held := false, atVector := false, lastTransfer := none, asked := false
      slot := s.hart.slot + 1, clock := s.hart.clock + 1 } } := tick_quiet _ hi hm hs hl

/-- An instruction answered goes on like one that falls through, and the front may be held after it (R355). -/
theorem answered_eq (s : State) : s.answered = { s.advance with hart := { s.advance.hart with asked := true } } := by
  unfold State.answered State.mapHart; rfl

@[simp] theorem answered_pc (s : State) : s.answered.hart.pc = s.hart.pc + 4 := by rw [answered_eq]; exact advance_pc s
@[simp] theorem answered_asked (s : State) : s.answered.hart.asked = true := by rw [answered_eq]
@[simp] theorem answered_pkg (s : State) : s.answered.pkg = s.pkg := by rw [answered_eq]; exact advance_pkg s
@[simp] theorem answered_die (s : State) : s.answered.die = s.die := by rw [answered_eq]; exact advance_die s

end Sys2Proof.Machine
end

