-- ==== Sys2Proof/Laws/Issue.lean ====
section
/-! SUPPORT. What the issue of a word does when its checks pass: the shared shapes of Issue.lean, each said once. -/
namespace Sys2Proof.Machine
open Sys2Proof.Claims

theorem wordCheck_bit (s : State) (k : Nat) (h : s.useMask.getLsbD k = true) : s.wordCheck (Need.bit k) = none := by
  simp [State.wordCheck, Need.bit, Need.covered, h]

theorem wordCheck_vec (s : State) (k : Nat) (hh : s.hart.hst.helm = false) (h : s.useMask.getLsbD k = true) :
    s.wordCheck (Need.vec k) = none := by
  simp [State.wordCheck, Need.vec, Need.covered, h, hh]

theorem wordCheck_priv (s : State) (hm : s.hart.hst.mode = true) (h : s.useMask.getLsbD 0 = true) :
    s.wordCheck Need.privileged = none := by
  simp [State.wordCheck, Need.privileged, Need.covered, h, hm]

/-- A word whose checks pass has its own effect. -/
theorem issue_runs (n : Need) (srcs dsts : List SReg) (body : State → State) (s : State) (hc : s.wordCheck n = none)
    (hf : Free s (srcs ++ dsts)) : issue n srcs dsts body s = body s := by
  have h : (srcs ++ dsts).find? s.hart.pendingReg = none := by
    rw [List.find?_eq_none]
    intro r hr
    simp [hf r hr]
  unfold issue
  rw [hc]
  simp only [h]

/-- A word one of whose checks fails traps. -/
theorem issue_traps (n : Need) (srcs dsts : List SReg) (body : State → State) (s : State) (c : Cause)
    (hc : s.wordCheck n = some c) : issue n srcs dsts body s = s.trapHere c := by
  unfold issue
  rw [hc]

/-- A word with a register still pending traps RACE in checked mode, with the first such register in AUX (R27). -/
theorem issue_races (n : Need) (srcs dsts : List SReg) (body : State → State) (s : State) (r : SReg)
    (hc : s.wordCheck n = none) (hr : (srcs ++ dsts).find? s.hart.pendingReg = some r) (hk : s.hart.hst.rchk = true) :
    issue n srcs dsts body s = s.trapHere .race r.val := by
  unfold issue
  rw [hc]
  simp only [hr, hk, if_true]

theorem infl_free (h : Hart) (r : SReg) (hr : r ≠ 0) (hp : h.pendingReg r = false) :
    ∀ x ∈ h.infl, x.dest ≠ .sreg (inSupBank h.hst.mode r) r := by
  intro x hx hd
  simp only [Hart.pendingReg, Bool.and_eq_false_iff, decide_eq_false_iff_not, not_not, Bool.or_eq_false_iff, List.any_eq_false,
    decide_eq_true_eq] at hp
  rcases hp with h0 | ⟨h1, -⟩
  · exact hr h0
  · exact h1 x hx hd

theorem pendS_free (h : Hart) (r : SReg) (hr : r ≠ 0) (hp : h.pendingReg r = false) :
    ∀ p ∈ h.pendS, ¬(p.1 = inSupBank h.hst.mode r ∧ p.2.1 = r) := by
  intro p hx hd
  simp only [Hart.pendingReg, Bool.and_eq_false_iff, decide_eq_false_iff_not, not_not, Bool.or_eq_false_iff, List.any_eq_false,
    decide_eq_true_eq] at hp
  rcases hp with h0 | ⟨-, h1⟩
  · exact hr h0
  · exact h1 p hx hd

/-- A source that is free gives the register's value. -/
theorem src_free (s : State) (r : SReg) (h : s.hart.pendingReg r = false) : s.src r = s.hart.reg r := by
  have hn : (s.hart.infl.filter fun x => decide (x.dest = .sreg (inSupBank s.hart.hst.mode r) r ∧ r ≠ 0)) = [] := by
    rw [List.filter_eq_nil_iff]
    intro x hx
    by_cases hr : r = 0
    · simp [hr]
    · simpa [hr] using infl_free s.hart r hr h x hx
  have hf : (if r = 0 then none else s.formed (inSupBank s.hart.hst.mode r) r) = none := by
    by_cases hr : r = 0
    · simp [hr]
    · have hq : s.hart.pendS.find? (fun p => decide (p.1 = inSupBank s.hart.hst.mode r ∧ p.2.1 = r)) = none := by
        rw [List.find?_eq_none]
        intro p hp
        simpa using pendS_free s.hart r hr h p hp
      rw [if_neg hr, State.formed, hq]; rfl
  unfold State.src
  simp only [hn, hf]
  rfl

/-- A write of a free register puts its result in flight. -/
theorem writeReg_free (s : State) (d : SReg) (v : Word) (L : Nat) (h : s.hart.pendingReg d = false) :
    s.writeReg d v L = withResult s d v L := by
  unfold State.writeReg withResult
  by_cases hd : d = 0
  · simp [hd]
  · have h1 : (s.hart.infl.filter fun x => !decide (x.dest = .sreg (inSupBank s.hart.hst.mode d) d)) = s.hart.infl := by
      rw [List.filter_eq_self]
      intro x hx
      simpa using infl_free s.hart d hd h x hx
    have h2 : (s.hart.pendS.filter fun p => !decide (p.1 = inSupBank s.hart.hst.mode d ∧ p.2.1 = d)) = s.hart.pendS := by
      rw [List.filter_eq_self]
      intro p hp
      simp only [Bool.not_eq_true', decide_eq_false_iff_not]
      exact pendS_free s.hart d hd h p hp
    simp only [hd, h, State.mapHart, h1, h2, if_false, Bool.false_and]
    rfl

theorem raise_eq (s : State) (f : FFlags) (L : Nat) : s.raise f L = withFlags s f L := rfl

/-- An instruction of fixed latency whose checks pass. -/
theorem issueReg_runs (n : Need) (srcs : List SReg) (d : SReg) (L : Nat) (f : State → Word) (s : State)
    (hc : s.wordCheck n = none) (hf : Free s (srcs ++ [d])) : issueReg n srcs d L f s = (withResult s d (f s) L).advance := by
  unfold issueReg
  rw [issue_runs n srcs [d] _ s hc hf, writeReg_free s d _ L (hf d (by simp))]

/-- The same with flags. -/
theorem issueFp_runs (n : Need) (srcs : List SReg) (d : SReg) (L : Nat) (f : State → Word × FFlags) (s : State)
    (hc : s.wordCheck n = none) (hf : Free s (srcs ++ [d])) :
    issueFp n srcs d L f s = (withFlags (withResult s d (f s).1 L) (f s).2 L).advance := by
  unfold issueFp
  rw [issue_runs n srcs [d] _ s hc hf, writeReg_free s d _ L (hf d (by simp)), raise_eq]

/-- A conditional transfer whose checks pass. -/
theorem issueBranch_runs (srcs : List SReg) (off : BitVec 13) (taken : State → Bool) (s : State)
    (hc : s.wordCheck (Need.bit 0) = none) (hf : Free s srcs) :
    issueBranch srcs off taken s = if taken s then s.jump (s.hart.pc + (off.signExtend 64) * 4) else s.advance := by
  unfold issueBranch
  rw [issue_runs _ srcs [] _ s hc (by simpa using hf)]

theorem Free.mono {s : State} {rs qs : List SReg} (h : Free s rs) (hq : ∀ r ∈ qs, r ∈ rs) : Free s qs :=
  fun r hr => h r (hq r hr)

theorem full_false (s : State) (h : MayPost s) : s.hart.full = false := by
  have h' : s.hart.outstanding < 64 := h
  exact decide_eq_false (by simp only [Config.maxPosts]; omega)

theorem markDest_free (s : State) (d : SReg) (id : Nat) (h : s.hart.pendingReg d = false) :
    s.markDest d id = if d = 0 then s else { s with hart := { s.hart with
      pendS := s.hart.pendS ++ [(inSupBank s.hart.hst.mode d, d, id)] } } := by
  unfold State.markDest
  by_cases hd : d = 0
  · simp [hd]
  · have h1 : (s.hart.infl.filter fun x => !decide (x.dest = .sreg (inSupBank s.hart.hst.mode d) d)) = s.hart.infl := by
      rw [List.filter_eq_self]
      intro x hx
      simpa using infl_free s.hart d hd h x hx
    have h2 : (s.hart.pendS.filter fun p => !decide (p.1 = inSupBank s.hart.hst.mode d ∧ p.2.1 = d)) = s.hart.pendS := by
      rw [List.filter_eq_self]
      intro p hp
      simp only [Bool.not_eq_true', decide_eq_false_iff_not]
      exact pendS_free s.hart d hd h p hp
    simp only [hd, h, State.mapHart, h1, h2, if_false, Bool.false_and, Hart.markS]
    rfl

theorem postBegin_eq (s : State) (t : Tok) : s.hart.postBegin s.hart.hst.mode t = posting s (some t) none := by
  unfold Hart.postBegin Hart.setToken Hart.token posting
  cases s.hart.hst.mode <;> rfl

/-- A posting operation that is no queue entry, its destination free (R22). -/
theorem post_runs (s : State) (tk : Tok) (d : Option SReg) (start : Nat → State → State) (hp : MayPost s)
    (hd : ∀ r, d = some r → s.hart.pendingReg r = false) :
    s.post tk d start =
      ((start (opId s) { s with hart := posting s (some tk) d }).bump 65).advance := by
  unfold State.post
  rw [full_false s hp]
  cases d with
  | none =>
    simp only [State.mapHart, Bool.false_eq_true, if_false, Hart.sup, postBegin_eq]; rfl
  | some r =>
    simp only [Bool.false_eq_true, if_false, markDest_free s r _ (hd r rfl)]
    by_cases h0 : r = 0
    · simp only [h0, if_true, State.mapHart, Hart.sup, postBegin_eq]; rfl
    · simp only [h0, if_false, State.mapHart, Hart.sup, Hart.postBegin, Hart.setToken, Hart.token, posting]
      cases s.hart.hst.mode <;> rfl

/-- An entry joins the queue. -/
theorem push_eq (s : State) (op : VOp) (sv : List Word) (tok : Option Tok)
    (hd : ∀ r, op.sdest = some r → s.hart.pendingReg r = false) :
    s.push op sv tok = entered s op sv tok op.sdest (op.bop (queued s op sv tok)) := by
  unfold State.push
  have he : s.entry op sv tok = queued s op sv tok := rfl
  simp only [he]
  cases hs : op.sdest with
  | none =>
    simp only [State.mapHart, State.bump, entered]
    cases tok with
    | none => rfl
    | some t => simp only [Hart.sup, postBegin_eq]; cases h : s.hart.hst.mode <;> simp [posting, h]
  | some r =>
    have hm := markDest_free s r (queued s op sv tok).id (hd r hs)
    simp only [hm]
    by_cases h0 : r = 0
    · simp only [h0, if_true, State.mapHart, State.bump, entered]
      cases tok with
      | none => simp [posting]
      | some t => simp only [Hart.sup, postBegin_eq]; cases h : s.hart.hst.mode <;> simp [posting, h]
    · simp only [h0, if_false, State.mapHart, State.bump, entered, queued, posting, Hart.sup, Hart.postBegin, Hart.setToken,
        Hart.token]
      cases tok with
      | none => rfl
      | some t => cases s.hart.hst.mode <;> rfl

/-- An instruction's entry joins the queue when nothing keeps it out. -/
theorem enqueue_runs (s : State) (op : VOp) (sv : List Word) (tok : Option Tok) (k : Nat) (h : Enters s op tok)
    (hd : ∀ r, op.sdest = some r → s.hart.pendingReg r = false) :
    s.enqueue op sv tok k =
      ticks (k - 1) (entered s op sv tok op.sdest (op.bop (queued s op sv tok))).advance := by
  unfold State.enqueue
  have hr := h.room
  have hq : ¬(Config.queueEntries ≤ s.hart.vq.length) := by simp only [Config.queueEntries]; omega
  have hf : (tok.isSome && s.hart.full) = false := by
    cases ht : tok.isSome
    · rfl
    · rw [full_false s (h.post ht)]; rfl
  simp only [h.thawed, hf, hq, Bool.false_eq_true, if_false]
  rw [push_eq s op sv tok hd]

/-- A vector instruction whose checks pass enters the queue with its scalar operands as read at issue (R102). -/
theorem issueVector_runs (n : Need) (srcs : List SReg) (op : VOp) (tok : Option Tok) (own : State → Option Cause) (s : State)
    (hc : s.wordCheck n = none) (hf : Free s (srcs ++ op.sdest.toList)) (h : Enters s op tok) (ho : own s = none) :
    issueVector n srcs op tok own s =
      (entered s op (srcs.map s.hart.reg) tok op.sdest (op.bop (queued s op (srcs.map s.hart.reg) tok))).advance := by
  have hs : srcs.map s.src = srcs.map s.hart.reg := by
    apply List.map_congr_left
    intro r hr
    exact src_free s r (hf r (by simp [hr]))
  unfold issueVector
  rw [issue_runs n srcs op.sdest.toList _ s hc hf]
  simp only [h.operands, ho, Bool.not_true, Bool.false_eq_true, if_false, hs]
  rw [enqueue_runs s op _ tok 1 h (fun r hr => hf r (by simp [hr]))]
  rfl

/-- Little-endian words: the model's number is the bytes' concatenation. -/
theorem leWord_eq (m : Mem) : ∀ (n a : Nat), n ≤ 8 → leWord m a n = wordOf (m.readLE a n)
  | 0, _, _ => by simp [leWord, Mem.readLE, Mem.bytes, leNat, wordOf]
  | n + 1, a, h => by
    rw [leWord, leWord_eq m n (a + 1) (by omega)]
    apply BitVec.eq_of_toNat_eq
    have hb : (m.read a).toNat < 256 := (m.read a).isLt
    have e : m.readLE a (n + 1) = (m.read a).toNat + 256 * m.readLE (a + 1) n := rfl
    rw [BitVec.toNat_or, BitVec.toNat_shiftLeft, BitVec.toNat_setWidth, wordOf, wordOf, BitVec.toNat_ofNat, BitVec.toNat_ofNat, e]
    have h2 : (m.readLE (a + 1) n % 2 ^ 64) <<< 8 % 2 ^ 64 = (m.readLE (a + 1) n % 2 ^ 56) <<< 8 := by
      rw [Nat.shiftLeft_eq, Nat.shiftLeft_eq]; omega
    rw [h2, Nat.mod_eq_of_lt (by omega : (m.read a).toNat < 2 ^ 64), ← Nat.shiftLeft_add_eq_or_of_lt (by omega : (m.read a).toNat < 2 ^ 8),
      Nat.shiftLeft_eq]
    omega

end Sys2Proof.Machine
end

