-- ==== Sys2Proof/Laws/Late.lean ====
section
/-! SUPPORT. What a completion that is still to come, and its being made, can change (R22, R111, R355). -/
namespace Sys2Proof.Machine

@[simp] theorem postLate_core (s : State) (o : Owner) (v : Option Word) : (s.postLate o v).core = s.core := rfl
@[simp] theorem postLate_quad (s : State) (o : Owner) (v : Option Word) : (s.postLate o v).quad = s.quad := rfl
@[simp] theorem postLate_pkg (s : State) (o : Owner) (v : Option Word) : (s.postLate o v).pkg = s.pkg := rfl
@[simp] theorem postLate_late (s : State) (o : Owner) (v : Option Word) :
    (s.postLate o v).hart.late = s.hart.late ++ [⟨o.seq, o.sup, o.tok, v⟩] := rfl
@[simp] theorem postLate_pendS (s : State) (o : Owner) (v : Option Word) : (s.postLate o v).hart.pendS = s.hart.pendS := rfl

/-- A completion changes scalar registers, tokens and what is pending, and nothing else of the hart (R22). -/
theorem complete_keeps (h : Hart) (x : Late) :
    h.complete x = { h with
      s := (h.complete x).s, supS := (h.complete x).supS, tk := (h.complete x).tk, supTk := (h.complete x).supTk
      pendS := (h.complete x).pendS } := by
  unfold Hart.complete Hart.postEnd Hart.setToken Hart.completeS Hart.unmarkS Hart.setRegIn
  cases x.val <;> cases x.sup <;> grind

@[simp] theorem complete_late (h : Hart) (x : Late) : (h.complete x).late = h.late := by rw [complete_keeps]

theorem foldl_complete_late : ∀ (xs : List Late) (h : Hart), (xs.foldl Hart.complete h).late = h.late
  | [], _ => rfl
  | x :: xs, h => (foldl_complete_late xs (h.complete x)).trans (complete_late h x)

/-- Completions that are made change one hart and leave core, quad, die and package (R22). -/
theorem lateDue_keeps (s : State) :
    (lateDue s).core = s.core ∧ (lateDue s).quad = s.quad ∧ (lateDue s).die = s.die ∧ (lateDue s).pkg = s.pkg := by
  unfold lateDue
  simp only
  split <;> simp

/-- What no merge holds back is made: only completions that an older merge still holds are left (R111). -/
theorem lateDue_left (s : State) : ∀ x ∈ (lateDue s).hart.late, s.mergesAt s.cur x.id = true := by
  unfold lateDue
  simp only
  split
  next h => simpa [List.isEmpty_iff] using h
  next h => simp [foldl_complete_late]

end Sys2Proof.Machine
end

