-- ==== Sys2Proof/Laws/Memory.lean ====
section
/-! SUPPORT. The laws of byte memory: what a write changes, and that every memory operation keeps the canonical form. -/
namespace Sys2Proof.Machine

/-! ### One byte -/

/-- A byte written is read back; every other address reads as before. -/
theorem cellsRead_write : ∀ (l : List Host.Cell) (lo a b : Nat) (v : Byte), cellsWf lo l = true →
    cellsRead (cellsWrite l a v) b = if b = a then v else cellsRead l b
  | [], lo, a, b, v, _ => by
    by_cases hv : v = Mem.unlisted <;> by_cases hb : b = a <;> simp [cellsWrite, cellsRead, hv, hb]
  | (c, u) :: rest, lo, a, b, v, h => by
    have hr : cellsWf (c + 1) rest = true := by simp [cellsWf] at h; exact h.2
    have ih := cellsRead_write rest (c + 1) a b v hr
    have low : ∀ (m : List Host.Cell) (k x : Nat), cellsWf k m = true → x < k → cellsRead m x = Mem.unlisted := by
      intro m
      induction m with
      | nil => intros; rfl
      | cons p m ihm =>
        obtain ⟨y, w⟩ := p
        intro k x hk hx
        simp [cellsWf] at hk
        have hy : x ≠ y := by omega
        simp only [cellsRead, hy, if_false]
        exact ihm (y + 1) x hk.2 (by omega)
    unfold cellsWrite
    by_cases h1 : a < c
    · by_cases hv : v = Mem.unlisted
      · simp only [h1, hv, if_true]
        by_cases hb : b = a
        · have : a ≠ c := by omega
          simp only [cellsRead, hb, this, if_false, if_true]
          exact low rest (c + 1) a hr (by omega)
        · simp [hb]
      · simp only [h1, hv, if_true, if_false]
        by_cases hb : b = a <;> simp [cellsRead, hb]
    · by_cases h2 : a = c
      · subst h2
        by_cases hv : v = Mem.unlisted
        · simp only [lt_irrefl, hv, if_true, if_false]
          by_cases hb : b = a
          · subst hb; simp only [if_true]; exact low rest (b + 1) b hr (by omega)
          · simp [cellsRead, hb]
        · simp only [lt_irrefl, hv, if_true, if_false]
          by_cases hb : b = a <;> simp [cellsRead, hb]
      · simp only [h1, h2, if_false]
        by_cases hb : b = c
        · have : b ≠ a := by omega
          simp [cellsRead, hb, Ne.symm h2]
        · simp only [cellsRead, hb, if_false]
          exact ih

/-- A list in canonical form above an address is so above a lower one. -/
theorem cellsWf_le (m : List Host.Cell) (k k' : Nat) (hk : k' ≤ k) (hm : cellsWf k m = true) : cellsWf k' m = true := by
  cases m with
  | nil => rfl
  | cons p m => simp [cellsWf] at hm ⊢; exact ⟨⟨by omega, hm.1.2⟩, hm.2⟩

/-- A write keeps the canonical form. -/
theorem cellsWf_write : ∀ (l : List Host.Cell) (lo a : Nat) (v : Byte), cellsWf lo l = true → lo ≤ a →
    cellsWf lo (cellsWrite l a v) = true
  | [], lo, a, v, _, ha => by
    unfold cellsWrite; split <;> simp_all [cellsWf]
  | (c, u) :: rest, lo, a, v, h, ha => by
    simp [cellsWf] at h
    obtain ⟨⟨h1, h2⟩, h3⟩ := h
    unfold cellsWrite
    split
    · split
      · simp [cellsWf, h1, h2, h3]
      · simp_all [cellsWf]
    · split
      · split
        · exact cellsWf_le rest (c + 1) lo (by omega) h3
        · subst_vars; simp_all [cellsWf]
      · have := cellsWf_write rest (c + 1) a v h3 (by omega)
        simp [cellsWf, h1, h2, this]

theorem Mem.wf_write (m : Mem) (a : Nat) (v : Byte) (h : m.wf = true) : (m.write a v).wf = true :=
  cellsWf_write m.cells 0 a v h (Nat.zero_le a)

theorem Mem.read_write (m : Mem) (a b : Nat) (v : Byte) (h : m.wf = true) :
    (m.write a v).read b = if b = a then v else m.read b := cellsRead_write m.cells 0 a b v h

/-! ### Bytes back at what is unlisted -/

theorem cellsWf_filter (q : Host.Cell → Bool) : ∀ (l : List Host.Cell) (lo : Nat), cellsWf lo l = true → cellsWf lo (l.filter q) = true
  | [], _, _ => rfl
  | (c, u) :: rest, lo, h => by
    simp [cellsWf] at h
    obtain ⟨⟨h1, h2⟩, h3⟩ := h
    have ih := cellsWf_filter q rest (c + 1) h3
    by_cases hq : q (c, u) = true
    · simp [List.filter_cons, hq, cellsWf, h1, h2, ih]
    · simp only [List.filter_cons, hq]; exact cellsWf_le _ (c + 1) lo (by omega) ih

theorem cellsRead_filter (q : Nat → Bool) (x : Nat) : ∀ (l : List Host.Cell),
    cellsRead (l.filter fun c => q c.1) x = if q x then cellsRead l x else Mem.unlisted
  | [] => by simp [cellsRead]
  | (c, u) :: rest => by
    have ih := cellsRead_filter q x rest
    by_cases hx : x = c
    · subst hx
      by_cases hq : q x = true <;> simp_all [List.filter_cons, cellsRead]
    · by_cases hq : q c = true <;> simp_all [List.filter_cons, cellsRead]

/-- Clearing keeps the canonical form. -/
theorem Mem.wf_clear (m : Mem) (a n : Nat) (h : m.wf = true) : (m.clear a n).wf = true := cellsWf_filter _ m.cells 0 h

/-- Clearing changes the bytes named and no other. -/
theorem Mem.read_clear (m : Mem) (a n x : Nat) : (m.clear a n).read x = if a ≤ x ∧ x < a + n then Mem.unlisted else m.read x := by
  have h := cellsRead_filter (fun c => !decide (a ≤ c ∧ c < a + n)) x m.cells
  unfold Mem.read Mem.clear
  rw [h]
  by_cases hx : a ≤ x ∧ x < a + n <;> simp [hx]

/-! ### Several bytes -/

theorem Mem.wf_putBytes : ∀ (bs : List Byte) (m : Mem) (a : Nat), m.wf = true → (m.putBytes a bs).wf = true
  | [], _, _, h => h
  | b :: bs, m, a, h => Mem.wf_putBytes bs (m.write a b) (a + 1) (m.wf_write a b h)

/-- What a memory reads after bytes have been put from an address on. -/
theorem Mem.read_putBytes : ∀ (bs : List Byte) (m : Mem) (a x : Nat), m.wf = true →
    (m.putBytes a bs).read x = if a ≤ x ∧ x < a + bs.length then bs.getD (x - a) 0 else m.read x
  | [], m, a, x, _ => by
    simp [Mem.putBytes]
  | b :: bs, m, a, x, h => by
    rw [Mem.putBytes, Mem.read_putBytes bs _ _ _ (m.wf_write a b h), m.read_write a x b h]
    by_cases h1 : x = a
    · subst h1; simp
    · by_cases h2 : a + 1 ≤ x ∧ x < a + 1 + bs.length
      · have h3 : a ≤ x ∧ x < a + (b :: bs).length := by simp; omega
        have h4 : x - a = (x - (a + 1)) + 1 := by omega
        simp only [h2, h3, and_self, if_true, h4, List.getD_cons_succ]
      · have h3 : ¬(a ≤ x ∧ x < a + (b :: bs).length) := by simp; omega
        simp only [h2, h3, if_false, h1]

@[simp] theorem leBytes_length (v n : Nat) : (leBytes v n).length = n := by
  induction n generalizing v with
  | zero => rfl
  | succ n ih => simp [leBytes, ih]

theorem leBytes_getD : ∀ (n v k : Nat), k < n → (leBytes v n).getD k 0 = BitVec.ofNat 8 (v / 256 ^ k)
  | n + 1, v, 0, _ => by simp [leBytes]
  | n + 1, v, k + 1, h => by
    rw [leBytes, List.getD_cons_succ, leBytes_getD n (v / 256) k (by omega), Nat.div_div_eq_div_mul, pow_succ, Nat.mul_comm]

theorem Mem.wf_writeLE (m : Mem) (a n v : Nat) (h : m.wf = true) : (m.writeLE a n v).wf = true :=
  Mem.wf_putBytes _ m a h
theorem Mem.wf_setWord (m : Mem) (a : Nat) (v : Word) (h : m.wf = true) : (m.setWord a v).wf = true :=
  Mem.wf_writeLE m a 8 v.toNat h

/-- A store of n bytes lays them down lowest first (R4) and leaves every other address alone. -/
theorem Mem.read_writeLE (m : Mem) (a n v x : Nat) (h : m.wf = true) :
    (m.writeLE a n v).read x = if a ≤ x ∧ x < a + n then BitVec.ofNat 8 (v / 256 ^ (x - a)) else m.read x := by
  rw [Mem.writeLE, Mem.read_putBytes _ _ _ _ h, leBytes_length]
  by_cases hx : a ≤ x ∧ x < a + n
  · rw [if_pos hx, if_pos hx, leBytes_getD n v (x - a) (by omega)]
  · rw [if_neg hx, if_neg hx]

theorem leNat_bytes_lt (m : Mem) : ∀ (n a : Nat), m.readLE a n < 256 ^ n
  | 0, _ => by simp [Mem.readLE, Mem.bytes, leNat]
  | n + 1, a => by
    have h := leNat_bytes_lt m n (a + 1)
    have hb : (m.read a).toNat < 256 := (m.read a).isLt
    simp only [Mem.readLE, Mem.bytes, leNat] at h ⊢
    rw [pow_succ]; omega

/-- Byte k of a value read is the byte at the address plus k (R4). -/
theorem Mem.readLE_byte (m : Mem) : ∀ (n a k : Nat), k < n → m.readLE a n / 256 ^ k % 256 = (m.read (a + k)).toNat
  | n + 1, a, 0, _ => by
    have hb : (m.read a).toNat < 256 := (m.read a).isLt
    simp only [Mem.readLE, Mem.bytes, leNat, pow_zero, Nat.div_one, Nat.add_zero]; omega
  | n + 1, a, k + 1, h => by
    have ih := Mem.readLE_byte m n (a + 1) k (by omega)
    have hb : (m.read a).toNat < 256 := (m.read a).isLt
    simp only [Mem.readLE, Mem.bytes, leNat] at ih ⊢
    rw [pow_succ, Nat.mul_comm (256 ^ k) 256, ← Nat.div_div_eq_div_mul,
      show ((m.read a).toNat + 256 * leNat (m.bytes (a + 1) n)) / 256 = leNat (m.bytes (a + 1) n) by omega, ih]
    congr 2; omega

/-- A word written is read back. -/
theorem Mem.word_setWord (m : Mem) (a : Nat) (v : Word) (h : m.wf = true) : (m.setWord a v).word a = v := by
  have key : ∀ n, n ≤ 8 → (m.setWord a v).readLE a n = v.toNat % 256 ^ n := by
    have gen : ∀ n b, b + n ≤ 8 → (m.setWord a v).readLE (a + b) n = v.toNat / 256 ^ b % 256 ^ n := by
      intro n
      induction n with
      | zero => intro b _; simp [Mem.readLE, Mem.bytes, leNat, Nat.mod_one]
      | succ n ih =>
        intro b hb
        have h1 := ih (b + 1) (by omega)
        have h2 := Mem.read_writeLE m a 8 v.toNat (a + b) h
        rw [if_pos (by omega), show a + b - a = b by omega] at h2
        simp only [Mem.readLE, Mem.bytes, leNat] at h1 ⊢
        rw [← Nat.add_assoc] at h1
        rw [h1, Mem.setWord, h2, BitVec.toNat_ofNat, pow_succ 256 b, ← Nat.div_div_eq_div_mul, pow_succ 256 n,
          Nat.mul_comm (256 ^ n) 256, Nat.mod_mul]
    intro n hn
    simpa using gen n 0 (by omega)
  have := key 8 (le_refl 8)
  rw [Mem.word, this]
  apply BitVec.eq_of_toNat_eq
  have hv := v.isLt
  rw [BitVec.toNat_ofNat]
  omega

end Sys2Proof.Machine
end

