-- ==== Sys2Proof/Tests/Slice0.lean ====
section
/-! SUPPORT. Tests: every word of the opcode table from its fields, ill-formed terms, single steps with values worked out by hand from
the spec, and for each statement a state that meets what it assumes (`hyp_<name>`). -/
namespace Sys2Proof.Tests
open Sys2Proof Sys2Proof.Machine Sys2Proof.Claims
set_option maxRecDepth 100000
set_option Elab.async false

/-! ### Words of the opcode table -/

theorem test_decode_sop : ([0x044CB800, 0x0554B801, 0x065CB802, 0x074CB803, 0x0454B804, 0x055CB805, 0x064C9610, 0x07548C11,
      0x045C8A52, 0x054CAA13, 0x0654B814, 0x075CB815, 0x044CB816, 0x0554B817, 0x065CB818, 0x074CB819, 0x0454B81A, 0x055CB81B,
      0x064CB81C, 0x0754B81D, 0x045CB81E, 0x054CB81F, 0x0654B820, 0x075CB821, 0x044CB822, 0x0554B823] : List (BitVec 32)).map
      decode =
        ([.add .d 9 18 28, .sub .w 10 18 28, .and .h 11 18 28, .or .b 9 18 28, .xor .d 10 18 28, .andn .w 11 18 28, .slli .h 9
      18 11, .srli .b 10 18 6, .srai .d 11 18 37, .rori .w 9 18 21, .sll .h 10 18 28, .srl .b 11 18 28, .sra .d 9 18 28, .ror .w
      10 18 28, .slt .h 11 18 28, .sltu .b 9 18 28, .seq .d 10 18 28, .min .w 11 18 28, .max .h 9 18 28, .minu .b 10 18 28,
      .maxu .d 11 18 28, .sel .w 9 18 28, .mul .h 10 18 28, .mulh .b 11 18 28, .mulhu .d 9 18 28, .mulhsu .w 10 18 28] : List
      Instr).map some := by
  decide +kernel

theorem test_decode_sim : ([0x084C9005, 0x0954BFFC, 0x0A5C9007, 0x0B4CBFFA] : List (BitVec 32)).map decode =
    ([.addi 9 18 4101, .andi 10 18 16380, .ori 11 18 4103, .xori 9 18 16378] : List Instr).map some := by
  decide +kernel

theorem test_decode_sui : ([0x0C4A0005, 0x0D57FFFC] : List (BitVec 32)).map decode =
    ([.lhi 9 131077, .adpc 10 524284] : List Instr).map some := by
  decide +kernel

theorem test_decode_sbr : ([0x104B8805, 0x10CB9FFC, 0x114B8807, 0x11CB9FFA, 0x124B8809, 0x12CB9FF8] : List (BitVec 32)).map
      decode =
        ([.beq 18 28 2053, .bne 18 28 8188, .blt 18 28 2055, .bge 18 28 8186, .bltu 18 28 2057, .bgeu 18 28 8184] : List
      Instr).map some := by
  decide +kernel

theorem test_decode_sj : ([0x1500000A, 0x17FFFFF9] : List (BitVec 32)).map decode =
    ([.j 8388613, .call 33554428] : List Instr).map some := by
  decide +kernel

theorem test_decode_sjr : ([0x184C8000] : List (BitVec 32)).map decode =
    ([.jr 9 18] : List Instr).map some := by
  decide +kernel

theorem test_decode_scm : ([0x1C4C8405, 0x1D549FFC, 0x1E5CA407] : List (BitVec 32)).map decode =
    ([.ldc .b 9 18 1029, .ldcs .h 10 18 4092, .stc .w 11 18 1031] : List Instr).map some := by
  decide +kernel

theorem test_decode_sll : ([0x21532E00, 0x21952E01, 0x21D72E02, 0x22132E03, 0x22552E04, 0x22972E05, 0x22D32E06, 0x23152E07,
      0x23572008, 0x23932009] : List (BitVec 32)).map decode =
        ([.div 9 18 28 5, .divu 10 18 28 6, .rem 11 18 28 7, .remu 9 18 28 8, .divw 10 18 28 9, .divuw 11 18 28 10, .remw 9 18
      28 11, .remuw 10 18 28 12, .isqrt 11 18 13, .fsqrt 9 18 14] : List Instr).map some := by
  decide +kernel

theorem test_decode_sfp : ([0x244CB800, 0x2454B801, 0x245CB802, 0x244CB803, 0x2454B804, 0x245CB805, 0x244CB810, 0x2454B811,
      0x245CB812, 0x244CB813, 0x2454B814, 0x245CB815, 0x244CB816, 0x2454B817, 0x245C8018, 0x244C8020, 0x24548021, 0x245C8022,
      0x244C8023, 0x24548024, 0x245C8025, 0x244C8026, 0x24548027] : List (BitVec 32)).map decode =
        ([.fadd 9 18 28, .fsub 10 18 28, .fmul 11 18 28, .fmadd 9 18 28, .fmsub 10 18 28, .fnmsub 11 18 28, .feq 9 18 28, .flt
      10 18 28, .fle 11 18 28, .fmin 9 18 28, .fmax 10 18 28, .fsgnj 11 18 28, .fsgnjn 9 18 28, .fsgnjx 10 18 28, .fclass 11 18,
      .cvtfs 9 18, .cvtfu 10 18, .cvtfsz 11 18, .cvtfuz 9 18, .cvtsf 10 18, .cvtuf 11 18, .cvtfh 9 18, .cvthf 10 18] : List
      Instr).map some := by
  decide +kernel

theorem test_decode_scr : ([0x28481200, 0x28548201, 0x285CA002, 0x284CB403] : List (BitVec 32)).map decode =
    ([.crr 9 .vcfg, .crw 10 .xst 18, .crset 11 .trpc 18, .crclr 9 (.trlg 2) 18] : List Instr).map some := by
  decide +kernel

theorem test_decode_tim : ([0x2C000000, 0x2C002501, 0x2C048072, 0x2C000083, 0x2C500094, 0x2C0480A5] : List (BitVec 32)).map
      decode =
    ([.nop, .dly 37, .tkwThreshold 7 18, .tkwDrain 8, .tkr 10 9, .tkc 10 18] : List Instr).map some := by
  decide +kernel

theorem test_decode_vin : ([0x404CB840, 0x4154B881, 0x425CB8C2, 0x404CB903, 0x4154B944, 0x425CB985, 0x404CB9C6, 0x4154B847,
      0x425CB888, 0x404838C9, 0x4054B910, 0x415CB951, 0x404CB992, 0x4154B9D3, 0x405CB854, 0x404CB898, 0x4154B8D9, 0x425CB91A,
      0x404CB95B, 0x4154B99C, 0x425CB9DD, 0x404CB85E, 0x4154B89F, 0x415CB8E0, 0x404CB921, 0x4154B962, 0x405CB9A3, 0x414CB9E4,
      0x4054B865, 0x425CB8A6, 0x404CB8E7] : List (BitVec 32)).map decode =
        ([.vadd 9 18 (.vec 28) 1, .vsub 10 18 (.scal 28) 2, .vrsub 11 18 (.imm 28) 3, .vand 9 18 (.vec 28) 4, .vor 10 18 (.scal
      28) 5, .vxor 11 18 (.imm 28) 6, .vsll 9 18 (.vec 28) 7, .vsrl 10 18 (.scal 28) 1, .vsra 11 18 (.imm 28) 2, .vmv 9 (.vec
      28) 3, .vmul 10 18 (.vec 28) 4, .vmulh 11 18 (.scal 28) 5, .vmulhu 9 18 (.vec 28) 6, .vmulhsu 10 18 (.scal 28) 7, .vmacc
      11 18 (.vec 28) 1, .vmin 9 18 (.vec 28) 2, .vmax 10 18 (.scal 28) 3, .vminu 11 18 (.imm 28) 4, .vmaxu 9 18 (.vec 28) 5,
      .vsadd 10 18 (.scal 28) 6, .vsaddu 11 18 (.imm 28) 7, .vssub 9 18 (.vec 28) 1, .vssubu 10 18 (.scal 28) 2, .vwadd 11 18
      (.scal 28) 3, .vwaddu 9 18 (.vec 28) 4, .vwsub 10 18 (.scal 28) 5, .vwsubu 11 18 (.vec 28) 6, .vwmul 9 18 (.scal 28) 7,
      .vwmulu 10 18 (.vec 28) 1, .vnsra 11 18 (.imm 28) 2, .vnclip 9 18 (.vec 28) 3] : List Instr).map some := by
  decide +kernel

theorem test_decode_vfa : ([0x444CB840, 0x4554B881, 0x445CB8C2, 0x454CB903, 0x4454B944, 0x455CB985, 0x444CB9C6, 0x4554B847,
      0x445CB888, 0x444C80C9, 0x4454B920, 0x455CB961, 0x444CB9A2, 0x4554B9E3, 0x445CB864, 0x454CB8A5, 0x4454B8E6, 0x455CB927,
      0x444CB968, 0x445481A9, 0x445CB9F0, 0x454CB871, 0x4454B8B2, 0x455CB8F3, 0x444CB934] : List (BitVec 32)).map decode =
        ([.vfadd 9 18 (.vec 28) 1, .vfsub 10 18 (.scal 28) 2, .vfrsub 11 18 (.vec 28) 3, .vfmul 9 18 (.scal 28) 4, .vfmin 10 18
      (.vec 28) 5, .vfmax 11 18 (.scal 28) 6, .vfsgnj 9 18 (.vec 28) 7, .vfsgnjn 10 18 (.scal 28) 1, .vfsgnjx 11 18 (.vec 28) 2,
      .vfclass 9 18 3, .vfaddBf 10 18 (.vec 28) 4, .vfsubBf 11 18 (.scal 28) 5, .vfrsubBf 9 18 (.vec 28) 6, .vfmulBf 10 18
      (.scal 28) 7, .vfminBf 11 18 (.vec 28) 1, .vfmaxBf 9 18 (.scal 28) 2, .vfsgnjBf 10 18 (.vec 28) 3, .vfsgnjnBf 11 18 (.scal
      28) 4, .vfsgnjxBf 9 18 (.vec 28) 5, .vfclassBf 10 18 6, .vfwaddBf 11 18 (.vec 28) 7, .vfwsubBf 9 18 (.scal 28) 1,
      .vfwmulBf 10 18 (.vec 28) 2, .vfwaddWbf 11 18 (.scal 28) 3, .vfwsubWbf 9 18 (.vec 28) 4] : List Instr).map some := by
  decide +kernel

theorem test_decode_vfm : ([0x484CB840, 0x4954B881, 0x485CB8C2, 0x494CB903, 0x4854B944, 0x495CB990, 0x484CB9D1, 0x4954B852,
      0x485CB893, 0x494CB8D4, 0x4854B918, 0x495CB959, 0x484CB99A, 0x4954B9DB] : List (BitVec 32)).map decode =
        ([.vfmacc 9 18 (.vec 28) 1, .vfnmacc 10 18 (.scal 28) 2, .vfmsac 11 18 (.vec 28) 3, .vfnmsac 9 18 (.scal 28) 4, .vfmadd
      10 18 (.vec 28) 5, .vfmaccBf 11 18 (.scal 28) 6, .vfnmaccBf 9 18 (.vec 28) 7, .vfmsacBf 10 18 (.scal 28) 1, .vfnmsacBf 11
      18 (.vec 28) 2, .vfmaddBf 9 18 (.scal 28) 3, .vfwmaccBf 10 18 (.vec 28) 4, .vfwnmaccBf 11 18 (.scal 28) 5, .vfwmsacBf 9 18
      (.vec 28) 6, .vfwnmsacBf 10 18 (.scal 28) 7] : List Instr).map some := by
  decide +kernel

theorem test_decode_vcv : ([0x4C4C8040, 0x4C548081, 0x4C5C80C2, 0x4C4C8103, 0x4C548144, 0x4C5C8185, 0x4C4C81C6, 0x4C548047,
      0x4C5C8088, 0x4C4C80C9, 0x4C54810A, 0x4C5C8150, 0x4C4C8191, 0x4C5481D2, 0x4C5C8053, 0x4C4C80A0, 0x4C5480E1, 0x4C5C8122,
      0x4C4C8163, 0x4C5481A4, 0x4C5C81E5] : List (BitVec 32)).map decode =
        ([.vfcvtXF 9 18 1, .vfcvtXuF 10 18 2, .vfcvtRtzXF 11 18 3, .vfcvtRtzXuF 9 18 4, .vfcvtFX 10 18 5, .vfcvtFXu 11 18 6,
      .vfcvtXBf 9 18 7, .vfcvtBfX 10 18 1, .vfwcvtFBf 11 18 2, .vfwcvtXF 9 18 3, .vfwcvtFX 10 18 4, .vfncvtBfF 11 18 5,
      .vfncvtXF 9 18 6, .vfncvtXuF 10 18 7, .vfncvtFX 11 18 1, .vsext2 9 18 2, .vzext2 10 18 3, .vsext4 11 18 4, .vzext4 9 18 5,
      .vsext8 10 18 6, .vzext8 11 18 7] : List Instr).map some := by
  decide +kernel

theorem test_decode_vcp : ([0x502CB840, 0x512CB881, 0x522CB8C2, 0x502CB903, 0x512CB944, 0x522CB985, 0x502CB9C6, 0x512CB847,
      0x502CB890, 0x512CB8D1, 0x502CB912, 0x512CB953, 0x502CB994, 0x512CB9D5, 0x502CB858, 0x512CB899, 0x502CB8DA, 0x512CB91B,
      0x502CB95C, 0x512CB99D] : List (BitVec 32)).map decode =
        ([.vmseq 5 18 (.vec 28) 1, .vmsne 5 18 (.scal 28) 2, .vmslt 5 18 (.imm 28) 3, .vmsltu 5 18 (.vec 28) 4, .vmsle 5 18
      (.scal 28) 5, .vmsleu 5 18 (.imm 28) 6, .vmsgt 5 18 (.vec 28) 7, .vmsgtu 5 18 (.scal 28) 1, .vmfeq 5 18 (.vec 28) 2,
      .vmfne 5 18 (.scal 28) 3, .vmflt 5 18 (.vec 28) 4, .vmfle 5 18 (.scal 28) 5, .vmfgt 5 18 (.vec 28) 6, .vmfge 5 18 (.scal
      28) 7, .vmfeqBf 5 18 (.vec 28) 1, .vmfneBf 5 18 (.scal 28) 2, .vmfltBf 5 18 (.vec 28) 3, .vmfleBf 5 18 (.scal 28) 4,
      .vmfgtBf 5 18 (.vec 28) 5, .vmfgeBf 5 18 (.scal 28) 6] : List Instr).map some := by
  decide +kernel

theorem test_decode_vmk : ([0x5428CC40, 0x5428CC81, 0x5428CCC2, 0x5428CD03, 0x5428CD44, 0x5428CD85, 0x5428CDC6, 0x5428CC47,
      0x5428C088, 0x5428C0C9, 0x5428C10A, 0x5458C14B, 0x5448018C, 0x5450C1D0, 0x5458C051] : List (BitVec 32)).map decode =
        ([.vmand 5 3 6 1, .vmor 5 3 6 2, .vmxor 5 3 6 3, .vmandn 5 3 6 4, .vmorn 5 3 6 5, .vmnand 5 3 6 6, .vmnor 5 3 6 7,
      .vmxnor 5 3 6 1, .vmsbf 5 3 2, .vmsif 5 3 3, .vmsof 5 3 4, .viota 11 3 5, .vid 9 6, .vmpopc 10 3 7, .vmfirst 11 3 1] :
      List Instr).map some := by
  decide +kernel

theorem test_decode_vpm : ([0x59532E10, 0x59952E21, 0x59D72E32, 0x5A132E43, 0x5A552E54, 0x5A972E65, 0x5AD32306, 0x5B152E07,
      0x5B572028, 0x5B932039] : List (BitVec 32)).map decode =
        ([.vrgather 9 18 28 1 5, .vrgatherx 10 18 28 2 6, .vslideup 11 18 28 3 7, .vslidedown 9 18 28 4 8, .vslide1up 10 18 28 5
      9, .vslide1down 11 18 28 6 10, .vcompress 9 18 6 11, .vmvxs 10 18 28 12, .vmvsx 11 18 2 13, .vrev 9 18 3 14] : List
      Instr).map some := by
  decide +kernel

theorem test_decode_vrd : ([0x5D532E10, 0x5D952E21, 0x5DD72E32, 0x5E132E43, 0x5E552E54, 0x5E972E65, 0x5ED32E76, 0x5F152E17,
      0x5F572E28, 0x5F932E39, 0x5FD52E4A, 0x5D572E5B, 0x5D932E6C, 0x5DD52E7D, 0x5E172E1E, 0x5E532E2F] : List (BitVec 32)).map
      decode =
        ([.vredoFsum 9 18 28 1 5, .vredoFmax 10 18 28 2 6, .vredoFmin 11 18 28 3 7, .vredoBfsum 9 18 28 4 8, .vredoSum 10 18 28
      5 9, .vredoMax 11 18 28 6 10, .vredoMin 9 18 28 7 11, .vredoMinu 10 18 28 1 12, .vredtFsum 11 18 28 2 13, .vredtFmax 9 18
      28 3 14, .vredtFmin 10 18 28 4 15, .vredtBfsum 11 18 28 5 5, .vredtSum 9 18 28 6 6, .vredtMax 10 18 28 7 7, .vredtMin 11
      18 28 1 8, .vredtMaxu 9 18 28 2 9] : List Instr).map some := by
  decide +kernel

theorem test_decode_vso : ([0x61532000, 0x61952001, 0x61D72002, 0x62132003, 0x62552004, 0x62972005, 0x62D32E06, 0x63152E07,
      0x63572E08, 0x63932E39, 0x63CB200A] : List (BitVec 32)).map decode =
        ([.vsortu 9 18 5, .vsorts 10 18 6, .vsortf 11 18 7, .vsortkvu 9 18 8, .vsortkvs 10 18 9, .vsortkvf 11 18 10, .vmergeu 9
      18 28 11, .vmerges 10 18 28 12, .vmergef 11 18 28 13, .vtag 9 18 28 3 14, .vsegm 5 18 15] : List Instr).map some := by
  decide +kernel

theorem test_decode_vcf : ([0x644C8000, 0x6454B801] : List (BitVec 32)).map decode =
    ([.vsetvl 9 18, .vcfg 10 18 28] : List Instr).map some := by
  decide +kernel

theorem test_decode_vct : ([0x68140805, 0x68801FFC, 0x6948A807] : List (BitVec 32)).map decode =
    ([.vbr 5 2053, .vjoin 8188, .vloop 18 5 2055] : List Instr).map some := by
  decide +kernel

theorem test_decode_vcm : ([0x6D532010, 0x6D952E21, 0x6DD72E32, 0x6E132043, 0x6E552E54, 0x6E972E65, 0x6ED32078, 0x6F152E19] :
      List (BitVec 32)).map decode =
        ([.vldc 9 18 1 5, .vldcs 10 18 28 2 6, .vldcx 11 18 28 3 7, .vstc 9 18 4 8, .vstcs 10 18 28 5 9, .vstcx 11 18 28 6 10,
      .vstp 9 18 7 11, .vstpb 10 18 28 1 12] : List Instr).map some := by
  decide +kernel

theorem test_decode_vts : ([0x71487840, 0x71513881, 0x7159F8C2, 0x7148F903, 0x7151B944, 0x7158B985] : List (BitVec 32)).map
      decode =
        ([.vtrdr 9 1 28 1, .vtrdc 10 4 28 2, .vtrdrz 11 7 28 3, .vtrdcz 9 3 28 4, .vtwrr 10 6 28 5, .vtwrc 11 2 28 6] : List
      Instr).map some := by
  decide +kernel

theorem test_decode_run : ([0x804CB800, 0x80548001, 0x805C8002, 0x804C8003, 0x80548004, 0x805CB805] : List (BitVec 32)).map
      decode =
    ([.rmk 9 18 28, .rseal 10 18, .rrel 11 18, .rmark 9 18, .rhdr 10 18, .rview 11 18 28] : List Instr).map some := by
  decide +kernel

theorem test_decode_prt : ([0x844CB800, 0x84510001, 0x8459C002, 0x8448F803, 0x84518004, 0x84588005, 0x84494006] : List (BitVec
      32)).map decode =
        ([.pbind 9 18 28, .punbind 10 4, .pseal 11 7, .pseek 9 3 28, .ppos 10 6, .pstat 11 2, .phnd 9 5] : List Instr).map some
      := by
  decide +kernel

theorem test_decode_vpt : ([0x89521010, 0x89944021, 0x89D67032, 0x8A123043, 0x8A546E04, 0x8A962E05, 0x8AD25E06, 0x8B141E07,
      0x8B564008, 0x8B927009, 0x8BD43E0A, 0x89566E0B, 0x8992200C] : List (BitVec 32)).map decode =
        ([.vprd 9 1 1 5, .vprdff 10 4 2 6, .vpwr 11 7 3 7, .vppeek 9 3 4 8, .vprdnF 10 6 28 9, .vprdnBf 11 2 28 10, .vprdnffF 9
      5 28 11, .vprdnffBf 10 1 28 12, .vprdnC 11 4 13, .vprdnffC 9 7 14, .vpwrnF 10 3 28 15, .vpwrnBf 11 6 28 5, .vpwrnC 9 2 6]
      : List Instr).map some := by
  decide +kernel

theorem test_decode_bcn : ([0x8D4D3200, 0x8C115201, 0x8DD57202, 0x8E193203, 0x8E5D5204, 0x8EBD7205, 0x8EFD3206] : List (BitVec
      32)).map decode =
        ([.bld 9 18 3 5, .bst 10 18 4, .bstk 11 18 5 7, .vbld 9 18 6 8, .vbst 10 18 7 9, .bldsc 11 18 10, .bstsc 9 18 11] : List
      Instr).map some := by
  decide +kernel

theorem test_decode_atm : ([0x914D32E0, 0x919152E1, 0x91D572E2, 0x921932E3, 0x925D52E4, 0x92A172E5, 0x92E532E6, 0x932952E7] :
      List (BitVec 32)).map decode =
        ([.aadd 9 18 28 3 5, .amax 10 18 28 4 6, .amin 11 18 28 5 7, .aswp 9 18 28 6 8, .acas 10 18 28 7 9, .amaxe 11 18 28 8
      10, .amine 9 18 28 9 11, .vamaxe 10 18 28 10 12] : List Instr).map some := by
  decide +kernel

theorem test_decode_syn : ([0x94001200, 0x9590B2E1] : List (BitVec 32)).map decode =
    ([.fenc 18, .vwait 5 18 28 4 6] : List Instr).map some := by
  decide +kernel

theorem test_decode_cpy : ([0xA1432400, 0xA1852601, 0xA1C72802, 0xA2121003, 0xA2542004, 0xA2963E05, 0xA2D21006, 0xA3142007] :
      List (BitVec 32)).map decode =
        ([.cprr 1 18 1 5, .cprc 2 18 2 6, .cprp 3 18 3 7, .cpmark 9 1 8, .cpseq 10 2 9, .cpstat 11 3 28 10, .cpretry 9 1 11,
      .cpabort 10 2 12] : List Instr).map some := by
  decide +kernel

theorem test_decode_srt : ([0xA5532E00, 0xA5952E01, 0xA5D72E02, 0xA6132E03, 0xA6552E04, 0xA6972005] : List (BitVec 32)).map
      decode =
        ([.ssort 9 18 28 5, .smerge 10 18 28 6, .sjoin 11 18 28 7, .stag 9 18 28 8, .sprog 10 18 28 9, .sabort 11 18 10] : List
      Instr).map some := by
  decide +kernel

theorem test_decode_mcf : ([0xB04CB800, 0xB054B801, 0xB05C8002, 0xB04C8003] : List (BitVec 32)).map decode =
    ([.mcfg 9 18 28, .msetl 10 18 28, .men 11 18, .mdis 9 18] : List Instr).map some := by
  decide +kernel

theorem test_decode_mop : ([0xB5432E00, 0xB5892E01, 0xB5CE0002] : List (BitVec 32)).map decode =
    ([.mma 1 18 28 5, .mmaz 4 18 28 6, .mzero 7 7] : List Instr).map some := by
  decide +kernel

theorem test_decode_tsk : ([0xC0264000, 0xC0000001, 0xC02C0002, 0xC0240003] : List (BitVec 32)).map decode =
    ([.tspawn 9 18, .tretire, .tscope 11, .titer 9] : List Instr).map some := by
  decide +kernel

theorem test_decode_scp : ([0xC4264000, 0xC42A4001, 0xC42E5C02, 0xC4264003, 0xC42A5C04, 0xC42C0005] : List (BitVec 32)).map
      decode =
    ([.sopen 9 18, .scancel 10 18, .swait 11 18 28, .sclose 9 18, .sread 10 18 28, .sself 11] : List Instr).map some := by
  decide +kernel

theorem test_decode_grp : ([0xC8132E00, 0xC8152E01, 0xC8172E02, 0xC8132003, 0xCA552E04, 0xC8172005] : List (BitVec 32)).map
      decode =
        ([.grbeg 9 18 28, .gadd 10 18 28, .gdep 11 18 28, .grend 9 18, .grplay 10 18 28 9, .gfree 11 18] : List Instr).map some
      := by
  decide +kernel

theorem test_decode_bar : ([0xCCA64000, 0xCD2A5C01, 0xCDAE4002] : List (BitVec 32)).map decode =
    ([.bjoin .core 9 18, .bwait .quad 10 18 28, .bleave .die 11 18] : List Instr).map some := by
  decide +kernel

theorem test_decode_sys : ([0xE0000000, 0xE0000001, 0xE0048010, 0xE04C8011, 0xE0548012, 0xE05C8013, 0xE04CB814, 0xE0548015,
      0xE05C8016, 0xE04C8017, 0xE054B818, 0xE05CB819] : List (BitVec 32)).map decode =
        ([.scall, .brk, .sret 18, .svec 9 18, .swatch 10 18, .subr 11 18, .subw 9 18 28, .ctxsave 10 18, .ctxrest 11 18,
      .ctxdrop 9 18, .spool 10 18 28, .sring 11 18 28] : List Instr).map some := by
  decide +kernel

theorem test_decode_xlt : ([0xE44CB800, 0xE454B801, 0xE45CB802, 0xE44CB803, 0xE454B804] : List (BitVec 32)).map decode =
    ([.xrng 9 18 28, .xrrd 10 18 28, .xctx 11 18 28, .xinv 9 18 28, .xpois 10 18 28] : List Instr).map some := by
  decide +kernel

theorem test_decode_lne : ([0xE84C8000, 0xE8548001, 0xE85C8002, 0xE84C8003, 0xE8548004] : List (BitVec 32)).map decode =
    ([.lrecl 9 18, .lgive 10 18, .lspare 11 18, .lmir 9 18, .lstat 10 18] : List Instr).map some := by
  decide +kernel

theorem test_decode_col : ([0xEEA65C00, 0xEEAA4001, 0xEEAE4002, 0xEEA40003, 0xEEAA4004] : List (BitVec 32)).map decode =
    ([.cform 9 18 28, .callr 10 18, .cabort 11 18, .cid 9, .lkstat 10 18] : List Instr).map some := by
  decide +kernel

/-! ### Small states -/

/-- A user context that may use every class. -/
def task : Ctx :=
  { id := 1, use := 0xFFFFFF, scope := 0, iter := 0, tctx := 0, root := 0, cwLen := 0, cwBase := 0, graph := none, block := (0, 0)
    age := 0, faults := [], lostFaults := 0, lost := false }

/-- The first hart with that context. -/
def user : State := { State.reset with hart := { State.reset.hart with ctx := some task } }

/-- A state with its hart changed. -/
def alter (s : State) (f : Hart → Hart) : State := { s with hart := f s.hart }

/-- A state with registers set, in user mode. -/
def withRegs (s : State) (l : List (SReg × Word)) : State :=
  alter s fun h => { h with s := l.foldl (fun v p => v.set p.1 p.2) h.s }

/-- The state with a word in the shared memory. -/
def poke (s : State) (a : Nat) (v : Word) : State := { s with pkg := { s.pkg with mem := s.pkg.mem.setWord a v } }

/-- The first hart in supervisor mode, its core holding every capability. -/
def sup : State := poke (alter user fun h => { h with hst := { h.hst with mode := true } }) (capAddr 0 0 0 0) 0xFFFFFF

/-- The helm core's hart with the context. -/
def helm : State := { user with cur := ⟨0, 0, 4, 0⟩, hart := { Hart.reset ⟨0, 0, 4, 0⟩ with ctx := some task } }

/-- A core without spare lanes at hand to a user that declares nothing. -/
def bare : State := alter user fun h => { h with ctx := some { task with use := 0 } }

theorem free_of {s : State} (h : s.hart.infl = []) (h' : s.hart.pendS = []) (rs : List SReg) : Free s rs := by
  intro r _
  simp [Hart.pendingReg, h, h']

theorem issues_of {s : State} {bit : Nat} (hb : s.useMask.getLsbD bit = true) (h : s.hart.infl = []) (h' : s.hart.pendS = [])
    (rs : List SReg) : Issues s bit rs := ⟨hb, free_of h h' rs⟩

theorem issues_user {bit : Nat} (hb : user.useMask.getLsbD bit = true) (rs : List SReg) : Issues user bit rs :=
  issues_of hb rfl rfl rs

theorem priv_sup (rs : List SReg) : IssuesPrivileged sup rs := ⟨rfl, by decide +kernel, free_of rfl rfl rs⟩

/-! ### What the statements assume is met -/

theorem hyp_IntegerRegisterResults : Issues user 0 [2, 3, 1] ∧ Issues user 1 [2, 3, 1] ∧ Issues user 0 [2, 1] ∧
    (63 : Fin 64).val < Size.bits .d ∧ (7 : Fin 64).val < Size.bits .b :=
  ⟨issues_user (by decide +kernel) _, issues_user (by decide +kernel) _, issues_user (by decide +kernel) _, by decide, by decide⟩

theorem hyp_ImmediateResults : Issues user 0 [2, 1] := issues_user (by decide +kernel) _

theorem hyp_BranchesAndJumps : Issues user 0 [1, 2] ∧ Issues user 0 [] ∧ Issues user 0 [31] ∧ Issues user 0 [2, 1] ∧
    Issues user 0 [1] ∧ ((0x13000000 : BitVec 32).extractLsb' 26 6 = 4 ∧ 6 ≤ ((0x13000000 : BitVec 32).extractLsb' 23 3).toNat) ∧
    (user.hart.reg 2).toNat % 4 = 0 ∧ ¬((withRegs user [(2, 6)]).hart.reg 2).toNat % 4 = 0 :=
  ⟨issues_user (by decide +kernel) _, issues_user (by decide +kernel) _, issues_user (by decide +kernel) _,
    issues_user (by decide +kernel) _, issues_user (by decide +kernel) _, by decide, by decide +kernel, by decide +kernel⟩

theorem hyp_ResultReadableAfterItsLatency : (1 : SReg) ≠ 0 ∧ 1 ≤ 3 ∧ user.hart.pendingReg 1 = false ∧
    ∀ x ∈ user.hart.infl, ∀ q, x.dest = .sreg true q → q.val % 4 = (1 : SReg).val % 4 → q = 1 :=
  ⟨by decide, by decide, by decide +kernel, by intro x hx; cases hx⟩

theorem hyp_ScalarWordsLeaveTheRest : scalarDest (.addi 1 2 5) = some [1] ∧
    (∃ t, exec (.addi 1 2 5) user = .next t ∧ t.hart.held = false ∧ t.hart.atVector = false) ∧
    (3 : SReg) ∉ ([1] : List SReg) ∧ user.hart.pendingReg 3 = false ∧ Quiet user ∧
    ∀ x ∈ user.hart.infl, ∀ q, x.dest = .sreg true q → q.val % 4 = (3 : SReg).val % 4 → q = 3 :=
  ⟨rfl, ⟨_, rfl, by decide +kernel, by decide +kernel⟩, by decide, by decide +kernel, ⟨rfl, rfl, rfl, rfl⟩, by intro x hx; cases hx⟩

/-- A scalar Chart store that has issued and is due in the slot given. -/
def storing (due : Nat) : State := alter user fun h => { h with stores := [⟨1, 8, 8, 5, due⟩, ⟨2, 16, 4, 6, 9⟩] }

/-- A load of s5 that has issued and is due in the slot given, its result on the way. -/
def loadUnder (due : Nat) : State := alter user fun h =>
  { h with loads := [⟨1, 8, 8, false, false, 5, due⟩], infl := [{ dest := .sreg false 5, val := 0, ready := due, flags := 0 }] }

theorem hyp_ScalarChartAccess :
    Quiet user ∧ user.core.chart.wf = true ∧
    Issues user 0 [2, 1] ∧ ((user.hart.reg 2).toNat : Int) + (0xFFF : BitVec 12).toInt < 0 ∧
    (let s := withRegs user [(2, 0x5FFF8)]
     Issues s 0 [2, 1] ∧ s.core.chart.wf = true ∧ s.core.banks = [] ∧
     (∀ w, ownPoison s w → 0x5FFF8 + 8 ≤ 8 * w ∨ 8 * w + 8 ≤ 0x5FFF8) ∧
     ¬((0x5FFF8 : Int) < 0 ∨ (0x5FFF8 : Int) % 8 ≠ 0 ∨ (0x60000 : Int) < 0x5FFF8 + 8)) ∧
    (let s := { user with cur := { user.cur with hid := 1 }, core := { user.core with banks := (0, user.hart.clock, 31) :: [] } }
     Issues s 0 [2, 1] ∧ ∃ x ∈ s.core.banks, x.1 < s.cur.hid ∧ x.2.1 = s.hart.clock ∧ x.2.2 = 0x5FFF8 / 8 % 32) ∧
    (let s := { user with core := { user.core with chartPoison := [1] } }
     Issues s 0 [2, 1] ∧ ∃ w, ownPoison s w ∧ 8 * w < 8 + 8 ∧ 8 < 8 * w + 8) ∧
    (∃ x rest, (storing 1).hart.stores = x :: rest ∧ (storing 1).core.chart.wf = true ∧ (storing 1).hart.infl = [] ∧
      (storing 1).hart.merges = [] ∧ (storing 1).hart.late = [] ∧ (storing 1).hart.loads = [] ∧
      x.due ≤ (storing 1).hart.slot + 1 ∧ ∀ y ∈ rest, (storing 1).hart.slot + 1 < y.due) ∧
    (∃ x rest, (storing 4).hart.stores = x :: rest ∧ (storing 4).hart.slot + 1 < x.due) ∧
    (∃ l, (loadUnder 4).hart.loads = [l] ∧ 1 ≤ l.size ∧ l.size ≤ 8 ∧ (loadUnder 4).core.chart.wf = true ∧
      (loadUnder 4).hart.late = [] ∧ (loadUnder 4).hart.merges = [] ∧ (loadUnder 4).hart.stores = [] ∧
      ∀ x ∈ (loadUnder 4).hart.infl, (loadUnder 4).hart.slot < x.ready) ∧
    (∃ l, (loadUnder 1).hart.loads = [l] ∧ l.due ≤ (loadUnder 1).hart.slot + 1 ∧ l.d ≠ 0 ∧
      (∃ x ∈ (loadUnder 1).hart.infl, x.dest = .sreg l.sup l.d ∧ x.ready = l.due) ∧
      ∀ x ∈ (loadUnder 1).hart.infl, ∀ q, x.dest = .sreg l.sup q →
        (q = l.d ∧ x.ready = l.due) ∨ (loadUnder 1).hart.slot + 1 < x.ready) :=
  ⟨⟨rfl, rfl, rfl, rfl⟩, rfl, issues_user (by decide +kernel) _, by decide +kernel,
    ⟨issues_of (by decide +kernel) rfl rfl _, rfl, rfl, by (intro w h; cases h.1), by decide⟩,
    ⟨issues_of (by decide +kernel) rfl rfl _, _, List.mem_cons_self .., by decide +kernel⟩,
    ⟨issues_of (by decide +kernel) rfl rfl _, 1, ⟨by decide +kernel, by intro x hx; cases hx⟩, by decide, by decide⟩,
    ⟨_, _, rfl, rfl, rfl, rfl, rfl, rfl, by decide +kernel, by decide +kernel⟩, ⟨_, _, rfl, by decide +kernel⟩,
    ⟨_, rfl, by decide, by decide, rfl, rfl, rfl, rfl, by decide +kernel⟩,
    ⟨_, rfl, by decide +kernel, by decide, ⟨_, List.mem_cons_self .., rfl, rfl⟩, by
      intro x hx q hq
      simp only [loadUnder, alter, List.mem_cons, List.not_mem_nil, or_false] at hx
      subst hx
      exact .inl ⟨by simpa using hq.symm, rfl⟩⟩⟩

/-- A division on its way, its destination pending. -/
def dividing : State :=
  { alter user (fun h => { h with pendS := [(false, 5, 64)] }) with
    core := { user.core with divider := [{ hid := 0, sup := false, tok := 2, d := 5, id := 64, val := 7, flags := 0 }] } }

theorem hyp_Divisions : Free user [2, 3, 1] ∧ MayPost user ∧ user.useMask.getLsbD 1 = true ∧ user.useMask.getLsbD 2 = true ∧
    ∃ o, dividing.core.divider = o :: [] ∧ dividing.cur = { dividing.cur with hid := o.hid } ∧
      dividing.hart.pendS.find? (fun p => decide (p.2.2 = o.id)) = some (false, 5, o.id) ∧ (5 : SReg) ≠ 0 :=
  ⟨free_of rfl rfl _, by unfold MayPost; decide +kernel, by decide +kernel, by decide +kernel, _, rfl, rfl, by decide, by decide⟩

theorem hyp_ScalarFpResults : Issues user 2 [2, 3, 1] := issues_user (by decide +kernel) _

theorem one_f32 : fpValue .f32 0x3F800000 = 1 := by norm_num [fpValue, FFmt.frac]
theorem half_f32 : fpValue .f32 0x3FC00000 = 3 / 2 := by norm_num [fpValue, FFmt.frac]

theorem hyp_FloatingPointFunctions :
    (FiniteFp .f32 0x3F800000 ∧ FiniteFp .bf16 0x3F80 ∧ FiniteFp .f32 0x80000000 ∧ fpValue .f32 0x80000000 = 0 ∧
      0 < fpValue .f32 0x3F800000) ∧
    (isNaN .f32 0x7F800001 = true ∧ isNaN .f32 0x3F800000 = false ∧ isZero .f32 0 = true ∧ isInf .f32 0x7F800000 = true ∧
      isInf .f32 0xFF800000 = true ∧ fSign .f32 0xFF800000 = true ∧ fSign .f32 0x7F800000 = false ∧ isNaN .f32 0x7F800000 = false ∧
      isZero .f32 0x7F800000 = false ∧ isZero .f32 0xBF800000 = false ∧ isNaN .f32 0xBF800000 = false ∧
      fSign .f32 0xBF800000 = true) ∧
    (∀ rm, RoundedInt rm (fpValue .f32 0x3F800000) 1) ∧ RoundedInt .rne (fpValue .f32 0x3FC00000) 2 ∧
    RoundedInt .rtz (fpValue .f32 0x3FC00000) 1 ∧
    -- the group of the array: products, a NaN, an infinity
    (∀ x ∈ [(BfOp.num false 128 0, BfOp.num true 192 (-20)), (.zero, .num false 128 0), (.num false 129 3, .num false 131 4)],
      (x.1 = .zero ∨ ∃ n m e, x.1 = .num n m e) ∧ (x.2 = .zero ∨ ∃ n m e, x.2 = .num n m e)) ∧
    (∀ q ∈ [(true, 128 * 192, (-20 : Int)), (false, 129 * 131, 7)], q.2.2 ≤ (false, 129 * 131, (7 : Int)).2.2) ∧
    (∃ x ∈ [(BfOp.nan true, BfOp.zero)], ∃ s, x.1 = .nan s) ∧
    (∃ x ∈ [(BfOp.inf true, BfOp.num true 128 0)], ∃ n n' m e, x = (.inf n, .num n' m e) ∧ (n != n') = false) ∧
    (isNaN .f32 0x3F800000 = false ∧ ([((3 : Int), (4 : Int))].map fun p => p.1 * p.2).sum ≠ 0) := by
  refine ⟨⟨by unfold FiniteFp; decide, by unfold FiniteFp; decide, by unfold FiniteFp; decide, by norm_num [fpValue, FFmt.frac],
    by rw [one_f32]; norm_num⟩, by decide +kernel, ?_, ?_, ?_, ?_, by decide, ⟨_, List.mem_cons_self .., true, rfl⟩,
    ⟨_, List.mem_cons_self .., true, true, 128, 0, rfl, rfl⟩, by decide +kernel, by decide⟩
  · intro rm; rw [one_f32]; cases rm <;> norm_num [RoundedInt]
  · rw [half_f32]; norm_num [RoundedInt]
  · rw [half_f32]; norm_num [RoundedInt, abs_lt]
  · intro x hx
    simp only [List.mem_cons, List.not_mem_nil, or_false] at hx
    obtain rfl | rfl | rfl := hx
    · exact ⟨.inr ⟨_, _, _, rfl⟩, .inr ⟨_, _, _, rfl⟩⟩
    · exact ⟨.inl rfl, .inr ⟨_, _, _, rfl⟩⟩
    · exact ⟨.inr ⟨_, _, _, rfl⟩, .inr ⟨_, _, _, rfl⟩⟩

theorem hyp_MinMaxZerosAndNaNs :
    (0x80000000 < 2 ^ (9 + FFmt.f32.frac) ∧ isNaN .f32 0x80000000 = false ∧ isNaN .f32 0 = false) ∧
    (isNaN .f32 0x7F800001 = true ∧ isNaN .f32 0x7FC00000 = true ∧ 0xFFFFFFFF < 2 ^ (9 + FFmt.f32.frac)) ∧
    isNaN .bf16 0x7F81 = true ∧ isNaN .bf16 0x8000 = false ∧ 0xFFFF < 2 ^ (9 + FFmt.bf16.frac) := by decide +kernel

/-- One result to s5 that is due. -/
def due : State := alter user fun h => { h with infl := [{ dest := .sreg false 5, val := 9, ready := 0, flags := 1 }] }

theorem hyp_ControlRegisters : Issues user 0 [2, 1] ∧ Issues sup 0 [2, 1] ∧ user.hart.hst.mode = false ∧ sup.hart.hst.mode = true ∧
    Quiet user ∧ user.hart.queueFrozen = false ∧ due.hart.merges = [] ∧
    (due.hart.stores = [] ∧ due.hart.loads = [] ∧ due.hart.late = []) ∧
    (∃ x, due.hart.infl = [x] ∧ x.ready ≤ due.hart.slot ∧ x.dest = .sreg false 5) ∧
    ∀ x ∈ (withResult user 5 9 1).hart.infl, (withResult user 5 9 1).hart.slot < x.ready :=
  ⟨issues_user (by decide +kernel) _, issues_of (by decide +kernel) rfl rfl _, rfl, rfl, ⟨rfl, rfl, rfl, rfl⟩, by decide +kernel, rfl, ⟨rfl, rfl, rfl⟩,
    ⟨_, rfl, by decide +kernel, rfl⟩, by decide +kernel⟩

theorem enters_user (op : VOp) (tok : Option Tok) (h : op.operandsOk 0 = true) : Enters user op tok :=
  ⟨by decide +kernel, by decide +kernel, fun _ => by unfold MayPost; decide +kernel, h⟩

theorem hyp_TimingAndTokens : Issues user 0 [2, 1] ∧ user.hart.hst.helm = false ∧ Enters user (.idle 1) none ∧
    Enters user (.idle 64) none ∧ Issues helm 0 [2, 1] ∧ helm.hart.hst.helm = true :=
  ⟨issues_user (by decide +kernel) _, rfl, enters_user _ _ (by decide), enters_user _ _ (by decide),
    issues_of (by decide +kernel) rfl rfl _, rfl⟩

/-! ### Vector words: issue -/

/-- A user with VCFG and VL. -/
def vec (vcfg : BitVec 9) (vl : Nat) : State := alter user fun h => { h with vcfg := vcfg, vl := vl }

/-- What VectorWordsEnterTheQueue assumes. -/
def MayEnter (s : State) (i : Instr) : Prop :=
  ∃ w, vectorWord i = some w ∧ s.hart.hst.helm = false ∧ (∀ k ∈ w.bits, s.useMask.getLsbD k = true) ∧
    Free s (w.srcs ++ w.op.sdest.toList) ∧ Enters s w.op w.tok ∧ IssueChecks s w.op (w.srcs.map s.hart.reg)

theorem mayEnter {s : State} {i : Instr} (w : VecWord) (hw : vectorWord i = some w) (h : s.hart.hst.helm = false)
    (hb : ∀ k ∈ w.bits, s.useMask.getLsbD k = true) (h1 : s.hart.infl = []) (h2 : s.hart.pendS = [])
    (h3 : s.hart.queueFrozen = false) (h4 : s.hart.vq.length < 32) (h5 : s.hart.outstanding < 64)
    (h6 : w.op.operandsOk s.hart.vcfg = true) (h7 : IssueChecks s w.op (w.srcs.map s.hart.reg)) : MayEnter s i :=
  ⟨w, hw, h, hb, free_of h1 h2 _, ⟨h3, h4, fun _ => h5, h6⟩, h7⟩

/-- Die 0's descriptor i as given, and its handle. -/
def withRun (s : State) (i : Nat) (r : RunD) : State := { s with pkg := s.pkg.setDesc 0 i r }
def handleOf (i : Nat) (r : RunD) : Word :=
  BitVec.ofNat 64 (r.gen * 2 ^ 48 + (if r.state = .view then 2 ^ 45 else 0) + i)

/-- A sealed run of 16 records of 4 bytes, read by one port. -/
def sealed : RunD := ⟨1, .sealed, 2, 1, Writer.none, 0, 0x1000, 16, 16, (0, 0)⟩

/-- A port bound to it for reading. -/
def readPort : PortSt := ⟨true, handleOf 3 sealed, 0, 0, false, false, 0, none⟩

def reading (s : State) : State := alter (withRun s 3 sealed) fun h => { h with ports := h.ports.set 0 readPort }

/-- A Sorter control word: eight-byte keys at offset 0. -/
def keys8 : Word := 0xC0000000

theorem hyp_VectorWordsEnterTheQueue : MayEnter user (.vadd 4 4 (.imm 31) 0) ∧ MayEnter (vec 2 16) (.vfmul 12 8 (.scal 14) 2) ∧
    MayEnter (vec 2 16) (.vldc 4 9 0 3) ∧ MayEnter (vec 2 64) (.vtrdr 4 1 9 0) ∧ MayEnter (vec 1 16) (.vstp 4 9 0 3) ∧
    MayEnter (withRegs (vec 0 16) [(10, 4)]) (.vstpb 4 9 10 0 3) ∧ MayEnter (vec 3 8) (.cprr 1 4 2 3) ∧
    MayEnter (vec 3 3) (.ssort 5 4 9 3) ∧ MayEnter (reading (vec 2 16)) (.vprd 4 0 0 3) := by
  refine ⟨?_, ?_, ?_, ?_, ?_, ?_, ?_, ?_, ?_⟩
  · exact mayEnter _ rfl rfl (by decide +kernel) rfl rfl rfl (by decide) (by decide +kernel) (by decide +kernel) trivial
  · exact mayEnter _ rfl rfl (by decide +kernel) rfl rfl rfl (by decide) (by decide +kernel) (by decide +kernel) trivial
  · exact mayEnter _ rfl rfl (by decide +kernel) rfl rfl rfl (by decide) (by decide +kernel) (by decide +kernel) trivial
  · exact mayEnter _ rfl rfl (by decide +kernel) rfl rfl rfl (by decide) (by decide +kernel) (by decide +kernel)
      (by unfold IssueChecks; decide +kernel)
  · exact mayEnter _ rfl rfl (by decide +kernel) rfl rfl rfl (by decide) (by decide +kernel) (by decide +kernel)
      (by unfold IssueChecks; exact Or.inr (by decide +kernel))
  · exact mayEnter _ rfl rfl (by decide +kernel) rfl rfl rfl (by decide) (by decide +kernel) (by decide +kernel)
      (by unfold IssueChecks; exact ⟨by decide +kernel, by decide +kernel, Or.inr (by decide +kernel)⟩)
  · exact mayEnter _ rfl rfl (by decide +kernel) rfl rfl rfl (by decide) (by decide +kernel) (by decide +kernel)
      (by unfold IssueChecks; decide +kernel)
  · exact mayEnter _ rfl rfl (by decide +kernel) rfl rfl rfl (by decide) (by decide +kernel) (by decide +kernel)
      (by unfold IssueChecks; decide +kernel)
  · exact mayEnter _ rfl rfl (by decide +kernel) rfl rfl rfl (by decide) (by decide +kernel) (by decide +kernel)
      (by unfold IssueChecks; decide +kernel)

theorem hyp_VectorWordsTurnedAway :
    (∃ w, vectorWord (.vadd 4 4 (.imm 31) 0) = some w ∧ helm.hart.hst.helm = true ∧ (∀ d, w.op ≠ .sprog d) ∧ ∀ d, w.op ≠ .sabort d) ∧
    (∃ w, vectorWord (.vadd 4 4 (.imm 31) 0) = some w ∧ bare.hart.hst.helm = false ∧ ∃ k ∈ w.bits, bare.useMask.getLsbD k = false) ∧
    (∃ w, vectorWord (.vfadd 5 4 (.vec 4) 0) = some w ∧ (∀ k ∈ w.bits, user.useMask.getLsbD k = true) ∧
      Free user (w.srcs ++ w.op.sdest.toList) ∧ w.op.operandsOk user.hart.vcfg = false) ∧
    (∃ w, vectorWord (.vprd 4 0 0 3) = some w ∧ w.op.operandsOk (vec 2 16).hart.vcfg = true ∧
      ¬IssueChecks (vec 2 16) w.op (w.srcs.map (vec 2 16).hart.reg)) ∧
    (∃ w, vectorWord (.cprr 1 4 2 3) = some w ∧ w.op.operandsOk (vec 3 9).hart.vcfg = true ∧
      ¬IssueChecks (vec 3 9) w.op (w.srcs.map (vec 3 9).hart.reg)) ∧
    (∃ w, vectorWord (.vldc 4 9 0 3) = some w ∧
      (let s := alter sup fun h => { h with trcause := 0x4000 }
       s.hart.queueFrozen = true ∧ (∀ k ∈ w.bits, s.useMask.getLsbD k = true) ∧ w.op.operandsOk s.hart.vcfg = true) ∧
      (let s := alter user fun h => { h with tk := h.tk.set 3 ⟨0, 64⟩ }
       s.hart.queueFrozen = false ∧ w.tok.isSome = true ∧ ¬MayPost s ∧ w.op.operandsOk s.hart.vcfg = true) ∧
      (let s := alter user fun h => { h with vq := List.replicate 32 (queued user w.op [] none) }
       s.hart.queueFrozen = false ∧ MayPost s ∧ 32 ≤ s.hart.vq.length)) := by
  refine ⟨⟨_, rfl, rfl, ?_, ?_⟩, ⟨_, rfl, rfl, 3, by decide, by decide +kernel⟩, ⟨_, rfl, by decide +kernel, free_of rfl rfl _, by decide⟩,
    ⟨_, rfl, by decide, ?_⟩, ⟨_, rfl, by decide, ?_⟩, _, rfl, ⟨by decide +kernel, by decide +kernel, by decide⟩,
    ⟨by decide +kernel, rfl, ?_, by decide⟩, by decide +kernel, ?_, by decide⟩
  · intro d h; cases h
  · intro d h; cases h
  · unfold IssueChecks; decide +kernel
  · unfold IssueChecks; decide +kernel
  · unfold MayPost; decide +kernel
  · unfold MayPost; decide +kernel

theorem hyp_VectorLengthGranted : IssuesVector user 3 [2, 1] ∧ user.boundaryPending = false ∧ IssuesVector user 3 [2, 3, 1] ∧
    (let s := withRegs user [(2, 0x10)]; (s.hart.reg 2).toNat / 4 % 8 = 4 ∧ IssuesVector s 3 [2, 3, 1]) ∧
    ¬((user.hart.reg 2).toNat / 2 ^ 9 ≠ 0 ∨ (user.hart.reg 3).toNat / 2 ^ 14 ≠ 0 ∨ (user.hart.reg 2).toNat / 4 % 8 = 4 ∨
      (user.hart.reg 2).toNat / 32 % 4 = 3) :=
  ⟨⟨rfl, by decide +kernel, free_of rfl rfl _⟩, by decide +kernel, ⟨rfl, by decide +kernel, free_of rfl rfl _⟩,
    ⟨by decide +kernel, rfl, by decide +kernel, free_of rfl rfl _⟩, by decide +kernel⟩

/-- A user with a change of its lanes pending. -/
def changing (f : Hart → Hart) (spare : Option Nat) : State :=
  { alter user f with core := { Core.reset with sparePend := spare } }

/-- What a change at a strip boundary assumes of it. -/
def AtBoundary (s : State) : Prop := IssuesVector s 3 [2, 1] ∧ s.boundaryPending = true ∧ s.queueQuiet = true ∧ vcfgOk s.hart.vcfg = true

theorem hyp_VectorLengthGranted_boundary :
    (let s := changing (fun h => { h with reclPend := true }) none
     AtBoundary s ∧ PendsAlone s true false none none ∧ s.hart.lanes ∈ [8, 16, 32] ∧
     (s.getHart { s.cur with hid := 1 }).lanes = 0) ∧
    (let s := changing (fun h => { h with givePend := true, lanes := 16, gave := [1] }) none
     AtBoundary s ∧ PendsAlone s false true none none ∧ s.hart.lanes ∈ [4, 8, 16] ∧ s.hart.gave = 1 :: [] ∧ 1 ≠ s.cur.hid) ∧
    (let s := changing (fun h => { h with mirrorPend := some true }) none
     AtBoundary s ∧ PendsAlone s false false (some true) none ∧ s.hart.hst.prot = false) ∧
    (let s := changing (fun h => { h with mirrorPend := some false, hst := { h.hst with prot := true } }) none
     AtBoundary s ∧ PendsAlone s false false (some false) none ∧ s.hart.hst.prot = true ∧ s.hart.lanes ∈ [8, 16, 32]) ∧
    (let s := changing id (some 31)
     AtBoundary s ∧ PendsAlone s false false none (some 31) ∧ s.hart.ownsLane 31 = true ∧ s.pkg.mem.wf = true) ∧
    (let s := alter (changing (fun h => { h with reclPend := true }) none) fun h => { h with vq := [queued user (.idle 1) [] none] }
     IssuesVector s 3 [2, 1] ∧ s.boundaryPending = true ∧ s.queueQuiet = false) := by
  have h (f : Hart → Hart) (sp : Option Nat) (h1 : (changing f sp).hart.hst.helm = false) (h2 : (changing f sp).useMask.getLsbD 3 = true)
      (h3 : (changing f sp).hart.infl = []) (h4 : (changing f sp).hart.pendS = []) (h5 : (changing f sp).boundaryPending = true)
      (h6 : (changing f sp).queueQuiet = true) (h7 : vcfgOk (changing f sp).hart.vcfg = true) : AtBoundary (changing f sp) :=
    ⟨⟨h1, h2, free_of h3 h4 _⟩, h5, h6, h7⟩
  refine ⟨⟨h _ _ rfl (by decide +kernel) rfl rfl (by decide +kernel) (by decide +kernel) (by decide +kernel), ⟨rfl, rfl, rfl, rfl⟩, by decide, by decide +kernel⟩,
    ⟨h _ _ rfl (by decide +kernel) rfl rfl (by decide +kernel) (by decide +kernel) (by decide +kernel), ⟨rfl, rfl, rfl, rfl⟩, by decide, rfl, by decide⟩,
    ⟨h _ _ rfl (by decide +kernel) rfl rfl (by decide +kernel) (by decide +kernel) (by decide +kernel), ⟨rfl, rfl, rfl, rfl⟩, rfl⟩,
    ⟨h _ _ rfl (by decide +kernel) rfl rfl (by decide +kernel) (by decide +kernel) (by decide +kernel), ⟨rfl, rfl, rfl, rfl⟩, rfl, by decide⟩,
    ⟨h _ _ rfl (by decide +kernel) rfl rfl (by decide +kernel) (by decide +kernel) (by decide +kernel), ⟨rfl, rfl, rfl, rfl⟩, by decide +kernel, rfl⟩,
    ⟨rfl, by decide +kernel, free_of rfl rfl _⟩, by decide +kernel, by decide +kernel⟩

/-! ### Entries that start -/

theorem hyp_VectorElementFunctions : (8 ∈ [8, 16, 32, 64] ∧ 64 ∈ [8, 16, 32, 64]) ∧ 16 ∈ [8, 16, 32, 64] ∧ 0 < 32 ∧ 32 ≤ 32 ∧
    28 + 4 ≤ 32 ∧ 2047 < 32 * (256 / 16) * 4 ∧ 0 < 32 * (256 / 16) * 4 ∧
    (0xFFFFFFFF < 2 ^ (9 + FFmt.f32.frac) ∧ 0xFFFF < 2 ^ (9 + FFmt.bf16.frac)) ∧
    -- a quiet NaN, a signalling one, and the largest finite value of both formats
    (let nan (F n : Nat) : Prop := n / 2 ^ F % 256 = 255 ∧ n % 2 ^ F ≠ 0
     nan 23 0x7FC00000 ∧ nan 23 0x7F800001 ∧ ¬nan 23 0xFF7FFFFF ∧ nan 7 0x7F81 ∧ ¬nan 7 0x7F80) ∧
    (0xFFFF < 2 ^ 16 ∧ 0xFFFFFFFF < 2 ^ 32) ∧
    -- the extensions at their narrowest and their widest
    ((2, VcvFn.sext2, VcvFn.zext2) ∈ [(2, VcvFn.sext2, VcvFn.zext2), (4, .sext4, .zext4), (8, .sext8, .zext8)] ∧ 8 ≤ 16 / 2 ∧
      255 < 2 ^ (16 / 2) ∧ 8 ≤ 64 / 8 ∧ 0 < 2 ^ (64 / 8)) := by decide

/-- An entry of 16 elements of 32 bits, agnostic tail kept. -/
def entry (op : VOp) (sv : List Word) (tok : Option Tok) (vl : Nat) (vcfg : BitVec 9) : VEntry :=
  { id := 64, op := op, word := 0, addr := 0x100, vl := vl, vcfg := vcfg, cap := 0, rm := .rne, sv := sv, tok := tok, sup := false
    slot := 0, dones := [], fm := BitVec.allOnes 8192 }

/-- A user whose queue holds one entry that is due. -/
def queue1 (x : VEntry) : State := alter user fun h => { h with vq := [x] }

theorem starts_of {s : State} {x : VEntry} (h1 : s.hart.vq = [x]) (h2 : s.hart.queueFrozen = false) (h3 : s.heldBack x.op = false)
    (h4 : s.hart.beat ≤ s.hart.slot) (h5 : x.slot ≤ s.hart.slot) (h6 : s.hart.frozen = 0) (h7 : s.hart.vpend = [])
    (h8 : s.hart.vholds = []) (h9 : x.op.operandsOk x.vcfg = true) (h10 : x.vl ≤ vlmaxOf s.hart.leff x.vcfg 0)
    (h11 : 0 < s.hart.leff ∧ s.hart.lanes ≤ 32) (h12 : x.dones = []) : Starts s x [] :=
  ⟨h1, h2, h3, ⟨h4, h5⟩, h6, by simp [Hart.raceAt, h7, h8], h9, h10, h11, h12⟩

theorem starts_queue1 {x : VEntry} (h5 : x.slot = 0) (h9 : x.op.operandsOk x.vcfg = true) (h10 : x.vl ≤ vlmaxOf 32 x.vcfg 0)
    (h12 : x.dones = []) : Starts (queue1 x) x [] :=
  starts_of rfl rfl (by simp [State.heldBack, queue1, alter, user, State.reset, Core.reset, Hart.reset]) (Nat.zero_le 0)
    (by rw [h5]; exact Nat.zero_le 0) rfl rfl rfl h9 (le_of_le_of_eq h10 rfl) ⟨(by decide : 0 < 32), (by decide : 32 ≤ 32)⟩ h12

/-- An entry of each shape, with 16 elements of 32 bits. -/
def addEntry (vl : Nat) : VEntry := entry (.vin .add 4 8 (.vec 12) 0) [] none vl 2

theorem hyp_FixedLatencyResults :
    (∃ p, Starts (queue1 (addEntry 16)) (addEntry 16) [] ∧ vectorFn (queue1 (addEntry 16)) (addEntry 16) = some p) ∧
    (let x := entry (.viota 4 2 1) [] none 5 2
     ∃ p, Starts (queue1 x) x [] ∧ vectorFn (queue1 x) x = some p ∧ 0 < x.vl) ∧
    (Starts (queue1 (addEntry 0)) (addEntry 0) [] ∧ (vectorFn (queue1 (addEntry 0)) (addEntry 0)).isSome = true) ∧
    (let x := entry (.vcpi .eq 2 8 (.vec 12) 0) [] none 0 2
     Starts (queue1 x) x [] ∧ ∃ r d a b m, x.op = .vcpi r d a b m) ∧
    (let x := entry (.vmk2 .and 2 1 3 0) [] none 0 2
     Starts (queue1 x) x [] ∧ ∃ f d a b m, x.op = .vmk2 f d a b m) :=
  ⟨⟨_, starts_queue1 rfl (by decide) (by decide) rfl, rfl⟩, ⟨_, starts_queue1 rfl (by decide) (by decide) rfl, rfl, by decide⟩,
    ⟨starts_queue1 rfl (by decide) (by decide) rfl, rfl⟩,
    ⟨starts_queue1 rfl (by decide) (by decide) rfl, _, _, _, _, _, rfl⟩,
    ⟨starts_queue1 rfl (by decide) (by decide) rfl, _, _, _, _, _, rfl⟩⟩

theorem hyp_MaskResults :
    (let x := entry (.vcpf .lt .f32 2 8 (.vec 12) 0) [] none 16 2
     ∃ p, Starts (queue1 x) x [] ∧ maskFn (queue1 x) x = some p ∧ 0 < x.vl) ∧
    (let x := entry (.vmpopc 4 2 0) [] none 16 2
     Starts (queue1 x) x [] ∧ x.op = .vmpopc 4 2 0) ∧
    (let x := entry (.vmfirst 4 2 0) [] none 0 2
     Starts (queue1 x) x [] ∧ x.op = .vmfirst 4 2 0) :=
  ⟨⟨_, starts_queue1 rfl (by decide) (by decide) rfl, rfl, by decide⟩,
    ⟨starts_queue1 rfl (by decide) (by decide) rfl, rfl⟩, ⟨starts_queue1 rfl (by decide) (by decide) rfl, rfl⟩⟩

/-! ### Races -/

/-- A user with a result to s2 in flight, in checked mode or not. -/
def inFlight (rchk : Bool) (d : SReg) : State :=
  alter user fun h => { h with infl := [⟨.sreg false d, 9, 3, 0⟩], hst := { h.hst with rchk := rchk } }

/-- A queue whose head reads v8, its first group pending until beat 5. -/
def racing (rchk : Bool) : State :=
  alter (queue1 (addEntry 16)) fun h => { h with vpend := [⟨false, 8, 0, 64, 0, 5⟩], hst := { h.hst with rchk := rchk } }

/-- A queue whose head reads v8, which a posting operation has still to deliver. -/
def keptBack : State :=
  alter (queue1 (addEntry 16)) fun h => { h with vholds := [⟨32, false, 8, 1, 32, true, [], []⟩] }

theorem races (rchk : Bool) : Races (racing rchk) (addEntry 16) [] (8, 1) := by
  cases rchk <;> exact ⟨rfl, rfl, by decide +kernel, by decide +kernel, by decide +kernel⟩

theorem hyp_RacesAndUndeclared :
    (scalarNeed (.addi 1 2 5) = some (0, [2, 1]) ∧
      (bare.hart.hst.mode = false ∧ ∃ c, bare.hart.ctx = some c ∧ c.use.getLsbD 0 = false) ∧
      (let s := alter user fun h => { h with hst := { h.hst with mode := true } }
       s.hart.hst.mode = true ∧ (s.pkg.mem.word (capAddr s.cur.die s.cur.quad s.cur.core 0)).getLsbD 0 = false) ∧
      task.use.getLsbD 0 = true ∧ (inFlight true 2).hart.hst.rchk = true ∧
      ∃ r ∈ ([2, 1] : List SReg), (inFlight true 2).hart.pendingReg r = true) ∧
    ((inFlight false 2).useMask.getLsbD 0 = true ∧ (inFlight false 2).hart.hst.rchk = false ∧ (inFlight false 2).hart.pendS = [] ∧
      (∃ x, (inFlight false 2).hart.infl = [x] ∧ x.dest = .sreg false 2) ∧ (2 : SReg) ≠ 3 ∧ (1 : SReg) ≠ 0 ∧ (2 : SReg) ≠ 0 ∧ (1 : SReg) ≠ 2 ∧
      ∃ x, (inFlight false 1).hart.infl = [x] ∧ x.dest = .sreg false 1) ∧
    (Races (racing true) (addEntry 16) [] (8, 1) ∧ (racing true).hart.hst.rchk = true ∧ Quiet (racing true) ∧
      (racing true).core.pipe ++ (racing true).core.net = []) ∧
    (let s := keptBack
     let x := addEntry 16
     let g := s.hart.geo x
     ∃ u ∈ g.us, ∃ h ∈ s.hart.vholds, h.id ≠ x.id ∧ h.mask = u.mask ∧ (h.dest = true ∨ u.dst = true) ∧
       h.reg < (u.span g.g8 g.sew).1 + (u.span g.g8 g.sew).2 ∧ (u.span g.g8 g.sew).1 < h.reg + h.num) ∧
    (let s := racing true
     let x := addEntry 16
     let g := s.hart.geo x
     ∃ u ∈ g.us, u.kind = .groups ∧ 0 < g.n ∧ ∃ p ∈ s.hart.vpend, p.mask = u.mask ∧ p.reg = u.reg + 0 * (64 * u.w / g.w) / 256 ∧
       p.lo < 0 * (64 * u.w / g.w) % 256 + 64 * u.w / g.w ∧ 0 * (64 * u.w / g.w) % 256 < p.lo + p.len ∧ 0 + 0 < p.ready) ∧
    (let s := racing false
     let x := addEntry 16
     Races s x [] (8, 1) ∧ s.hart.hst.rchk = false ∧ s.hart.hst.prot = false ∧ x.op.operandsOk x.vcfg = true ∧ 0 < x.vl ∧
       x.vl ≤ vlmaxOf s.hart.leff x.vcfg 0 ∧ (0 < s.hart.leff ∧ s.hart.lanes ≤ 32) ∧ x.dones = [] ∧ (vectorFn s x).isSome = true ∧
       ∀ p ∈ s.hart.vpend, ∀ u ∈ (s.hart.geo { x with fm := s.hart.fm }).us, p.mask = u.mask → p.lo % u.w = 0 ∧ p.len % u.w = 0) ∧
    (Starts (queue1 (addEntry 16)) (addEntry 16) [] ∧ (vectorFn (queue1 (addEntry 16)) (addEntry 16)).isSome = true ∧
      0 < (addEntry 16).vl) := by
  refine ⟨⟨rfl, ⟨rfl, _, rfl, by decide⟩, ⟨rfl, by decide +kernel⟩, by decide, rfl, 2, by decide, by decide +kernel⟩,
    ⟨by decide +kernel, rfl, rfl, ⟨_, rfl, rfl⟩, by decide, by decide, by decide, by decide, _, rfl, rfl⟩,
    ⟨races true, rfl, ⟨rfl, rfl, rfl, rfl⟩, rfl⟩, by decide +kernel, by decide +kernel,
    ⟨races false, rfl, rfl, by decide, by decide, by decide, ⟨by decide, by decide⟩, rfl, rfl, by decide +kernel⟩,
    starts_queue1 rfl (by decide) (by decide) rfl, rfl, by decide⟩

/-! ### Fragments -/

/-- A state with one entry that is due, fragments and mask registers. -/
def fragState (op : VOp) (frags : List Frag) (m1 : MBits) : State :=
  alter (queue1 (entry op [] none 4 2)) fun h => { h with frags := frags, m := h.m.set 1 m1 }

theorem starts_frag (op : VOp) (fr : List Frag) (m1 : MBits) (h : op.operandsOk 2 = true) :
    Starts (fragState op fr m1) (entry op [] none 4 2) [] :=
  starts_of rfl rfl (by simp [State.heldBack, fragState, queue1, alter, user, State.reset, Core.reset, Hart.reset]) (Nat.zero_le 0)
    (Nat.zero_le 0) rfl rfl rfl h (by decide : 4 ≤ vlmaxOf 32 2 0) ⟨(by decide : 0 < 32), (by decide : 32 ≤ 32)⟩ rfl

def waitingFrag : Frag := ⟨3, 0x80, 15, true⟩
def runningFrag : Frag := ⟨3, 0x80, 15, false⟩

theorem hyp_FragmentsBranchAndJoin :
    (∀ fr m1, Starts (fragState (.vbr 1 6) fr m1) (entry (.vbr 1 6) [] none 4 2) []) ∧
    (∀ fr m1, Starts (fragState (.vjoin 6) fr m1) (entry (.vjoin 6) [] none 4 2) []) ∧
    (∀ fr m1, (fragState (.vbr 1 6) fr m1).hart.hst.mode = true → (fragState (.vbr 1 6) fr m1).hart.infl = []) ∧
    (fragState (.vbr 1 6) (List.replicate 4 waitingFrag) 0).hart.frags.length = 4 ∧
    (∀ (m1 : MBits), m1 ∈ [0, 15, 5] → (fragState (.vbr 1 6) [] m1).hart.frags.length < 4) ∧
    (let below : MBits := BitVec.ofNat 8192 (2 ^ 4 - 1)
     let t (m1 : MBits) := (BitVec.allOnes 8192 : MBits) &&& m1 &&& below
     let n (m1 : MBits) := (BitVec.allOnes 8192 : MBits) &&& ~~~m1 &&& below
     t 0 = 0 ∧ (t 15 ≠ 0 ∧ n 15 = 0) ∧ t 5 ≠ 0 ∧ n 5 ≠ 0) ∧
    (fragState (.vjoin 6) [] 0).hart.frags = [] ∧
    ((fragState (.vjoin 6) [runningFrag] 0).hart.frags = [] ++ [runningFrag] ∧ runningFrag.waiting = false ∧ runningFrag.mask ≠ 0) ∧
    (fragState (.vjoin 6) [waitingFrag] 0).hart.frags = [] ++ [waitingFrag] ∧ waitingFrag.waiting = true :=
  ⟨fun _ _ => starts_frag _ _ _ (by decide), fun _ _ => starts_frag _ _ _ (by decide), fun _ _ _ => rfl, rfl,
    fun _ _ => (by decide : 0 < 4), by decide +kernel, rfl, ⟨rfl, rfl, by decide +kernel⟩, rfl, rfl⟩

theorem hyp_VloopCounts : Starts (fragState (.vloop 4 1 0x1FFF) [] 15) (entry (.vloop 4 1 0x1FFF) [] none 4 2) [] ∧
    ((fragState (.vloop 4 1 0x1FFF) [] 15).hart.hst.mode = true → (fragState (.vloop 4 1 0x1FFF) [] 15).hart.infl = []) :=
  ⟨starts_frag _ _ _ (by decide), fun _ => rfl⟩

theorem hyp_SharedUnits :
    (let x := entry (.vgather 4 8 12 0) [] (some 3) 16 2
     Starts (queue1 x) x [] ∧ x.op.unit = some .net ∧ ∀ d a oc, x.op ≠ .vwait d a oc) ∧
    (let x := entry (.vld .unit 4 0) [0] (some 3) 16 2
     Starts (queue1 x) x [] ∧ x.op.unit = some .pipe ∧ ∀ d a oc, x.op ≠ .vwait d a oc) ∧
    let x := entry (.vst .unit 4 0) [0] (some 3) 0 2
    Starts (queue1 x) x [] ∧ x.op.unit = some .pipe ∧ x.vl = 0 :=
  ⟨⟨starts_queue1 rfl (by decide) (by decide) rfl, rfl, by intro d a oc h; cases h⟩,
    ⟨starts_queue1 rfl (by decide) (by decide) rfl, rfl, by intro d a oc h; cases h⟩,
    starts_queue1 rfl (by decide) (by decide) rfl, rfl, rfl⟩

/-! ### Operations in the shared units -/

/-- An operation of the first hart in a unit with all its groups served. -/
def served (x : VEntry) : UOp := ⟨0, x, 0, 0, true, false, [], 0, 0, 0, 0⟩

/-- A user at slot 9 with one operation in the network. -/
def inNet (x : VEntry) : State :=
  { alter user (fun h => { h with slot := 9 }) with core := { Core.reset with net := [served x] } }

/-- The same in the pipe. -/
def inPipe (x : VEntry) : State :=
  { alter user (fun h => { h with slot := 9 }) with core := { Core.reset with pipe := [served x] } }

/-- No other operation stands in a unit. -/
theorem earlier_alone {s : State} {x : VEntry} (h : s.core.pipe ++ s.core.net = [served x]) :
    ∀ p ∈ s.core.pipe ++ s.core.net, p.hid = s.cur.hid → p.ent.id < x.id → p.ent.op.merges = false := by
  intro p hp _ hlt
  rw [h, List.mem_singleton] at hp
  subst hp
  exact absurd hlt (lt_irrefl _)

theorem completes_net {x : VEntry} (h1 : x.op.operandsOk x.vcfg = true) (h2 : x.vl ≤ vlmaxOf 32 x.vcfg 0) (h3 : x.dones = []) :
    Completes (inNet x) .net (served x) x :=
  ⟨rfl, rfl, ⟨rfl, rfl, fun _ => rfl⟩, rfl, earlier_alone rfl, (by decide : 0 < 9), (by intro k hk; cases hk), h1, h2,
    ⟨(by decide : 0 < 32), (by decide : 32 ≤ 32)⟩, h3⟩

theorem completes_pipe {x : VEntry} (h1 : x.op.operandsOk x.vcfg = true) (h2 : x.vl ≤ vlmaxOf 32 x.vcfg 0) (h3 : x.dones = []) :
    Completes (inPipe x) .pipe (served x) x :=
  ⟨rfl, rfl, ⟨rfl, rfl, fun _ => rfl⟩, rfl, earlier_alone rfl, (by decide : 0 < 9), (by intro k hk; cases hk), h1, h2,
    ⟨(by decide : 0 < 32), (by decide : 32 ≤ 32)⟩, h3⟩

/-- The destination of the entry pending. -/
def pendingDest (s : State) (d : SReg) : State := alter s fun h => { h with pendS := [(false, d, 64)] }

/-- Two harts' operations wait for the network. -/
def offering (waited0 waited1 : Nat) : State :=
  { user with core := { Core.reset with net :=
      [{ served (entry (.vrev 4 8 0) [] (some 3) 16 2) with left := 3, waited := waited0 },
       { served (entry (.vrev 4 8 0) [] (some 3) 16 2) with hid := 1, left := 2, waited := waited1 }] } }

/-- The conditions under which SharedUnits says what a unit serves. -/
def Served (s : State) (u : SharedUnit) (o : UOp) : Prop :=
  let offered (p : UOp) : Prop := (s.core.unit u).find? (fun q => decide (q.hid = p.hid)) = some p ∧ p.left ≠ 0
  (∀ o ∈ s.core.unit u, o.hid < 8) ∧ offered o ∧ (u = .pipe → o.passed = true) ∧ (u = .net → o.ent.op.unit = some .net) ∧
  (((∀ p ∈ s.core.unit u, offered p → p.waited < 256) ∧
    ∀ p ∈ s.core.unit u, offered p → o.left < p.left ∨ (o.left = p.left ∧ o.hid ≤ p.hid)) ∨
   (256 ≤ o.waited ∧ ∀ p ∈ s.core.unit u, offered p → p.waited < o.waited ∨ (p.waited = o.waited ∧ o.hid ≤ p.hid)))

theorem hyp_SharedUnits_service :
    (∃ o ∈ (offering 0 0).core.net, o.hid = 1 ∧ Served (offering 0 0) .net o) ∧
    (∃ o ∈ (offering 300 256).core.net, o.hid = 0 ∧ Served (offering 300 256) .net o) ∧ user.core.net = [] := by
  refine ⟨⟨{ served (entry (.vrev 4 8 0) [] (some 3) 16 2) with hid := 1, left := 2, waited := 0 }, ?_, rfl, ?_⟩,
    ⟨{ served (entry (.vrev 4 8 0) [] (some 3) 16 2) with left := 3, waited := 300 }, ?_, rfl, ?_⟩, rfl⟩
  · decide +kernel
  · unfold Served; decide +kernel
  · decide +kernel
  · unfold Served; decide +kernel

theorem hyp_PermuteResults :
    (∀ op ∈ [VOp.vgather 4 8 12 0, .vslide .up 4 8 0, .vrev 4 8 1],
      let x := entry op [2] (some 3) 16 2
      Completes (inNet x) .net (served x) x ∧ (permuted (inNet x) x).isSome = true) ∧
    (let x := entry (.vtag 4 8 0) [7] (some 3) 16 3
     Completes (inNet x) .net (served x) x ∧ (permuted (inNet x) x).isSome = true) ∧
    (let x := entry (.vcompress 4 8 2) [] (some 3) 16 2
     Completes (inNet x) .net (served x) x ∧ x.op = .vcompress 4 8 2) ∧
    (let x := entry (.vmvsx 4 0) [7] (some 3) 16 2
     Completes (inNet x) .net (served x) x ∧ x.op = .vmvsx 4 0) ∧
    (let x := entry (.vmvxs 5 8) [3] (some 3) 16 2
     let s := pendingDest (inNet x) 5
     Completes s .net (served x) x ∧ x.op = .vmvxs 5 8 ∧ (5 : SReg) ≠ 0 ∧
       s.hart.pendS.find? (fun p => decide (p.2.2 = x.id)) = some (false, 5, x.id)) := by
  refine ⟨?_, ⟨completes_net (by decide) (by decide) rfl, rfl⟩, ⟨completes_net (by decide) (by decide) rfl, rfl⟩,
    ⟨completes_net (by decide) (by decide) rfl, rfl⟩, ⟨?_, rfl, by decide, by decide⟩⟩
  · intro op h
    simp only [List.mem_cons, List.not_mem_nil, or_false] at h
    obtain rfl | rfl | rfl := h <;> exact ⟨completes_net (by decide) (by decide) rfl, rfl⟩
  · exact ⟨rfl, rfl, ⟨rfl, rfl, fun _ => rfl⟩, rfl, earlier_alone rfl, (by decide : 0 < 9), (by intro k hk; cases hk), by decide, (by decide : 16 ≤ vlmaxOf 32 2 0),
      ⟨(by decide : 0 < 32), (by decide : 32 ≤ 32)⟩, rfl⟩

theorem hyp_SortsAreStable :
    ∀ op ∈ [VOp.vsort .s 4 8, .vsortkv .f 4 8, .vmerge .u 4 8, .vsegm 2 8],
      let x := entry op [8] (some 3) 16 2
      Completes (inNet x) .net (served x) x ∧ 0 < x.vl := by
  intro op h
  simp only [List.mem_cons, List.not_mem_nil, or_false] at h
  obtain rfl | rfl | rfl | rfl := h <;> exact ⟨completes_net (by decide) (by decide) rfl, by decide⟩

theorem hyp_ReductionResults :
    ∀ p ∈ [(VOp.vred false .fsum 5 8 0, (2 : BitVec 9)), (.vred true .fsum 5 8 0, 2), (.vred false .sum 5 8 0, 0), (.vred true .maxu 5 8 0, 3),
        (.vred false .bfsum 5 8 0, 1), (.vred false .minu 5 8 0, 1)],
      let x := entry p.1 [7] (some 3) 4 p.2
      let s := pendingDest (inNet x) 5
      Completes s .net (served x) x ∧ (5 : SReg) ≠ 0 ∧
        s.hart.pendS.find? (fun p => decide (p.2.2 = x.id)) = some (false, 5, x.id) ∧
        ((List.range x.vl).filter fun i => activeIn s x i) = [0, 1, 2, 3] := by
  intro p h
  simp only [List.mem_cons, List.not_mem_nil, or_false] at h
  obtain rfl | rfl | rfl | rfl | rfl | rfl := h <;>
    exact ⟨⟨rfl, rfl, ⟨rfl, rfl, fun _ => rfl⟩, rfl, earlier_alone rfl, (by decide : 0 < 9), (by intro k hk; cases hk), by decide, (by decide +kernel),
      ⟨(by decide : 0 < 32), (by decide : 32 ≤ 32)⟩, rfl⟩, by decide, by decide, by decide +kernel⟩

/-! ### The pipe -/

/-- A Chart access of 16 words from an address on that has not been checked yet, or has. -/
def unchecked (op : VOp) (a : Word) (passed : Bool) (poison : List Nat) : State :=
  let x := entry op [a] (some 3) 16 2
  { user with core := { Core.reset with pipe := [{ served x with left := 1, passed := passed }], chartPoison := poison } }

/-- What the second part of VectorChartAccess asks of it. -/
def InPipe (s : State) (o : UOp) : Prop :=
  s.core.pipe = [o] ∧ o.hid = s.cur.hid ∧ o.hid < 8 ∧ o.left ≠ 0 ∧ o.ent.dones = [] ∧ 0 < o.ent.vl ∧ s.hart.vholds = [] ∧
    0 < s.hart.leff ∧ s.core.chart.wf = true ∧ activeIn s o.ent 0 = true

/-- An element whose address fails. -/
def BadElement (s : State) (o : UOp) (j : Nat) : Prop :=
  activeIn s o.ent j = true ∧
    (chartElement s o.ent .unit j % (sewOf o.ent.vcfg / 8) ≠ 0 ∨
      (if s.hart.hst.helm then 0x10000 else 0x60000) < chartElement s o.ent .unit j + sewOf o.ent.vcfg / 8)

theorem hyp_VectorChartAccess :
    (let x := entry (.vld .unit 4 0) [0x5FFC0] (some 3) 16 2
     Completes (inPipe x) .pipe (served x) x ∧ 0 < x.vl ∧ (inPipe x).core.chart.wf = true) ∧
    (let x := entry (.vst (.stride 10) 4 0) [0x100, 4] (some 3) 16 2
     Completes (inPipe x) .pipe (served x) x ∧ (inPipe x).core.chart.wf = true ∧
       ∀ i < 16, activeIn (inPipe x) x i = true → chartElement (inPipe x) x (.stride 10) i % 4 = 0) ∧
    (∀ a ∈ [(0x5FFC4 : Word), 2], ∃ o, InPipe (unchecked (.vld .unit 4 0) a false []) o ∧ o.passed = false ∧
      ∃ j < 16, BadElement (unchecked (.vld .unit 4 0) a false []) o j) ∧
    (let s := unchecked (.vld .unit 4 0) 0x100 false [0x21]
     ∃ o, InPipe s o ∧ o.passed = false ∧ (∀ j < 16, ¬BadElement s o j) ∧ activeIn s o.ent 2 = true ∧ ownPoison s 0x21 ∧
       8 * 0x21 < chartElement s o.ent .unit 2 + 4 ∧ chartElement s o.ent .unit 2 < 8 * 0x21 + 8) ∧
    (∃ o, InPipe (unchecked (.vld .unit 4 0) 0x100 true []) o ∧ o.passed = true) ∧
    ∀ p, ∃ o, InPipe (unchecked (.vst .unit 4 0) 0x100 p []) o ∧ ∀ j < 16, ¬BadElement (unchecked (.vst .unit 4 0) 0x100 p []) o j := by
  refine ⟨⟨completes_pipe (by decide) (by decide) rfl, by decide, rfl⟩,
    ⟨completes_pipe (by decide) (by decide) rfl, rfl, by decide +kernel⟩, ?_, ⟨_, ⟨rfl, ?_⟩, rfl, ?_, ?_, ⟨?_, ?_⟩, ?_, ?_⟩,
    ⟨_, ⟨rfl, ?_⟩, rfl⟩, ?_⟩
  · intro a ha
    simp only [List.mem_cons, List.not_mem_nil, or_false] at ha
    obtain rfl | rfl := ha
    · exact ⟨_, ⟨rfl, by decide +kernel⟩, rfl, by unfold BadElement; decide +kernel⟩
    · exact ⟨_, ⟨rfl, by decide +kernel⟩, rfl, by unfold BadElement; decide +kernel⟩
  · decide +kernel
  · unfold BadElement; decide +kernel
  · decide +kernel
  · decide +kernel
  · intro x hx; cases hx
  · decide +kernel
  · decide +kernel
  · decide +kernel
  · intro p
    cases p <;> exact ⟨_, ⟨rfl, by decide +kernel⟩, by unfold BadElement; decide +kernel⟩

/-- The owner of an engine command of the first hart. -/
def default0 : Owner := ⟨0, ⟨0, 0, 0, 0⟩, 1, false, 0, 0, 0⟩

theorem hyp_PlaneStoresTranspose :
    (let x := entry (.vstp false 4 0) [0] (some 3) 16 1
     Completes (inPipe x) .pipe (served x) x ∧ (inPipe x).quad.plane.wf = true) ∧
    (let x := entry (.vstp true 4 0) [0x80000, 8] (some 3) 20 0
     Completes (inPipe x) .pipe (served x) x ∧ (x.sv[1]?.getD 0).toNat ≤ 9) ∧
    (let x := entry (.vstp false 4 0) [0] (some 3) 16 1
     let s : State := { inPipe x with
       core := { Core.reset with pipe := [{ served x with left := 1, passed := false }] }
       quad := { Quad.reset with mops := [⟨.mma, 0, default0, 8, 8, 16, 16, 16, 0, 0, 0, 0, .head, false⟩] } }
     ∃ o, s.core.pipe = [o] ∧ o.left ≠ 0 ∧ o.passed = false ∧ s.quad.held ((o.ent.sv.headD 0).toNat / 0x80000 % 4) = true ∧
       s.hart.stores = [] ∧ s.hart.loads = []) :=
  ⟨⟨completes_pipe (by decide) (by decide) rfl, rfl⟩, ⟨completes_pipe (by decide) (by decide) rfl, by decide⟩,
    _, rfl, by decide, rfl, by decide +kernel, rfl, rfl⟩

/-- A queue of one tile move, with tile 1 enabled or not. -/
def tileState (f : VtsFn) (vl : Nat) (ten : BitVec 8) : State :=
  { queue1 (entry (.vts f 4 1 0) [63] none vl 2) with quad := { Quad.reset with ten := ten } }

theorem starts_tile (f : VtsFn) (vl : Nat) (ten : BitVec 8) (h : (VOp.vts f 4 1 0).operandsOk 2 = true) (hv : vl ≤ 64) :
    Starts (tileState f vl ten) (entry (.vts f 4 1 0) [63] none vl 2) [] :=
  starts_of rfl rfl (by simp [State.heldBack, tileState, queue1, alter, user, State.reset, Core.reset, Hart.reset]) (Nat.zero_le 0)
    (Nat.zero_le 0) rfl rfl rfl h (le_trans hv (by decide : 64 ≤ vlmaxOf 32 2 0)) ⟨(by decide : 0 < 32), (by decide : 32 ≤ 32)⟩ rfl

theorem hyp_TileSlicesMove :
    (∀ f ∈ [VtsFn.rdr, .rdc, .rdrz, .rdcz, .wrr, .wrc], ∀ vl ∈ [0, 16, 64], ∀ ten,
      Starts (tileState f vl ten) (entry (.vts f 4 1 0) [63] none vl 2) []) ∧
    (([63] : List Word).headD 0).toNat < 64 ∧ (tileState .rdr 16 0).quad.ten.getLsbD 1 = false ∧
    (tileState .rdr 16 2).quad.ten.getLsbD 1 = true ∧ (tileState .rdr 16 2).quad.tilePoison = [] ∧
    (tileState .rdr 16 2).quad.tiles.wf = true ∧
    (let s : State := { tileState .rdr 16 2 with quad := { Quad.reset with ten := 2, tilePoison := [0x4000 / 8 + 32 * 63 + 1] } }
     let x := entry (.vts .rdr 4 1 0) [63] none 16 2
     activeAt s x 2 = true ∧ (0x4000 + 4 * (64 * 63 + 2)) / 8 ∈ s.quad.tilePoison ∧
       ∀ i < 2, (0x4000 + 4 * (64 * 63 + i)) / 8 ∉ s.quad.tilePoison) := by
  refine ⟨?_, by decide, by decide, by decide, rfl, rfl, by decide +kernel, by decide, by decide⟩
  intro f hf vl hv ten
  have hv' : vl ≤ 64 := by
    simp only [List.mem_cons, List.not_mem_nil, or_false] at hv
    omega
  refine starts_tile f vl ten ?_ hv'
  simp only [List.mem_cons, List.not_mem_nil, or_false] at hf
  obtain rfl | rfl | rfl | rfl | rfl | rfl := hf <;> decide

/-! ### Runs -/

/-- A user with a descriptor and its handle in s2. -/
def holding (r : RunD) : State := withRegs (withRun user 3 r) [(2, handleOf 3 r)]

def runIn (st : RunState) (rdrs : Nat) : RunD := ⟨1, st, 2, rdrs, Writer.none, 5, 0x1000, 16, 16, (0, 0)⟩

/-- Cells of one value at every place of a list. -/
theorem read_cells (f : Nat → Nat) (v : Byte) (hf : ∀ i j, f i = f j → i = j) :
    ∀ (l : List Nat) (k : Nat), k ∈ l → cellsRead (l.map fun i => (f i, v)) (f k) = v
  | [], k, h => by cases h
  | i :: l, k, h => by
    by_cases e : f k = f i
    · simp [cellsRead, e]
    · have hk : k ∈ l := by
        rcases List.mem_cons.1 h with rfl | h
        · exact absurd rfl e
        · exact h
      simp only [List.map_cons, cellsRead, e, if_false]
      exact read_cells f v hf l k hk

theorem wf_cells (base step : Nat) (v : Byte) (hv : v ≠ Mem.unlisted) (hs : 0 < step) :
    ∀ (n k lo : Nat), lo ≤ base + step * k → cellsWf lo ((List.range' k n).map fun i => (base + step * i, v)) = true
  | 0, _, _, _ => rfl
  | n + 1, k, lo, h => by
    have hm : base + step * k + 1 ≤ base + step * (k + 1) := by rw [Nat.mul_succ]; omega
    have := wf_cells base step v hv hs n (k + 1) _ hm
    simp only [List.range'_succ, List.map_cons, cellsWf, Bool.and_eq_true, decide_eq_true_eq]
    exact ⟨⟨h, hv⟩, this⟩

/-- Memory in which no descriptor of die 0 is free. -/
def fullTable : Mem := ⟨(List.range' 0 8192).map fun i => (0x200003C0005 + 32 * i, 0x10)⟩

theorem fullTable_wf : fullTable.wf = true := wf_cells _ _ _ (by decide) (by decide) _ _ _ (Nat.zero_le _)

theorem fullTable_none (i : Nat) (hi : i < 8192) : ((fullTable.read (descAddr 0 i + 5)).toNat / 16 = 0) = False := by
  have e : descAddr 0 i + 5 = 0x200003C0005 + 32 * i := by unfold descAddr; omega
  have := read_cells (fun i => 0x200003C0005 + 32 * i) 0x10 (fun i j h => by omega) (List.range' 0 8192) i
    (by simp [hi])
  rw [e, Mem.read, fullTable, this]
  simp

theorem hyp_RunTableWords :
    Issues user 0 [2, 3, 1] ∧ user.pkg.mem.wf = true ∧ user.run (user.hart.reg 2) = none ∧
    (∀ st ∈ [RunState.alloc, .opened, .sealed, .view, .broken], ∀ n ∈ [0, 511],
      Issues (holding (runIn st n)) 0 [2, 3, 1] ∧ (holding (runIn st n)).pkg.mem.wf = true ∧
        (holding (runIn st n)).run ((holding (runIn st n)).hart.reg 2) = some (runIn st n)) ∧
    -- rmk
    (let s := withRegs user [(2, 0x1002), (3, 16)]
     let h := s.hart.reg 2
     let n := (s.hart.reg 3).toNat
     (h.toNat < 2 ^ 48 ∧ h.toNat / 8 % 8 = 0 ∧ h.toNat % 8 ≠ 7 ∧ n ≠ 0 ∧ n < 2 ^ 40 ∧ n * 4 ≤ 2 ^ 47 ∧
       h.toNat / 64 * 64 + n * 4 ≤ 2 ^ 48) ∧ Issues s 0 [2, 3, 1] ∧
     (0 < 8192 ∧ (s.pkg.mem.read (descAddr s.cur.die 0 + 5)).toNat / 16 = 0)) ∧
    ((user.hart.reg 3).toNat = 0 ∧
     (let s := { user with pkg := { user.pkg with mem := fullTable } }
      Issues s 0 [2, 3, 1] ∧ s.pkg.mem.wf = true ∧
        ∀ i, ¬(i < 8192 ∧ (s.pkg.mem.read (descAddr s.cur.die i + 5)).toNat / 16 = 0))) ∧
    -- rview
    (let s := withRegs (holding sealed) [(3, 0x200000004)]
     (4 : Nat) ≠ 0 ∧ s.useMask.getLsbD 19 = true ∧ ¬((s.hart.reg 3).toNat < 2 ^ 33)) ∧
    (let s := withRegs (holding sealed) [(3, 0x100000004)]
     s.useMask.getLsbD 19 = true ∧ s.run (s.hart.reg 2) = some sealed ∧ (s.hart.reg 3).toNat < 2 ^ 33 ∧ sealed.state = .sealed ∧
       2 ^ ((s.hart.reg 3).toNat / 2 ^ 32) ∣ 2 ^ sealed.wlog ∧ (s.hart.reg 3).toNat % 2 ^ 32 ≠ 0 ∧
       sealed.mark.toNat * 2 ^ sealed.wlog % (2 ^ ((s.hart.reg 3).toNat / 2 ^ 32) * ((s.hart.reg 3).toNat % 2 ^ 32)) = 0 ∧
       sealed.rdrs ≠ 511 ∧ 0 < 8192 ∧ (s.pkg.mem.read (descAddr 0 0 + 5)).toNat / 16 = 0) := by
  refine ⟨issues_user (by decide +kernel) _, rfl, by decide +kernel, ?_, ⟨by decide +kernel, issues_of (by decide +kernel) rfl rfl _,
    by decide +kernel⟩, ⟨by decide +kernel, issues_of (by decide +kernel) rfl rfl _, fullTable_wf, ?_⟩, by decide +kernel,
    by decide +kernel⟩
  · intro st hst n hn
    refine ⟨issues_of ?_ rfl rfl _, ?_, ?_⟩
    · revert n; revert st; decide +kernel
    · revert n; revert st; decide +kernel
    · revert n; revert st; decide +kernel
  · rintro i ⟨hi, h⟩
    exact (fullTable_none i hi).mp h

/-! ### Ports -/

/-- Range entries: DVAs below 1 GiB are Hold of die 0, those from 1 GiB on its beacons, those from 2 GiB on Hold of die 1. -/
def ranges0 : List (Nat × Range) :=
  [(0, ⟨0, 0x40000000, 0x10000000000, 0x17⟩), (1, ⟨0x40000000, 0x40200000, 0x1FFC0000000, 0x17⟩), (2, ⟨0x80000000, 0xC0000000, 0x10080000000, 0x17⟩)]

def mapped (s : State) : State := { s with die := { s.die with ranges := ranges0 } }

def port (h l : Word) : PortSt := ⟨true, h, l, 0, false, false, 0, none⟩
def withPort (s : State) (p : Port) (x : PortSt) : State := alter s fun h => { h with ports := h.ports.set p x }

/-- A state about to bind a port to a run. -/
def binding (r : RunD) (l : Word) : State := mapped (withRegs (holding r) [(3, l)])

theorem hyp_PortWords :
    Issues user 0 [2, 3, 1] ∧ user.portBusy 0 = false ∧ user.pkg.mem.wf = true ∧
    (user.hart.ports[(0 : Port)]).bound = false ∧
    -- punbind and pseal of a reading and a writing port
    (let s := reading user
     s.portBusy 0 = false ∧ s.pkg.mem.wf = true ∧ s.hart.ports[(0 : Port)].bound = true ∧
       s.hart.ports[(0 : Port)].layout.getLsbD 3 = false ∧ s.run s.hart.ports[(0 : Port)].handle = some sealed ∧
       s.pkg.cutOff s.cur.die (s.hart.ports[(0 : Port)].handle.toNat / 2 ^ 46 % 4) = false ∧
       s.hart.ports[(0 : Port)].pos ≤ (s.hart.reg 3).toNat) ∧
    (let r := runIn .opened 0
     let s := withPort (withRun user 3 r) 0 (port (handleOf 3 r) 8)
     s.hart.ports[(0 : Port)].bound = true ∧ s.hart.ports[(0 : Port)].layout.getLsbD 3 = true ∧
       s.run s.hart.ports[(0 : Port)].handle = some r ∧ s.hart.ports[(0 : Port)].pos % 2 ^ r.wlog = 0 ∧
       s.pkg.cutOff s.cur.die (s.hart.ports[(0 : Port)].handle.toNat / 2 ^ 46 % 4) = false) ∧
    -- a port bound to a run of a die that is cut off
    (let s := withPort { user with pkg := { user.pkg with isolated := [1] } } 0 (port (2 ^ 46) 8)
     s.hart.ports[(0 : Port)].bound = true ∧ s.portBusy 0 = false ∧ s.pkg.mem.wf = true ∧
       s.pkg.cutOff s.cur.die (s.hart.ports[(0 : Port)].handle.toNat / 2 ^ 46 % 4) = true) ∧
    -- pbind
    layoutOk 0x10 = false ∧ (layoutOk (user.hart.reg 3) = true ∧ user.hart.ports[(0 : Port)].bound = false ∧
      user.run (user.hart.reg 2) = none) ∧
    (∀ p ∈ [(runIn .sealed 511, (0 : Word)), (runIn .sealed 0, 0), (runIn .opened 0, 8), (runIn .sealed 0, 8),
        ({ runIn .alloc 0 with mark := 0 }, 8)],
      let s := binding p.1 p.2
      s.useMask.getLsbD 0 = true ∧ s.hart.infl = [] ∧ s.hart.pendS = [] ∧ s.pkg.mem.wf = true ∧ layoutOk (s.hart.reg 3) = true ∧
        s.hart.ports[(0 : Port)].bound = false ∧ s.run (s.hart.reg 2) = some p.1) ∧
    (∃ t, (binding (runIn .sealed 0) 0).checkStream ((binding (runIn .sealed 0) 0).xl false) (runIn .sealed 0) .read 0 = .ok t) ∧
    (let r := { runIn .alloc 0 with mark := 0 }
     let s := binding r 8
     s.cur.core < 5 ∧ s.cur.hid < 8 ∧ s.cur.die < 4 ∧ s.cur.quad < 64 ∧ r.mark.toNat < r.cap.toNat ∧
       ∃ t, s.checkStream (s.xl false) r .write (r.mark.toNat * 2 ^ r.wlog) = .ok t) := by
  refine ⟨issues_user (by decide +kernel) _, rfl, rfl, by decide +kernel, by decide +kernel, by decide +kernel, by decide +kernel, by decide,
    by decide +kernel, by decide +kernel, ⟨_, rfl⟩, by decide, by decide, by decide, by decide, by decide, ⟨_, rfl⟩⟩

/-! ### Beacons -/

/-- A user whose s2 holds a beacon address. -/
def atBeacon : State := mapped (withRegs user [(2, 0x40000040)])

def scalarOp (id : Nat) (k : BKind) (val : Word) : BOp :=
  ⟨id, k, 0x100, some 3, false, 2, false, true, none, [⟨0, 0x20000000040, val, 5⟩], []⟩

/-- A hart with accesses of one class under way. -/
def accesses (l : List BOp) : State := alter atBeacon fun h => { h with bops := l, pendS := [(false, 5, 64)] }

/-- What the performing of accesses assumes of one of them, with an element left. -/
def Performing (s : State) (b : BOp) (pre post : List BOp) : Prop :=
  s.hart.bops = pre ++ b :: post ∧ b.started = true ∧ b.elems ≠ [] ∧ (∀ c ∈ pre ++ post, c.id ≠ b.id) ∧
    s.hart.queueFrozen = false ∧ s.bopReady b = true ∧ s.pkg.mem.wf = true ∧ s.hart.vholds = []

/-- An entry of two beacon addresses in v8. -/
def beaconEntry (op : VOp) (vl : Nat) : VEntry := entry op [] (some 3) vl 3

/-- A vector access of it that has started, with the elements given left. -/
def vectorOp (k : BKind) (op : VOp) (elems : List BElem) (got : List (Nat × Word)) : BOp :=
  ⟨64, k, 0x100, some 3, false, 2, false, true, some (beaconEntry op 2), elems, got⟩

/-- A queue that holds a vector access, its first address as given and its second a beacon of die 0. -/
def beaconQueue (op : VOp) (vl : Nat) (a : Nat) (poison : List Nat) : State :=
  let s := mapped (queue1 (beaconEntry op vl))
  { alter s fun h => { h with v := h.v.set 8 (BitVec.ofNat 8192 (a + 2 ^ 256 * 0x40000048))
                              bops := [{ vectorOp (.vload 4) op [] [] with started := false, ent := none }] } with
    pkg := { s.pkg with beaconPoison := poison } }

theorem starts_beacon (op : VOp) (vl a : Nat) (poison : List Nat) (h : op.operandsOk 3 = true) (hv : vl ≤ 128)
    (hb : (beaconQueue op vl a poison).heldBack op = false)
    (hr : (let s := beaconQueue op vl a poison
           let x := beaconEntry op vl
           let g := s.hart.geo { x with fm := s.hart.fm }
           s.hart.raceAt g.us g.w g.n g.g8 g.sew (tpOf x.vcfg && decide (x.vl ≠ 0)) (max s.hart.beat x.slot) x.id) = none) :
    Starts (beaconQueue op vl a poison) (beaconEntry op vl) [] :=
  ⟨rfl, rfl, hb, ⟨Nat.zero_le _, Nat.zero_le _⟩, rfl, hr, h, le_trans hv (by decide : 128 ≤ vlmaxOf 32 3 0),
    ⟨(by decide : 0 < 32), (by decide : 32 ≤ 32)⟩, rfl⟩

/-- The address of element i of it. -/
def beaconAt (s : State) (i bytes : Nat) (write reads : Bool) : Option Nat :=
  s.beaconAddr (BitVec.ofNat 64 (element s.hart 64 8 i)) bytes write reads

theorem hyp_BeaconAccesses :
    Free user [2, 3, 1] ∧ MayPost user ∧ user.useMask.getLsbD 0 = true ∧ user.useMask.getLsbD 20 = true ∧
    user.useMask.getLsbD 13 = true ∧ user.beaconAddr (user.hart.reg 2) 8 true true = none ∧
    (Free atBeacon [2, 3, 1] ∧ atBeacon.useMask.getLsbD 20 = true ∧
      atBeacon.beaconAddr (atBeacon.hart.reg 2) 8 true true = some 0x20000000040 ∧
      0x20000000040 / 8 ∉ atBeacon.pkg.beaconPoison ∧ MayPost atBeacon) ∧
    (let s := { atBeacon with pkg := { atBeacon.pkg with beaconPoison := [0x20000000040 / 8] } }
     s.beaconAddr (s.hart.reg 2) 8 false true = some 0x20000000040 ∧ 0x20000000040 / 8 ∈ s.pkg.beaconPoison) ∧
    (let s := alter atBeacon fun h => { h with tk := h.tk.set 3 ⟨0, 64⟩ }
     ¬MayPost s) := by
  refine ⟨free_of rfl rfl _, ?_, by decide +kernel, by decide +kernel, by decide +kernel, by decide +kernel,
    ⟨free_of rfl rfl _, by decide +kernel, by decide +kernel, by decide +kernel, ?_⟩, by decide +kernel, ?_⟩ <;>
    (unfold MayPost; decide +kernel)

theorem hyp_BeaconAccesses_start :
    (let op : VOp := .vbld false 4 8 2
     Starts (beaconQueue op 2 0x40000040 []) (beaconEntry op 2) [] ∧
       (∀ i < 2, beaconAt (beaconQueue op 2 0x40000040 []) i 8 false true ≠ none) ∧
       beaconAt (beaconQueue op 2 0x41 []) 0 8 false true = none ∧ activeAt (beaconQueue op 2 0x41 []) (beaconEntry op 2) 0 = true ∧
       beaconAt (beaconQueue op 2 0x40000040 [0x20000000048 / 8]) 1 8 false true = some 0x20000000048) ∧
    (let op : VOp := .vbst false 4 8 2
     Starts (beaconQueue op 2 0x40000040 []) (beaconEntry op 2) [] ∧
       ∀ i < 2, beaconAt (beaconQueue op 2 0x40000040 []) i 8 true false ≠ none) ∧
    (let op : VOp := .vamaxe 4 8 12 2
     Starts (beaconQueue op 2 0x40000040 []) (beaconEntry op 2) [] ∧
       ∀ i < 2, beaconAt (beaconQueue op 2 0x40000040 []) i 1 true true ≠ none) ∧
    Starts (beaconQueue (.vbld true 4 8 15) 0 0x40000040 []) (beaconEntry (.vbld true 4 8 15) 0) [] := by
  refine ⟨⟨starts_beacon _ _ _ _ (by decide) (by decide) (by decide +kernel) (by decide +kernel), ?_, ?_, ?_, ?_⟩,
    ⟨starts_beacon _ _ _ _ (by decide) (by decide) (by decide +kernel) (by decide +kernel), ?_⟩,
    ⟨starts_beacon _ _ _ _ (by decide) (by decide) (by decide +kernel) (by decide +kernel), ?_⟩,
    starts_beacon _ _ _ _ (by decide) (by decide) (by decide +kernel) (by decide +kernel)⟩ <;> decide +kernel

theorem hyp_BeaconAccesses_perform :
    (∀ k ∈ [BKind.load 5, .store, .atomic .cas 5, .atomic .maxe 5],
      Performing (accesses [scalarOp 64 k 7, scalarOp 129 .store 8]) (scalarOp 64 k 7) [] [scalarOp 129 .store 8]) ∧
    (∀ p ∈ [(BKind.vload 4, VOp.vbld false 4 8 2), (.vstore, .vbst false 4 8 2), (.vatomic 4, .vamaxe 4 8 12 2)],
      let b := vectorOp p.1 p.2 [⟨0, 0x20000000040, 0, 0⟩, ⟨1, 0x20000000048, 0, 0⟩] []
      Performing (accesses [b]) b [] []) ∧
    (let b := scalarOp 129 .store 8
     let s := accesses [scalarOp 64 (.load 5) 7, b]
     s.hart.bops = [scalarOp 64 (.load 5) 7] ++ b :: [] ∧ b.elems ≠ [] ∧
       ∃ c ∈ [scalarOp 64 (.load 5) 7] ++ ([] : List BOp), c.id < b.id ∧ c.oc = b.oc ∧ (c.started = false ∨ c.elems ≠ []) ∧
         ∀ m, c.kind ≠ .fence m) ∧
    -- completions
    (let b : BOp := { scalarOp 64 (.load 5) 7 with elems := [], got := [(0, 9)] }
     (accesses [b]).hart.bops = [] ++ b :: [] ∧ b.started = true ∧ b.elems = [] ∧ b.ent = none ∧ b.tok = some 3 ∧
       (accesses [b]).hart.pendS.find? (fun q => decide (q.2.2 = 64)) = some (false, 5, 64) ∧ (5 : SReg) ≠ 0) ∧
    (∀ p ∈ [(BKind.vload 4, VOp.vbld false 4 8 2), (.vstore, .vbst false 4 8 2), (.vatomic 4, .vamaxe 4 8 12 2)],
      let b := vectorOp p.1 p.2 [] [(0, 7), (1, 8)]
      (accesses [b]).mergesBefore b.id = false ∧ (accesses [b]).hart.vholds = [] ∧
        ∃ x, b.ent = some x ∧ x.id = b.id ∧ x.dones = [] ∧ x.op.operandsOk x.vcfg = true ∧
          x.vl ≤ vlmaxOf (accesses [b]).hart.leff x.vcfg 0 ∧ 0 < x.vl ∧
          ∀ i, activeIn (accesses [b]) x i = true → ∃ v, (i, v) ∈ b.got) := by
  have two : ∀ (s : State) (op : VOp) (i : Nat), activeIn s (beaconEntry op 2) i = true → i = 0 ∨ i = 1 := by
    intro s op i h
    simp only [activeIn, Bool.and_eq_true, decide_eq_true_eq] at h
    have : i < 2 := h.1.1
    omega
  refine ⟨?_, ?_, ⟨rfl, by decide, scalarOp 64 (.load 5) 7, List.mem_cons_self .., by decide, rfl, .inr (by decide), fun m h => by cases h⟩,
    ⟨rfl, rfl, rfl, rfl, rfl, by decide +kernel, by decide⟩, ?_⟩
  · intro k hk
    simp only [List.mem_cons, List.not_mem_nil, or_false] at hk
    obtain rfl | rfl | rfl | rfl := hk <;> exact ⟨rfl, rfl, by decide, by decide, by decide +kernel, by decide +kernel, rfl, rfl⟩
  · intro p hp
    simp only [List.mem_cons, List.not_mem_nil, or_false] at hp
    obtain rfl | rfl | rfl := hp <;> exact ⟨rfl, rfl, by decide, by decide, by decide +kernel, by decide +kernel, rfl, rfl⟩
  · intro p hp
    simp only [List.mem_cons, List.not_mem_nil, or_false] at hp
    have go : ∀ (s : State) (op : VOp) (i : Nat), activeIn s (beaconEntry op 2) i = true →
        ∃ v, (i, v) ∈ [((0 : Nat), (7 : Word)), (1, 8)] := by
      intro s op i h
      obtain rfl | rfl := two s op i h
      · exact ⟨7, by simp⟩
      · exact ⟨8, by simp⟩
    obtain rfl | rfl | rfl := hp <;>
      exact ⟨by decide +kernel, rfl, _, rfl, rfl, rfl, by decide, by decide +kernel, by decide, go _ _⟩

/-! ### Fences and waits -/

/-- A `vwait` that watches two words, the second met. -/
def watcher (value : Word) (start : Nat) : UOp :=
  { served (entry (.vwait 2 4 0) [8] (some 3) 2 3) with
    start := start, since := start, addrs := [⟨0, 0x20000000040, value, 0⟩, ⟨1, 0x20000000048, 0, 0⟩] }

def waiting (value : Word) (start : Nat) : State :=
  { alter atBeacon (fun h => { h with slot := 9, clock := 9 }) with core := { Core.reset with pipe := [watcher value start] } }

/-- What FencesAndWaits assumes of it. -/
def Watches (s : State) (o : UOp) : Prop :=
  s.core.oldest .pipe s.cur.hid = some o ∧ o.ent.op = .vwait 2 4 0 ∧ o.blocked = false ∧ o.left = 0 ∧ o.start < s.hart.slot ∧
    s.hart.merges = [] ∧ s.hart.vholds = [] ∧ (∀ e ∈ o.addrs, e.idx < 8192) ∧ s.core.pipe = [o] ∧ s.core.net = []

theorem hyp_FencesAndWaits :
    Issues user 0 [2] ∧ user.hart.queueFrozen = false ∧ user.hart.bops = [] ∧ user.hart.vq = [] ∧ user.core.pipe = [] ∧ user.hart.stores = [] ∧
    (user.hart.reg 2).toNat / 2 ^ 18 = 0 ∧ ((withRegs user [(2, 0x40000)]).hart.reg 2).toNat / 2 ^ 18 ≠ 0 ∧
    (Watches (waiting 0 0) (watcher 0 0) ∧
      ∀ e ∈ (watcher 0 0).addrs, 0 ≤ ((waiting 0 0).pkg.mem.word e.pa - e.val).toInt) ∧
    (Watches (waiting 1 5) (watcher 1 5) ∧ (waiting 1 5).hart.clock < (watcher 1 5).since + ((watcher 1 5).ent.sv.headD 0).toNat ∧
      ∃ e ∈ (watcher 1 5).addrs, ¬0 ≤ ((waiting 1 5).pkg.mem.word e.pa - e.val).toInt) ∧
    Watches (waiting 1 1) (watcher 1 1) ∧ (watcher 1 1).since + ((watcher 1 1).ent.sv.headD 0).toNat ≤ (waiting 1 1).hart.clock := by
  refine ⟨issues_user (by decide +kernel) _, by decide +kernel, rfl, rfl, rfl, rfl, by decide +kernel, by decide +kernel, ⟨?_, ?_⟩,
    ⟨?_, ?_, ?_⟩, ?_, ?_⟩
  · exact ⟨rfl, rfl, rfl, rfl, by decide +kernel, rfl, rfl, by decide +kernel, rfl, rfl⟩
  · decide +kernel
  · exact ⟨rfl, rfl, rfl, rfl, by decide +kernel, rfl, rfl, by decide +kernel, rfl, rfl⟩
  · decide +kernel
  · decide +kernel
  · exact ⟨rfl, rfl, rfl, rfl, by decide +kernel, rfl, rfl, by decide +kernel, rfl, rfl⟩
  · decide +kernel

set_option maxRecDepth 100000

/-! ### Port transfers -/

/-- An operation of the pipe that moves through port 0, bound to descriptor 3 with a layout. -/
def moving (x : VEntry) (r : RunD) (l : Word) : State := withPort (withRun (inPipe x) 3 r) 0 (port (handleOf 3 r) l)

theorem completes_moving {x : VEntry} (r : RunD) (l : Word) (h1 : x.op.operandsOk x.vcfg = true) (h2 : x.vl ≤ vlmaxOf 32 x.vcfg 0)
    (h3 : x.dones = []) : Completes (mapped (moving x r l)) .pipe (served x) x :=
  ⟨rfl, rfl, ⟨rfl, rfl, fun _ => rfl⟩, rfl, earlier_alone rfl, (by decide : 0 < 9), (by intro k hk; cases hk), h1, h2,
    ⟨(by decide : 0 < 32), (by decide : 32 ≤ 32)⟩, h3⟩

def readEntry (f : VptFn) (vcfg : BitVec 9) : VEntry := entry (.vpt f 4 0 8 0) [] (some 3) 2 vcfg

/-- The translation of the first range of `ranges0`, its frame checked. -/
def tr0 : Tr := ⟨0, 0x40000000, 0x10000000000, true, true, false, true, false, 0, some 0x10000001, 0⟩

theorem hyp_PortTransfersMove_read :
    (let r := runIn .sealed 1
     let x := readEntry .rd 2
     let s := mapped (moving x r 0)
     let plan := readPlan s x .rd 0 8 r
     Completes s .pipe (served x) x ∧ s.run s.hart.ports[(0 : Port)].handle = some r ∧ s.hart.ports[(0 : Port)].tr = none ∧
       plan.items = [0, 1] ∧
       (r.avail (plan.place 0) (plan.size 0) = .ready ∧
         s.readStream (s.xl false) r none (plan.place 0) (plan.size 0) = .ok (some tr0, [0, 0, 0, 0])) ∧
       r.avail (plan.place 1) (plan.size 1) = .ready ∧
       s.readStream (s.xl false) r (some tr0) (plan.place 1) (plan.size 1) = .ok (some tr0, [0, 0, 0, 0])) ∧
    (∀ p ∈ [(RunState.opened, Avail.wait), (.sealed, .ended), (.broken, .broken)],
      let r := { runIn p.1 1 with mark := 0 }
      let x := readEntry .rdff 2
      let s := mapped (moving x r 0)
      s.run s.hart.ports[(0 : Port)].handle = some r ∧ (readPlan s x .rdff 0 8 r).items = [0, 1] ∧
        r.avail ((readPlan s x .rdff 0 8 r).place 0) ((readPlan s x .rdff 0 8 r).size 0) = p.2) ∧
    (∀ f ∈ [VptFn.rd, .rdff, .peek],
      let r := { runIn .sealed 1 with base := 0xC0000000 }
      let x := readEntry f 2
      let s := mapped (moving x r 0)
      let plan := readPlan s x f 0 8 r
      Completes s .pipe (served x) x ∧ s.run s.hart.ports[(0 : Port)].handle = some r ∧
        r.avail (plan.place 0) (plan.size 0) = .ready ∧
        s.readStream (s.xl false) r none (plan.place 0) (plan.size 0) = .error .fault) ∧
    (let r := runIn .sealed 1
     let x := readEntry .rdnffF 2
     let s := mapped (moving x r 0x4000000)
     Completes s .pipe (served x) x ∧ (readPlan s x .rdnffF 0 8 r).items = [0, 1] ∧ (readPlan s x .rdnffF 0 8 r).size 1 = 1) := by
  refine ⟨⟨completes_moving _ _ (by decide) (by decide) rfl, by decide +kernel, rfl, by decide +kernel, ⟨by decide +kernel, rfl⟩, by decide +kernel, rfl⟩,
    ?_, ?_, completes_moving _ _ (by decide) (by decide) rfl, by decide +kernel, by decide +kernel⟩
  · decide +kernel
  · intro f hf
    simp only [List.mem_cons, List.not_mem_nil, or_false] at hf
    obtain rfl | rfl | rfl := hf <;> exact ⟨completes_moving _ _ (by decide) (by decide) rfl, by decide +kernel, by decide +kernel, rfl⟩

theorem hyp_PortTransfersMove_write :
    (let r := { runIn .opened 0 with mark := 0 }
     let x := readEntry .wr 2
     let s := mapped (moving x r 8)
     Completes s .pipe (served x) x ∧ s.run s.hart.ports[(0 : Port)].handle = some r ∧
       (∃ u, s.writeStream (s.xl false) r none 0 (leBytes (element s.hart 32 4 0) 4) = .ok (some tr0, u) ∧
         ∃ v, u.writeStream (s.xl false) r (some tr0) 4 (leBytes (element s.hart 32 4 1) 4) = .ok (some tr0, v)) ∧
       -- the first element goes ahead of the completion
       ((served x).stored + 1 < x.vl ∧
         (((List.range x.vl).filter fun i => activeIn s x i).filter fun i => decide (i < (served x).stored + 1)).length = 1) ∧
       0 + 2 * 4 ≤ r.cap.toNat * 2 ^ r.wlog) ∧
    (let r := { runIn .opened 0 with mark := 0, cap := 1 }
     let s := mapped (moving (readEntry .wr 2) r 8)
     s.run s.hart.ports[(0 : Port)].handle = some r ∧ r.cap.toNat * 2 ^ r.wlog < 4 + 4) ∧
    (let r := { runIn .opened 0 with mark := 0, base := 0xC0000000 }
     let s := mapped (moving (readEntry .wr 2) r 8)
     s.writeStream (s.xl false) r none 0 [0, 0, 0, 0] = .error .fault) ∧
    (let x := readEntry .wr 2
     let o : UOp := { served x with stored := 1 }
     let s := mapped (moving x { runIn .opened 0 with mark := 0 } 8)
     Completes { s with core := { s.core with pipe := [o] } } .pipe o x ∧ x.vl ≤ o.stored + 1) ∧
    (let x := readEntry .wrnF 2
     Completes (mapped (moving x (runIn .opened 0) 0x4000008)) .pipe (served x) x) ∧
    -- the stream
    (let s := mapped user
     let r := runIn .alloc 0
     let g : Range := ⟨0, 0x40000000, 0x10000000000, 0x17⟩
     r.state ≠ .view ∧ s.pkg.bad = [] ∧ g.base.toNat ≤ r.base.toNat + 8 ∧ g.limit.toNat < 2 ^ 48 ∧ findRange (s.getDie 0).ranges 0 (r.base.toNat + 8) = some g ∧ r.base.toNat + 8 + 4 ≤ g.limit.toNat ∧
       g.attr.getLsbD 8 = false ∧ g.attr.getLsbD 4 = true ∧ g.attr.getLsbD 1 = true ∧ g.attr.getLsbD 2 = true ∧
       ∀ k < 4, inHold ((r.base.toNat + 8 + k + g.off.toNat) % 2 ^ 48) = true ∧
         s.pkg.cutOff 0 (homeDie ((r.base.toNat + 8 + k + g.off.toNat) % 2 ^ 48)) = false ∧
         s.pkg.poisoned ((r.base.toNat + 8 + k + g.off.toNat) % 2 ^ 48 / 4096) = false) := by
  refine ⟨⟨completes_moving _ _ (by decide) (by decide) rfl, by decide +kernel, ⟨_, rfl, _, rfl⟩, by decide +kernel, by decide⟩,
    ⟨by decide +kernel, by decide⟩, rfl,
    ⟨⟨rfl, rfl, ⟨rfl, rfl, fun _ => rfl⟩, rfl, by decide +kernel, (by decide : 0 < 9), (by intro k hk; cases hk), by decide, by decide,
      ⟨(by decide : 0 < 32), (by decide : 32 ≤ 32)⟩, rfl⟩, by decide⟩, completes_moving _ _ (by decide) (by decide) rfl, ?_⟩
  decide +kernel

set_option maxRecDepth 100000

/-- What belongs to the context of the running hart, whose flags have all merged. -/
theorem owned {s : State} {o : Owner} (h1 : s.hart.merges = []) (h2 : s.core.pipe ++ s.core.net = []) (h3 : o.ctx ≠ 0)
    (h4 : o.sup = false) (h5 : s.hart.ctx.map Ctx.id = some o.ctx) : OwnedHere s o :=
  ⟨⟨(by rw [h1]; intro m hm; cases hm), (by rw [h2]; intro u hu; cases hu)⟩, .inr ⟨h3, h4, h5⟩⟩

/-! ### The matrix array -/

def helmRegs (l : List (SReg × Word)) : State := withRegs helm l

/-- The helm core's hart of a quad with a configuration, tile 0 enabled, and operations in the array. -/
def array (mops : List Mop) : State :=
  { helmRegs [(2, 0x40), (3, 64), (4, 0x80040), (5, 64), (6, 1)] with
    quad := { Quad.reset with ten := 1, mxcV := true, afmt := 8, bfmt := 8, mg := 4, ng := 4, kg := 16, mops := mops } }

def mop (f : MopFn) (st : MopState) : Mop :=
  ⟨f, 0, ⟨64, ⟨0, 0, 4, 0⟩, 1, false, 3, 0x100, 0⟩, 8, 8, 4, 4, 16, 0x40, 64, 0x80040, 64, st, false⟩

theorem hyp_MatrixConfiguration :
    Free helm [1, 2, 3] ∧ helm.hart.hst.helm = true ∧ FormatsDeclared helm [0, 0] ∧ FormatsDeclared helm (formatsOf helm.quad) ∧
    (let s := helmRegs [(2, 32), (3, 8)]; FormatsDeclared s [0, 8] ∧ 32 ≤ (s.hart.reg 2).toNat) ∧
    (let s := helmRegs [(2, 8), (3, 8)]; FormatsDeclared s [8, 8] ∧ (s.hart.reg 2).toNat = 8 ∧ (s.hart.reg 3).toNat = 8) ∧
    (let s := helmRegs [(2, 0x18), (3, 0x14)]; FormatsDeclared s [0x18, 0x14] ∧ (s.hart.reg 2).toNat = 0x18) ∧
    (let s := helmRegs [(2, 8), (3, 0x14)]; FormatsDeclared s [8, 0x14] ∧ (s.hart.reg 2).toNat < 32) ∧
    ((1 : SReg) ≠ 2 ∧ (1 : SReg) ≠ 3 ∧ (2 : SReg) ≠ 3) ∧ Quiet helm ∧
    256 ≤ ((helmRegs [(2, 256)]).hart.reg 2).toNat ∧ (helm.hart.reg 2).toNat < 256 ∧ helm.quad.tiles.wf = true ∧
    (let s := { array [mop .mzero .queued] with hart := (helmRegs [(2, 1)]).hart }
     ∃ o ∈ s.quad.mops, (((s.hart.reg 2).setWidth 8 : BitVec 8) &&& s.quad.ten).getLsbD o.tile.val = true) ∧
    helm.quad.mops = [] := by
  refine ⟨free_of rfl rfl _, rfl, ?_, ?_, ⟨?_, by decide +kernel⟩, ⟨?_, by decide +kernel, by decide +kernel⟩,
    ⟨?_, by decide +kernel⟩, ⟨?_, by decide +kernel⟩, by decide, ⟨rfl, rfl, rfl, rfl⟩, by decide +kernel, by decide +kernel, rfl,
    by decide +kernel, rfl⟩ <;> (unfold FormatsDeclared; decide +kernel)

theorem hyp_MatrixOperations :
    helm.hart.hst.helm = true ∧ FormatsDeclared helm (formatsOf helm.quad) ∧ helm.quad.ten.getLsbD 0 = false ∧
    helm.quad.mxcV = false ∧
    (let s := array []
     FormatsDeclared s (formatsOf s.quad) ∧ s.quad.ten.getLsbD 0 = true ∧ s.quad.ten.getLsbD 1 = false ∧ s.quad.mxcV = true ∧
       MayPost s ∧ Free s [2, 4] ∧ Free s [3] ∧ Free s [5] ∧ ((2 : SReg) ≠ 0 ∧ (2 : SReg).val % 2 = 0 ∧ (4 : SReg) ≠ 0 ∧ (4 : SReg).val % 2 = 0) ∧
       (DescFits (s.hart.reg 2) 4 (1 * operandBytes 8) ∧ DescFits (s.hart.reg 4) 4 (1 * operandBytes 8)) ∧
       ¬(s.quad.mg = 0 ∨ s.quad.ng = 0 ∨ s.quad.kg = 0) ∧ ¬DescFits (s.hart.reg 6) 4 (1 * operandBytes 8)) ∧
    -- the last byte of a bank, and one more
    (DescFits 0x7FFC0 1 64 ∧ ¬DescFits 0x7FFC0 1 65 ∧ ¬DescFits 0x40000000000 1 1) ∧
    8 ≤ (array (List.replicate 8 (mop .mma .queued))).quad.mops.length ∧
    ¬MayPost (alter (array []) fun h => { h with tk := h.tk.set 3 ⟨0, 64⟩ }) ∧
    (∀ st ∈ [MopState.queued, .head, .read], ∀ f ∈ [MopFn.mma, .mmaz, .mzero],
      let s := array [mop f st]
      s.quad.mops = mop f st :: [] ∧ (mop f st).state = st ∧ OwnedHere s (mop f st).owner ∧ s.quad.tilePoison = [] ∧
        s.quad.planePoison = [] ∧ s.quad.tiles.wf = true ∧ (mop f st).mg ≤ 64 ∧ (mop f st).ng ≤ 64) ∧
    ∀ c < 4, ((array []).getCore ⟨0, 0, c, 0⟩).pipe = [] ∧ ∀ k : Chan, ((array []).getCore ⟨0, 0, c, 0⟩).chans[k].q = [] := by
  refine ⟨rfl, ?_, by decide, rfl, ⟨?_, by decide, by decide, rfl, ?_, free_of rfl rfl _, free_of rfl rfl _, free_of rfl rfl _, by decide,
      by unfold DescFits; decide +kernel, by decide, by unfold DescFits; decide +kernel⟩, by unfold DescFits; decide,
    by decide, ?_, ?_, by decide +kernel⟩
  · unfold FormatsDeclared; decide +kernel
  · unfold FormatsDeclared; decide +kernel
  · unfold MayPost; decide +kernel
  · unfold MayPost; decide +kernel
  · intro st _ f _
    exact ⟨rfl, rfl, owned rfl rfl (by decide : 1 ≠ 0) rfl rfl, rfl, rfl, rfl, (by decide : 4 ≤ 64), (by decide : 4 ≤ 64)⟩

/-! ### The Sorter -/

def passOf (f : SrtFn) (ins : List Word) (running : Bool) (seq : Nat) : Pass :=
  { f := f, owner := ⟨seq, ⟨0, 0, 0, 0⟩, 1, false, 3, 0x100, 0⟩, ctl := keys8, out := handleOf 4 (runIn .opened 0), aux := 0, ins := ins
    running := running, pos := [0], nRead := 0, nOut := 0, nAux := 0, flags := 0, reading := true, recs := []
    group := [], formed := [], aborts := [], tctx := 0, root := 0, user := true, trs := [] }

def sorting (s : State) (l : List Pass) : State := { s with quad := { s.quad with passes := l } }

def srtEntry : VEntry := entry (.srt .sort 5 4) [keys8] (some 3) 3 3

/-- An input that holds nothing and an output under way. -/
def tagRuns (st : RunState) : State :=
  withRun (withRun user 3 { runIn st 1 with mark := 0 }) 4 { runIn .opened 0 with mark := 0 }

def tagPass (st : RunState) : Pass := passOf .tag [handleOf 3 (runIn st 1)] true 64

theorem starts_srt (l : List Pass) : Starts (sorting (queue1 srtEntry) l) srtEntry [] :=
  starts_of rfl rfl (by simp [State.heldBack, sorting, queue1, alter, user, State.reset, Core.reset, Hart.reset]) (Nat.zero_le 0)
    (Nat.zero_le 0) rfl rfl rfl (by decide) (by decide : 3 ≤ vlmaxOf 32 3 0) ⟨(by decide : 0 < 32), (by decide : 32 ≤ 32)⟩ rfl

/-- A pass that waits for its start, behind another. -/
def tagNext : Pass := { passOf .tag [handleOf 3 (runIn .sealed 1)] false 129 with ctl := 0x180 }

def outRun (st : RunState) : RunD := { runIn st 0 with wlog := 3, mark := 0 }
def inRun (st : RunState) (rdrs : Nat) : RunD := { runIn st rdrs with wlog := 3, mark := 0 }

/-- It alone in the queue, with the runs it names. -/
def startable (out inp : RunState) (rdrs : Nat) (cap : Word) : State :=
  sorting (mapped (withRun (withRun user 3 (inRun inp rdrs)) 4 { outRun out with cap := cap })) [tagNext]

theorem hyp_SorterPasses :
    (∀ l, Starts (sorting (queue1 srtEntry) l) srtEntry []) ∧ srtEntry.op = .srt .sort 5 4 ∧
    16 ≤ (sorting (queue1 srtEntry) (List.replicate 16 (tagPass .sealed))).quad.passes.length ∧
    (sorting (queue1 srtEntry) []).quad.passes.length < 16 ∧
    (sorting (queue1 srtEntry) []).sorterFirst = false ∧
    -- a start: the pass before it can move, or waits
    (let s := sorting (mapped (tagRuns .sealed)) [tagPass .sealed, tagNext]
     s.quad.passes = [tagPass .sealed] ++ tagNext :: [] ∧ (tagPass .sealed).running = true ∧ tagNext.running = false ∧
       s.passMove (tagPass .sealed) ≠ .wait) ∧
    ((sorting (mapped (tagRuns .opened)) [tagPass .opened, tagNext]).passMove (tagPass .opened) = .wait ∧
      (tagPass .opened).owner.seq ≠ tagNext.owner.seq ∧ OwnedHere (tagRuns .opened) tagNext.owner ∧ tagNext.owner.ctx ≠ 0 ∧
      tagNext.recs = [] ∧ tagNext.nOut = 0 ∧ tagNext.flags = 0 ∧ user.run tagNext.out = none ∧ task.faults.length < 8) ∧
    (∀ p ∈ [(RunState.sealed, RunState.sealed, 1, (8 : Word)), (.alloc, .sealed, 1, 9), (.opened, .sealed, 1, 8), (.alloc, .sealed, 511, 8),
        (.alloc, .alloc, 1, 8)],
      let s := startable p.1 p.2.1 p.2.2.1 p.2.2.2
      s.run tagNext.out = some { outRun p.1 with cap := p.2.2.2 } ∧ tagNext.ins.mapM s.run = some [inRun p.2.1 p.2.2.1] ∧
        tagNext.aux = 0 ∧ tagNext.f ≠ .join) ∧
    (let s := startable .alloc .sealed 1 8
     (tagNext.out :: tagNext.ins).Nodup ∧ (∀ r ∈ [{ outRun .alloc with cap := 8 }, inRun .sealed 1], r.w = 8 ∧
         tagNext.ctl.toNat % 64 + (if tagNext.ctl.getLsbD 8 then 8 else 4) ≤ r.w ∧ tagNext.ctl.toNat / 2 ^ 32 % 16 = 0) ∧
       s.pkg.mem.wf = true ∧ (∃ t, s.checkStream tagNext.xl (outRun .alloc) .write 0 = .ok t) ∧
       ∃ t, s.checkStream tagNext.xl (inRun .sealed 1) .read 0 = .ok t) ∧
    -- a pass at the end of its input
    (∀ st ∈ [RunState.sealed, .broken, .opened, .alloc],
      let s := sorting (tagRuns st) [tagPass st]
      s.quad.passes = [tagPass st] ∧ OwnedHere s (tagPass st).owner ∧
        s.run ((tagPass st).ins.headD 0) = some { runIn st 1 with mark := 0 } ∧
        s.pkg.run (tagPass st).out = some { runIn .opened 0 with mark := 0 } ∧ (tagPass st).out ≠ (tagPass st).ins.headD 0 ∧
        s.pkg.mem.wf = true ∧ { runIn st 1 with mark := 0 }.mark.toNat ≤ (tagPass st).nRead) ∧
    -- `sprog` and `sabort` on the helm core
    helm.hart.hst.helm = true ∧ helm.useMask.getLsbD 17 = true ∧ Free helm [2, 3, 1] ∧ MayPost helm ∧
    (CounterIs helm (helm.hart.reg 2) (helm.hart.reg 3) (BitVec.ofNat 64 (0xFF * 2 ^ 56)) ∧ helm.quad.passes = []) ∧
    (let s := { tagRuns .sealed with
       quad := { Quad.reset with passTab := [⟨64, handleOf 3 (runIn .sealed 1), 0x81 * 2 ^ 56, 7, 6, 5, false⟩] } }
     CounterIs s (handleOf 3 (runIn .sealed 1)) 1 7) ∧
    (let s := { sorting (helmRegs [(2, handleOf 4 (runIn .opened 0))]) [tagPass .sealed] with fresh := 640 }
     s.hart.hst.helm = true ∧ s.useMask.getLsbD 17 = true ∧ Free s [2, 1] ∧ MayPost s ∧
       s.quad.passes = [] ++ tagPass .sealed :: [] ∧ IsPassOf (ownerOf s 3) (s.hart.reg 2) (tagPass .sealed) ∧
       ¬IsPassOf (ownerOf s 3) (s.hart.reg 3) (tagPass .sealed)) ∧
    -- and as vector words, in the slot after their beat
    (∀ x ∈ [entry (.sprog 1) [0, 1] (some 3) 1 3, entry (.sabort 1) [0] (some 3) 1 3],
      let s := alter (queue1 x) fun h => { h with slot := 1 }
      Starts s x [] ∧ max s.hart.beat x.slot < s.hart.slot ∧ CounterIs s 0 1 0 ∧ s.quad.passes = []) ∧
    (let x := entry (.sabort 1) [handleOf 4 (runIn .opened 0)] (some 3) 1 3
     let s := sorting (alter (queue1 x) fun h => { h with slot := 1 }) [{ tagPass .sealed with owner := { (tagPass .sealed).owner with seq := 32 } }]
     Starts s x [] ∧ max s.hart.beat x.slot < s.hart.slot ∧
       ∀ p ∈ s.quad.passes, IsPassOf (s.ownerFor x) (x.sv.headD 0) p) ∧
    -- a completion that is late, and an abort that the engine comes to
    (let l : Late := ⟨64, false, 3, some 7⟩
     let s := alter user fun h => { h with late := [l] }
     s.hart.late = [l] ∧ s.hart.infl = [] ∧ s.hart.merges = [] ∧ MergedBefore s l.id) ∧
    (let o : Owner := ⟨128, ⟨0, 0, 0, 0⟩, 1, false, 4, 0x110, 0⟩
     let p := { tagPass .sealed with aborts := [o] }
     let s := sorting (tagRuns .sealed) [p]
     s.quad.passes = [] ++ p :: [] ∧ p.aborts = [o] ∧ OwnedHere s p.owner ∧ OwnedHere s o ∧ o.seq ≠ p.owner.seq ∧
       (o.sup, o.tok) ≠ (p.owner.sup, p.owner.tok) ∧ p.aux = 0 ∧ p.out ∉ p.ins ∧ s.pkg.mem.wf = true ∧
       s.pkg.run p.out = some { runIn .opened 0 with mark := 0 }) := by
  refine ⟨starts_srt, rfl, by decide, by decide, by decide +kernel, ⟨rfl, rfl, rfl, fun h => by cases (show Move.over _ _ 0 = Move.wait from h)⟩,
    ⟨rfl, by decide, owned rfl rfl (by decide) rfl rfl, by decide, rfl, rfl, rfl, by decide +kernel, by decide⟩, ?_,
    ⟨by decide +kernel, by decide +kernel, rfl, ⟨_, rfl⟩, _, rfl⟩, ?_, rfl, by decide +kernel,
    free_of rfl rfl _, ?_, ⟨.inl ⟨.inl (by decide +kernel), by decide +kernel⟩, rfl⟩,
    .inr ⟨[], _, [], rfl, by (intro x hx; cases hx), rfl, by decide +kernel, rfl⟩,
    ⟨rfl, by decide +kernel, free_of rfl rfl _, ?_, rfl, by unfold IsPassOf; decide +kernel, by unfold IsPassOf; decide +kernel⟩, ?_, ?_,
    ⟨rfl, rfl, rfl, by (intro m hm; cases hm), by (intro u hu; cases hu)⟩,
    ⟨rfl, rfl, owned rfl rfl (by decide) rfl rfl, owned rfl rfl (by decide) rfl rfl, by decide, by decide, rfl, by decide +kernel,
      by decide +kernel, by decide +kernel⟩⟩
  · decide +kernel
  · intro st hst
    refine ⟨rfl, owned rfl rfl (by decide : 1 ≠ 0) rfl rfl, ?_, ?_, ?_, ?_, ?_⟩ <;> (revert st; decide +kernel)
  · unfold MayPost; decide +kernel
  · unfold MayPost; decide +kernel
  · intro x hx
    simp only [List.mem_cons, List.not_mem_nil, or_false] at hx
    obtain rfl | rfl := hx <;>
      exact ⟨starts_of rfl rfl (by decide +kernel) (Nat.zero_le 1) (Nat.zero_le 1) rfl rfl rfl (by decide)
        (by decide : 1 ≤ vlmaxOf 32 3 0) ⟨(by decide : 0 < 32), (by decide : 32 ≤ 32)⟩ rfl, (by decide : max 0 0 < 1),
        .inl ⟨.inl (by decide +kernel), rfl⟩, rfl⟩
  · exact ⟨starts_of rfl rfl (by decide +kernel) (Nat.zero_le 1) (Nat.zero_le 1) rfl rfl rfl (by decide)
      (by decide : 1 ≤ vlmaxOf 32 3 0) ⟨(by decide : 0 < 32), (by decide : 32 ≤ 32)⟩ rfl, (by decide : max 0 0 < 1),
      by unfold IsPassOf; decide +kernel⟩

/-! ### What the passes move -/

/-- A pass of eight-byte records under a control word, its input run 3 with two records, the output run 4. -/
def moveState (st : RunState) (mark : Word) : State :=
  mapped (withRun (withRun user 3 { runIn st 1 with wlog := 3, mark := mark }) 4 { runIn .opened 0 with wlog := 3, mark := 0 })

def movePass (f : SrtFn) (comb : Word) (n : Nat) : Pass :=
  { passOf f (List.replicate n (handleOf 3 (runIn .sealed 1))) true 64 with
    ctl := 0x180 + comb * 0x100000000, pos := List.replicate n 0, trs := List.replicate (n + 2) none }

def zeros8 : List Byte := List.replicate 8 0

theorem gets_move (f : SrtFn) (comb : Word) (n k : Nat) (hk : k < n) :
    Gets (moveState .sealed 2) (movePass f comb n) k 0 (some tr0) zeros8 := by
  refine ⟨handleOf 3 (runIn .sealed 1), { runIn .sealed 1 with wlog := 3, mark := 2 }, ?_, by decide +kernel, by decide, by decide, ?_⟩
  · simp [movePass, passOf, hk]
  · have e : ((movePass f comb n).trs[k + 2]?).join = none := by simp [movePass, hk]
    rw [e, show (movePass f comb n).xl = ⟨0, 0, 0, true⟩ from rfl]; rfl

theorem none_move (f : SrtFn) (comb : Word) (n k : Nat) (st : RunState) (hk : k < n) (hs : st ∈ [RunState.sealed, .broken, .opened]) :
    NoRecord (moveState st 0) (movePass f comb n) k 0 [st] := by
  refine ⟨handleOf 3 (runIn .sealed 1), { runIn st 1 with wlog := 3, mark := 0 }, ?_, ?_, Nat.le_refl 0, (by decide : 0 < 8), by simp [runIn]⟩
  · simp [movePass, passOf, hk]
  · revert st; decide +kernel

theorem hyp_SorterMoves :
    -- a record that is there, one that is not, one that is written
    (∀ f comb n k, k < n → Gets (moveState .sealed 2) (movePass f comb n) k 0 (some tr0) zeros8 ∧
      InOrder (moveState .sealed 2) (movePass f comb n) k 0 zeros8) ∧
    (∀ f comb n k, k < n → ∀ st ∈ [RunState.sealed, .broken, .opened], NoRecord (moveState st 0) (movePass f comb n) k 0 [st]) ∧
    (∃ s' tr, Puts (moveState .sealed 2) (movePass .tag 0 1) (movePass .tag 0 1).out 0 0 zeros8 s' tr) ∧
    ((movePass .tag 0 1).f = .tag ∧ 2 < (movePass .tag 0 1).trs.length) ∧
    ((movePass .sort 0 1).f = .sort ∧ (movePass .sort 0 1).reading = true ∧ (movePass .sort 0 1).recs.length = 0) ∧
    ((movePass .merge 0 2).pos.length = (movePass .merge 0 2).ins.length ∧
      (movePass .merge 0 2).trs.length = (movePass .merge 0 2).ins.length + 2) ∧
    (let p := { movePass .merge 4 2 with group := [zeros8] }
     p.group.head? = some zeros8 ∧ recKey p.ctl zeros8 = recKey p.ctl zeros8 ∧
       recKey p.ctl zeros8 ≠ recKey p.ctl (1 :: zeros8.tail) ∧ ∃ out, (combGroup p.ctl p.group).1 = [out]) ∧
    (let p := { movePass .join 0 2 with pos := [0, 0, 0, 0, 1] }
     p.f = .join ∧ p.formed = [] ∧ 3 < p.trs.length ∧ p.pos = [0, 0, 0, 0, 1] ∧ p.ctl.getLsbD 30 = false) ∧
    (let p := { movePass .tag 0 1 with formed := [(false, zeros8)] }
     1 < p.trs.length ∧ ∃ s' tr, Puts (moveState .sealed 2) p p.out 0 0 zeros8 s' tr) ∧
    -- a descending input
    (let p := { movePass .merge 0 1 with pos := [1] }
     let s := { moveState .sealed 2 with pkg := { (moveState .sealed 2).pkg with mem := (moveState .sealed 2).pkg.mem.setWord 0x10000001000 5 } }
     Gets s p 0 1 (some tr0) zeros8 ∧ OutOfOrder s p 0 1 zeros8) ∧
    -- a pass alone in the engine
    ((sorting (moveState .sealed 2) [movePass .tag 0 1]).quad.passes = [] ++ movePass .tag 0 1 :: [] ∧
      (movePass .tag 0 1).running = true) := by
  refine ⟨fun f comb n k hk => ⟨gets_move f comb n k hk, .inl rfl⟩, fun f comb n k hk st hs => none_move f comb n k st hk hs,
    ⟨_, _, { runIn .opened 0 with wlog := 3, mark := 0 }, _, by decide +kernel, by decide, rfl, rfl⟩, ⟨rfl, by decide⟩, ⟨rfl, rfl, rfl⟩, ⟨rfl, rfl⟩,
    ⟨rfl, rfl, by decide +kernel, _, rfl⟩, ⟨rfl, rfl, by decide, rfl, by decide⟩,
    ⟨by decide, _, _, { runIn .opened 0 with wlog := 3, mark := 0 }, _, by decide +kernel, by decide, rfl, rfl⟩, ⟨?_, by decide, some tr0, 5 :: zeros8.tail, ?_, by decide +kernel⟩,
    ⟨rfl, rfl⟩⟩
  · exact ⟨handleOf 3 (runIn .sealed 1), { runIn .sealed 1 with wlog := 3, mark := 2 }, rfl, by decide +kernel, by decide, by decide, rfl⟩
  · exact ⟨handleOf 3 (runIn .sealed 1), { runIn .sealed 1 with wlog := 3, mark := 2 }, rfl, by decide +kernel, by decide, by decide, rfl⟩

/-! ### Copies -/

def copyEntry : VEntry := entry (.copy .rc 1 4) [handleOf 3 sealed, 0, 0x40, 0] (some 3) 1 3

def ctlEntry (f : CpcFn) : VEntry := entry (.cpctl f 5 1) [1] (some 3) 1 3

/-- A command in channel 1: four records of the run 3 to the Chart. -/
def command (f : CpyFn) (st : CpyState) (n count : Nat) : CopyCmd :=
  { seq := 1, f := f, owner := ⟨64, ⟨0, 0, 0, 0⟩, 1, false, 3, 0x100, 0⟩, dims := [(1, n)], n := n, src := handleOf 3 sealed, start := 0,
    dst := 0x40, stamp := 0, state := st, count := count, w := 4, killed := false, mark0 := 0, posted := false, retry := none, tctx := 0, root := 0, user := true,
    srcTr := none, dstTr := none }

def copying (s : State) (l : List CopyCmd) : State :=
  { s with core := { s.core with chans := s.core.chans.set 1 ⟨1, 0, l, [], []⟩ } }

/-- Who asks for an abort. -/
def aborter : Owner := ⟨128, ⟨0, 0, 0, 0⟩, 1, false, 4, 0x110, 0⟩

/-- A channel whose command an abort waits for. -/
def aborting (s : State) (c : CopyCmd) : State :=
  { s with core := { s.core with chans := s.core.chans.set 1 ⟨1, 0, [c], [], [aborter]⟩ } }

theorem starts_copy (x : VEntry) (l : List CopyCmd) (h1 : x.slot = 0) (h9 : x.op.operandsOk x.vcfg = true)
    (h10 : x.vl ≤ vlmaxOf 32 x.vcfg 0) (h12 : x.dones = []) : Starts (copying (queue1 x) l) x [] :=
  starts_of rfl rfl (by simp [State.heldBack, copying, queue1, alter, user, State.reset, Core.reset, Hart.reset]) (Nat.zero_le 0)
    (by rw [h1]; exact Nat.zero_le 0) rfl rfl rfl h9 (le_of_le_of_eq h10 rfl) ⟨(by decide : 0 < 32), (by decide : 32 ≤ 32)⟩ h12

/-- The queue holds a control function, and the slot after its beat has come. -/
def ctlState (f : CpcFn) : State := alter (queue1 (ctlEntry f)) fun h => { h with slot := 1 }

theorem starts_ctl (f : CpcFn) (l : List CopyCmd) : Starts (copying (ctlState f) l) (ctlEntry f) [] :=
  starts_of rfl rfl (by simp [State.heldBack, copying, ctlState, queue1, alter, user, State.reset, Core.reset, Hart.reset])
    (Nat.zero_le 1) (Nat.zero_le 1) rfl rfl rfl (by cases f <;> decide) (le_of_eq rfl |>.trans (show 1 ≤ vlmaxOf 32 3 0 by decide))
    ⟨(by decide : 0 < 32), (by decide : 32 ≤ 32)⟩ rfl

/-- A run of die 1. -/
def farRun : RunD := { sealed with base := 0x80000000 }

theorem hyp_CopyCommands :
    (∀ l, Starts (copying (queue1 copyEntry) l) copyEntry []) ∧ copyEntry.op = .copy .rc 1 4 ∧ copyEntry.vl ≤ 8 ∧
    (copying user (List.replicate 4 (command .rc .queued 4 0))).core.chans[(1 : Chan)].q.length = 4 ∧
    captureOk .rc [(1, 4)] 0 0x40 (some 4) = true ∧
    (∀ f l, Starts (copying (ctlState f) l) (ctlEntry f) [] ∧ (copying (ctlState f) l).hart.merges = [] ∧
      max (copying (ctlState f) l).hart.beat (ctlEntry f).slot < (copying (ctlState f) l).hart.slot) ∧
    -- starts of commands
    (∀ n ∈ [0, 4], (copying user [command .rc .queued n 0]).core.chans[(1 : Chan)].q = [command .rc .queued n 0] ∧
      OwnedHere (copying user [command .rc .queued n 0]) (command .rc .queued n 0).owner ∧
      (copying user [command .rc .queued n 0]).run (handleOf 3 sealed) = none ∧ task.faults = []) ∧
    (copying (withRun user 3 (runIn .sealed 511)) [command .rc .queued 4 0]).run (handleOf 3 sealed) = some (runIn .sealed 511) ∧
    (let s := mapped (copying (withRun user 3 sealed) [command .rc .queued 4 0])
     s.run (handleOf 3 sealed) = some sealed ∧ sealed.rdrs ≠ 511 ∧ s.pkg.mem.wf = true ∧ ∃ tr, s.checkStream ⟨0, 0, 0, true⟩ sealed .read 0 = .ok tr) ∧
    -- delivery
    (let r := { runIn .opened 1 with mark := 2 }
     (copying (withRun user 3 r) [command .rc .running 4 2]).run (handleOf 3 sealed) = some r ∧ r.mark.toNat ≤ dimsRecord [(1, 4)] 2) ∧
    (let r := { runIn .sealed 1 with mark := 2 }
     (copying (withRun user 3 r) [command .rc .running 4 2]).run (handleOf 3 sealed) = some r) ∧
    (let s := mapped (copying (withRun user 3 sealed) [command .rc .running 4 3])
     s.run (handleOf 3 sealed) = some sealed ∧ dimsRecord [(1, 4)] 3 < sealed.mark.toNat ∧ s.core.chart.wf = true ∧
       ∃ tr bs, s.readStream ⟨0, 0, 0, true⟩ sealed none (dimsRecord [(1, 4)] 3 * 4) 4 = .ok (tr, bs)) ∧
    (let s := mapped (copying (withRun user 3 sealed) [command .rc .running 4 3])
     ∀ i < 4, s.elemFar (command .rc .running 4 3) sealed i = false) ∧
    (let s := mapped (copying (withRun user 3 farRun) [command .rc .running 4 0])
     s.run (handleOf 3 sealed) = some farRun ∧
       ∃ i, ((command .rc .running 4 0).chunkOf 4 0).find? (fun i => decide (0 + dimsRecord [(1, 4)] i < farRun.mark.toNat) &&
         s.elemFar (command .rc .running 4 0) farRun i) = some i) ∧
    -- the last element delivered, without a stamp and with one
    ((command .rc .running 4 4).count = (command .rc .running 4 4).n ∧
      (copying (withRun user 3 sealed) [command .rc .running 4 4]).run (handleOf 3 sealed) = some sealed) ∧
    (let c := { command .rc .running 4 4 with stamp := 0x40000040 }
     let s := mapped (copying (withRun user 3 sealed) [c])
     s.pkg.mem.wf = true ∧ c.stamp ≠ 0 ∧ State.stampAddr s ⟨0, 0, 0, true⟩ c.stamp = some 0x20000000040) ∧
    -- `cpabort` inside a chunk, of a command that has not started, and of one that stopped
    (let s := aborting (withRun user 3 sealed) (command .rc .running 4 3)
     CopyGoesOn s (command .rc .running 4 3) ∧ s.run (handleOf 3 sealed) = some sealed) ∧
    (let y := command .rc .queued 4 0
     let s := aborting (withRun user 3 sealed) y
     s.core.chans[(1 : Chan)].q = [y] ∧ s.core.chans[(1 : Chan)].aborts = [aborter] ∧ OwnedHere s aborter ∧ ¬CopyGoesOn s y ∧
       OwnedHere s y.owner ∧ aborter.seq ≠ y.owner.seq ∧ (aborter.sup, aborter.tok) ≠ (y.owner.sup, y.owner.tok)) ∧
    (let y := { command .rc .stopped 4 3 with posted := true }
     let s := aborting (withRun user 3 sealed) y
     ¬CopyGoesOn s y ∧ y.posted = true ∧ y.retry = none ∧ y.f ≠ .rr) ∧
    (copying (queue1 copyEntry) []).copyFirst 1 = false := by
  refine ⟨fun l => starts_copy _ l rfl (by decide) (by decide) rfl, rfl, by decide, by decide +kernel, by decide +kernel,
    fun f l => ⟨starts_ctl f l, rfl, (by decide : max 0 0 < 1)⟩, ?_, by decide +kernel,
    ⟨by decide +kernel, by decide, by decide +kernel, ⟨_, rfl⟩⟩, by decide +kernel, by decide +kernel, ⟨by decide +kernel, by decide +kernel, rfl, ⟨_, _, rfl⟩⟩,
    by decide +kernel, ⟨by decide +kernel, _, rfl⟩, ⟨rfl, by decide +kernel⟩,
    ⟨by decide +kernel, by decide, by decide +kernel⟩, ⟨⟨rfl, by decide, by decide, ?_⟩, by decide +kernel⟩,
    ⟨rfl, rfl, owned rfl rfl (by decide) rfl rfl, (fun h => by cases h.1), owned rfl rfl (by decide) rfl rfl, by decide, by decide⟩,
    ⟨(fun h => by cases h.1), rfl, rfl, by decide⟩, by decide +kernel⟩
  · intro n _
    exact ⟨rfl, owned rfl rfl (by decide : 1 ≠ 0) rfl rfl, (by decide +kernel : user.run (handleOf 3 sealed) = none), rfl⟩
  · intro r hr
    have : r = sealed := Option.some.inj (hr.symm.trans (by decide +kernel : (withRun user 3 sealed).run (handleOf 3 sealed) = some sealed))
    subst this
    intro h
    exact absurd h (by decide)

/-! ### Scopes and tasks -/

/-- Entry 0 of die 0's scope table, first generation. -/
def scope0 : Word := 0x1000000000000

/-- A task of that scope: its state (1 live, 2 cancelling, 3 cancelled), its LIVE word, its ACK word. -/
def inScope (st : Nat) (live ack : Word) : State :=
  poke (poke (poke (alter atBeacon fun h => { h with ctx := some { task with scope := scope0 } }) 0x20000380000
    (BitVec.ofNat 64 (2 ^ 48 + st * 2 ^ 44))) 0x20000380010 live) 0x20000380018 ack

/-- The same with the scope's handle in s2. -/
def naming (st : Nat) (live ack : Word) : State := withRegs (inScope st live ack) [(2, scope0)]

/-- Scope table of die 0 without a free entry, entry 0 of generation 1. -/
def fullScopes : Mem := Mem.write ⟨(List.range' 0 4096).map fun i => (0x20000380005 + 64 * i, 0x10)⟩ 0x20000380006 1

theorem state_bits (u b w : Nat) (hu : u < 2 ^ 40) (hb : b < 256) (hw : w < 2 ^ 16) :
    (u + 2 ^ 40 * (b + 256 * w)) % 2 ^ 64 / 2 ^ 44 % 16 = b / 16 := by
  have hn : u + 2 ^ 40 * (b + 256 * w) < 2 ^ 64 := by omega
  rw [Nat.mod_eq_of_lt hn, show (2 : Nat) ^ 44 = 2 ^ 40 * 16 from rfl, ← Nat.div_div_eq_div_mul,
    show (u + 2 ^ 40 * (b + 256 * w)) / 2 ^ 40 = b + 256 * w by omega]
  omega

theorem word_state (m : Mem) (a : Nat) : (m.word a).toNat / 2 ^ 44 % 16 = (m.read (a + 5)).toNat / 16 := by
  have h : ∀ k, (m.read k).toNat < 256 := fun k => (m.read k).isLt
  have h0 := h a; have h1 := h (a + 1); have h2 := h (a + 2); have h3 := h (a + 3)
  have h4 := h (a + 4); have h6 := h (a + 6); have h7 := h (a + 7)
  rw [← state_bits ((m.read a).toNat + 256 * ((m.read (a + 1)).toNat + 256 * ((m.read (a + 2)).toNat + 256 * ((m.read (a + 3)).toNat +
    256 * (m.read (a + 4)).toNat)))) (m.read (a + 5)).toNat ((m.read (a + 6)).toNat + 256 * (m.read (a + 7)).toNat) (by omega)
    (h (a + 5)) (by omega)]
  simp only [Mem.word, Mem.readLE, Mem.bytes, leNat, BitVec.toNat_ofNat]
  congr 3
  simp only [Nat.add_assoc, Nat.reduceAdd]
  omega

theorem fullScopes_wf : fullScopes.wf = true :=
  cellsWf_write _ _ _ _ (wf_cells _ _ _ (by decide) (by decide) _ _ _ (Nat.zero_le _)) (Nat.zero_le _)

theorem fullScopes_none (i : Nat) (hi : i < 4096) : (fullScopes.word (0x20000380000 + 0 * 0x400000 + i * 64)).toNat / 2 ^ 44 % 16 ≠ 0 := by
  have hr := read_cells (fun i => 0x20000380005 + 64 * i) 0x10 (fun i j h => by omega) (List.range' 0 4096) i (by simp [hi])
  have hw : cellsWf 0 ((List.range' 0 4096).map fun i => (0x20000380005 + 64 * i, (0x10 : Byte))) = true :=
    wf_cells _ _ _ (by decide) (by decide) _ _ _ (Nat.zero_le _)
  rw [word_state, show 0x20000380000 + 0 * 0x400000 + i * 64 + 5 = 0x20000380005 + 64 * i by omega, fullScopes, Mem.write, Mem.read,
    cellsRead_write _ 0 _ _ _ hw, if_neg (by omega)]
  rw [hr]
  decide

def fullScopesState : State := let s := naming 1 0 0; { s with pkg := { s.pkg with mem := fullScopes } }

/-- A record of one iteration that asks for nothing, and as it stands in a queue. -/
def record : List Word := List.replicate 16 0
def queuedRec (prio : Nat) (age : Nat) : QRec := ⟨(record.set 5 scope0).set 4 (BitVec.ofNat 64 prio), 0, 1, prio, age, 0, none, false, none, 0, 0, none⟩

/-- A task about to spawn the record at 0x40010000, k records in the queue. -/
def spawning (st : Nat) (k : Nat) : State :=
  let s := withRegs (inScope st 1 0) [(2, 0x40010000)]
  { s with die := { s.die with queues := List.replicate k (queuedRec 0 0) } }

theorem hyp_TaskAndScopeWords :
    (∀ st live ack, (inScope st live ack).hart.infl = [] ∧ (inScope st live ack).hart.pendS = [] ∧
      (inScope st live ack).cur.die < 4) ∧
    Issues (inScope 1 1 0) 21 [2, 3, 1] ∧ (inScope 1 1 0).pkg.mem.wf = true ∧
    -- sopen
    user.scopeState 0 = none ∧ (naming 3 0 1).scopeState scope0 = some .cancelled ∧ (naming 3 0 1).related scope0 = true ∧
    (naming 1 0 0).scopeState scope0 = some .live ∧ (naming 1 0 0).related scope0 = true ∧ (naming 1 0 0).hart.reg 2 = scope0 ∧
    (1 < 4096 ∧ ((naming 1 0 0).pkg.mem.word (0x20000380000 + 0 * 0x400000 + 1 * 64)).toNat / 2 ^ 44 % 16 = 0) ∧
    (fullScopesState.pkg.mem.wf = true ∧ fullScopesState.scopeState scope0 = some .live ∧ fullScopesState.related scope0 = true ∧
      ∀ i, ¬(i < 4096 ∧ (fullScopesState.pkg.mem.word (0x20000380000 + 0 * 0x400000 + i * 64)).toNat / 2 ^ 44 % 16 = 0)) ∧
    -- sclose
    ((naming 1 0 0).pkg.mem.word (scopeWordAt scope0 2)).toNat = 0 ∧
    ((naming 1 1 0).pkg.mem.word (scopeWordAt scope0 2)).toNat % 2 ^ 32 ≠ 0 ∧
    -- swait
    (naming 3 0 1).pkg.mem.word (scopeWordAt scope0 3) = 1 ∧ (naming 1 0 0).pkg.mem.word (scopeWordAt scope0 3) ≠ 1 ∧
    -- tspawn
    ((naming 1 0 0).hart.bops = [] ∧ (naming 1 0 0).hart.vq = [] ∧ (naming 1 0 0).core.pipe = [] ∧
      ((withRegs user [(2, 1)]).hart.reg 2).toNat % 64 ≠ 0) ∧
    (∀ st ∈ [1, 2, 3], (spawning st 0).readRecord ((spawning st 0).hart.reg 2) = .ok record ∧
      recOk (record.set 5 scope0) (some 0) = true ∧ (spawning st 0).related scope0 = true ∧
      recUse (record.set 5 scope0) &&& ~~~(((spawning st 0).hart.ctx.map Ctx.use).getD 0) = 0 ∧ recW (record.set 5 scope0) 7 = 0 ∧
      (spawning st 0).pkg.scopeState scope0 = some (scopeStOf st)) ∧
    ((spawning 1 512).readRecord ((spawning 1 512).hart.reg 2) = .ok record ∧ 512 ≤ ((spawning 1 512).die.queue 0).length ∧
      (spawning 1 512).die.ringSlots ≤ (spawning 1 512).die.ring.length) ∧ ((spawning 1 0).die.queue 0).length < 512 ∧
    -- tretire
    (alter user fun h => { h with tk := h.tk.set 3 ⟨0, 1⟩ }).hart.outstanding ≠ 0 ∧
    (let s := inScope 1 1 0
     Quiet s ∧ s.hart.outstanding = 0 ∧ s.hart.vq = [] ∧ s.hart.bops = [] ∧ s.core.pipe = [] ∧ s.core.net = [] ∧
       (∃ c, s.hart.ctx = some c ∧ c.faults = [] ∧ c.graph = none ∧ s.pkg.scopeState c.scope ≠ none ∧
         ∃ u, s.closePorts = .ok u ∧ u.pkg.mem.wf = true ∧ u.hart.ctx = some c ∧ u.cur = s.cur ∧
           (∀ x ∈ u.pkg.barriers, s.cur ∉ x.members) ∧ u.pkg.scopeState c.scope ≠ none)) ∧
    (let r := { runIn .opened 0 with mark := 0 }
     let s := withPort (withRun user 3 r) 0 { port (handleOf 3 r) 8 with pos := 2 }
     ∃ e, s.closePorts = .error e) := by
  refine ⟨fun _ _ _ => ⟨rfl, rfl, (by decide : 0 < 4)⟩, issues_of (by decide +kernel) rfl rfl _, by decide +kernel,
    by decide +kernel, by decide +kernel, by decide +kernel, by decide +kernel, by decide +kernel, by decide +kernel,
    by decide +kernel, ⟨fullScopes_wf, by decide +kernel, by decide +kernel, ?_⟩, by decide +kernel, by decide +kernel,
    by decide +kernel, by decide +kernel, ⟨rfl, rfl, rfl, by decide +kernel⟩, by decide +kernel, by decide +kernel,
    by decide +kernel, by decide +kernel, ⟨⟨rfl, rfl, rfl, rfl⟩, by decide +kernel, rfl, rfl, rfl, rfl, _, rfl, rfl, rfl, by decide +kernel,
      _, rfl, by decide +kernel, rfl, rfl, by decide +kernel, by decide +kernel⟩, _, rfl⟩
  rintro i ⟨hi, h⟩
  exact fullScopes_none i hi h

def holdAt (s : State) (h : Hold) (slot : Nat) : State := alter s fun x => { x with hold := h, slot := slot, clock := slot }

theorem pair_of {α β : Type} {x : Option (α × β)} (h : x.isSome = true) : ∃ a b, x = some (a, b) := by
  cases x with
  | none => cases h
  | some p => exact ⟨p.1, p.2, rfl⟩

theorem some_of {α : Type} {x : Option α} (h : x.isSome = true) : ∃ a, x = some a := by
  cases x with
  | none => cases h
  | some p => exact ⟨p, rfl⟩

theorem trap_of {x : RecCheck} (h : (match x with | .trap _ => true | _ => false) = true) : ∃ c, x = .trap c := by
  cases x with
  | trap c => exact ⟨c, rfl⟩
  | status _ _ => cases h
  | ok _ => cases h

theorem status_of {x : RecCheck} (h : (match x with | .status _ _ => true | _ => false) = true) : ∃ k t, x = .status k t := by
  cases x with
  | trap c => cases h
  | status k t => exact ⟨k, t, rfl⟩
  | ok _ => cases h

theorem ok_of {x : RecCheck} {r : List Word} (h : (match x with | .ok q => decide (q = r) | _ => false) = true) : x = .ok r := by
  cases x with
  | trap c => cases h
  | status _ _ => cases h
  | ok q => exact congrArg _ (of_decide_eq_true h)

theorem hyp_CancelsReachTheirTasks :
    user.killDue = false ∧
    (∀ st live ack, (inScope st live ack).hart.ctx = some { task with scope := scope0 } ∧ (inScope st live ack).hart.hst.mode = false) ∧
    (∀ st ∈ [2, 3], (inScope st 1 0).pkg.scopeState scope0 = some (scopeStOf st)) ∧
    (let s := inScope 2 1 0
     Quiet s ∧ s.pkg.mem.wf = true ∧ s.hart.bops = [] ∧ s.core.pipe = [] ∧ s.cores = [] ∧ s.quads = [] ∧
       (∀ k : Chan, s.core.chans[k].q = []) ∧ s.quad.passes = [] ∧ s.quad.mops = [] ∧ s.pkg.colls = [] ∧ s.pkg.barriers = [] ∧
       ∀ p : Port, s.hart.ports[p].bound = false) ∧
    (inScope 2 1 0).ackReady scope0 = false ∧
    (let s := alter (inScope 2 0 0) fun h => { h with ctx := none }
     s.ackReady scope0 = true ∧ s.pkg.mem.wf = true ∧ s.pkg.replays = []) ∧
    ((holdAt (inScope 3 0 1) (.swait scope0 1 0 5) 3).hart.pendingReg 1 = false ∧
      (holdAt (inScope 3 0 1) (.swait scope0 1 0 5) 5).scopeState scope0 = some .cancelled ∧
      (holdAt (inScope 1 0 0) (.swait scope0 1 0 5) 5).scopeState scope0 = some .live) ∧
    (let s := holdAt user (.swait scope0 1 0 5) 5
     s.hart.hold = .swait scope0 1 0 5 ∧ s.hart.pendingReg 1 = false ∧ 0 + 5 ≤ s.hart.clock ∧ s.scopeState scope0 = none) ∧
    (∀ t ∈ [4, 5], (holdAt user (.bwait .core 3 1 0 5) t).hart.hold = .bwait .core 3 1 0 5 ∧
      (holdAt user (.bwait .core 3 1 0 5) t).hart.pendingReg 1 = false) ∧
    -- a cancel of a scope with one record waiting
    (let s := { inScope 1 2 0 with die := { (inScope 1 2 0).die with queues := [queuedRec 0 3] } }
     s.pkg.scopeState scope0 = some .live ∧ s.pkg.mem.wf = true ∧ s.cores = [] ∧ s.quads = [] ∧ s.dies = [] ∧ s.die.saved = [] ∧
       s.core.shadow = [] ∧ s.pkg.lends = [] ∧ (∀ ch : Chan, s.core.chans[ch].q = []) ∧ s.quad.passes = [] ∧ s.quad.mops = [] ∧
       (((s.die.queues ++ s.die.ring).filter fun r => decide (recScope r.words = scope0)).map QRec.left).sum = 1) := by
  refine ⟨by decide +kernel, fun _ _ _ => ⟨rfl, rfl⟩, by decide +kernel, ⟨⟨rfl, rfl, rfl, rfl⟩, by decide +kernel, rfl, rfl, rfl, rfl, by decide +kernel, rfl, rfl, rfl, rfl,
    by decide +kernel⟩, by decide +kernel, ⟨by decide +kernel, by decide +kernel, rfl⟩, by decide +kernel, by decide +kernel, by decide +kernel,
    by decide +kernel, by decide +kernel, rfl, rfl, rfl, rfl, rfl, rfl, by decide +kernel, rfl, rfl, by decide +kernel⟩

/-! ### Graphs -/

/-- A graph at 0x40020000 whose area lies in the beacon: its header, two nodes that no other waits for. -/
def graphState (st count cap replays : Nat) (l : List (SReg × Word)) : State :=
  let s := inScope 1 1 0
  let s := poke (poke (poke s 0x20000020000 (BitVec.ofNat 64 (st * 2 ^ 60 + count))) 0x20000020008 (BitVec.ofNat 64 cap)) 0x20000020018
    (BitVec.ofNat 64 replays)
  withRegs (poke (poke s (0x20000020000 + 8 * (8 + 5)) scope0) (0x20000020000 + 8 * (8 + 24 + 5)) scope0) l

/-- The same with a successor of node 0. -/
def linked (st : Nat) (l : List (SReg × Word)) : State :=
  poke (poke (graphState st 2 4 0 l) (0x20000020000 + 8 * (8 + 16)) 0x100000000) (0x20000020000 + 8 * (8 + 24 + 16)) 1

theorem areaAt_of {s : State} {va : Word} {n pa : Nat} (h : va.toNat % 64 = 0)
    (h' : ∀ k ∈ List.range n, ∀ w ∈ [false, true], s.blockAddr ⟨s.cur.die, s.hart.xlat.1, s.hart.xlat.2, !s.hart.hst.mode⟩
      (va + BitVec.ofNat 64 (8 * k)) w = some (pa + 8 * k)) : AreaAt s va n pa :=
  ⟨h, fun k hk w => h' k (by simpa using hk) w (by cases w <;> simp)⟩

theorem hyp_GraphsAreBuilt :
    (∀ st count cap replays l, (graphState st count cap replays l).hart.infl = [] ∧ (graphState st count cap replays l).hart.pendS = []) ∧
    (let s := graphState 0 0 4 0 [(2, 0x40020000), (3, 4)]
     s.useMask.getLsbD 21 = true ∧ s.pkg.mem.wf = true ∧ AreaAt s (s.hart.reg 2) 4 0x20000020000 ∧
       (1 ≤ (s.hart.reg 3).toNat ∧ (s.hart.reg 3).toNat ≤ 4096 ∧
         (s.areaPages ⟨0, s.hart.xlat.1, s.hart.xlat.2, true⟩ (s.hart.reg 2) (64 + 192 * 4) true).isSome = true)) ∧
    (¬1 ≤ (user.hart.reg 3).toNat) ∧
    -- gadd
    (∃ c, (withRegs user [(2, 1)]).checkRecord ((withRegs user [(2, 1)]).hart.reg 2) = .trap c) ∧
    (∃ k t, (spawning 3 0).checkRecord ((spawning 3 0).hart.reg 2) = .status k t) ∧
    (∀ cap ∈ [1, 4], let s := graphState 0 1 cap 0 [(2, 0x40010000), (3, 0x40020000)]
      s.checkRecord (s.hart.reg 2) = .ok (record.set 5 scope0) ∧ AreaAt s (s.hart.reg 3) (8 + 24 * 2) 0x20000020000 ∧
        AreaAt s (s.hart.reg 3) 4 0x20000020000 ∧ (s.pkg.mem.word 0x20000020000).toNat / 2 ^ 60 = 0 ∧
        (s.pkg.mem.word 0x20000020000).toNat % 2 ^ 16 = 1 ∧ (s.pkg.mem.word 0x20000020008).toNat = cap) ∧
    -- gdep, grend
    (∀ y ∈ [(0x00000001 : Word), 0x00010001], let s := graphState 0 2 4 0 [(2, 0x40020000), (3, y)]
      AreaAt s (s.hart.reg 2) (8 + 24 * 2) 0x20000020000 ∧ (s.pkg.mem.word 0x20000020000).toNat % 2 ^ 16 = 2 ∧
        (s.pkg.mem.word (0x20000020000 + 8 * (8 + 16))).toNat / 2 ^ 32 % 2 ^ 16 < 28) ∧
    (let s := linked 0 [(2, 0x40020000)]
     AreaAt s (s.hart.reg 2) (8 + 24 * 2) 0x20000020000 ∧ (s.pkg.mem.word 0x20000020000).toNat % 2 ^ 16 = 2 ∧
       ((List.range 2).filter fun j => decide ((s.pkg.mem.word (0x20000020000 + 8 * (8 + 24 * j + 16))).toNat / 2 ^ 32 % 2 ^ 16 = 0)).length = 1) ∧
    -- gfree
    (∀ p ∈ [(2, 0), (1, 3), (1, 0)], let s := graphState p.1 0 4 p.2 [(2, 0x40020000)]
      AreaAt s (s.hart.reg 2) 4 0x20000020000 ∧ (s.pkg.mem.word 0x20000020000).toNat / 2 ^ 60 = p.1 ∧
        (s.pkg.mem.word 0x20000020018).toNat = p.2) := by
  refine ⟨fun _ _ _ _ _ => ⟨rfl, rfl⟩, ⟨by decide +kernel, by decide +kernel, areaAt_of (by decide +kernel) (by decide +kernel), by decide +kernel⟩,
    by decide +kernel, trap_of (by decide +kernel), status_of (by decide +kernel), ?_, ?_, ⟨areaAt_of (by decide +kernel) (by decide +kernel), by decide +kernel, by decide +kernel⟩, ?_⟩
  · intro cap h
    simp only [List.mem_cons, List.not_mem_nil, or_false] at h
    obtain rfl | rfl := h <;>
      exact ⟨ok_of (by decide +kernel), areaAt_of (by decide +kernel) (by decide +kernel), areaAt_of (by decide +kernel) (by decide +kernel), by decide +kernel,
        by decide +kernel, by decide +kernel⟩
  · intro y h
    simp only [List.mem_cons, List.not_mem_nil, or_false] at h
    obtain rfl | rfl := h <;>
      exact ⟨areaAt_of (by decide +kernel) (by decide +kernel), by decide +kernel, by decide +kernel⟩
  · intro p h
    simp only [List.mem_cons, List.not_mem_nil, or_false] at h
    obtain rfl | rfl | rfl := h <;>
      exact ⟨areaAt_of (by decide +kernel) (by decide +kernel), by decide +kernel, by decide +kernel⟩

theorem all_of {α : Type} {x : Option (List α)} {p : α → Prop} [DecidablePred p]
    (h : (x.map fun l => decide (∀ a ∈ l, p a)) = some true) : ∃ l, x = some l ∧ ∀ a ∈ l, p a := by
  cases x with
  | none => cases h
  | some l => exact ⟨l, rfl, by simpa using h⟩

/-- A replay of one node with predecessors to come. -/
def replaying (st : Nat) (preds : Nat) (spawned : Bool) (k : Nat) : State :=
  let s := spawning st k
  { s with pkg := { s.pkg with replays :=
      [⟨7, 0x40020000, 0x20000020000, none, scope0, 0, [record.set 5 scope0], [preds], [1], [spawned], [[]], 0, 0⟩] } }

theorem hyp_GraphsReplay :
    Issues user 21 [2, 3, 1] ∧ MayPost user ∧ ¬MayPost (alter user fun h => { h with tk := h.tk.set 3 ⟨0, 64⟩ }) ∧
    (∀ p ∈ [(0, 0), (1, 0)], let s := linked p.1 [(2, 0x40020000), (3, 0x40030000)]
      s.hart.infl = [] ∧ s.hart.pendS = [] ∧ s.useMask.getLsbD 21 = true ∧ s.hart.outstanding < 64 ∧
      AreaAt s (s.hart.reg 2) 4 0x20000020000 ∧ s.pkg.mem.wf = true ∧
        s.graphHdr ⟨0, s.hart.xlat.1, s.hart.xlat.2, true⟩ (s.hart.reg 2) = some ⟨decide (p.1 = 1), 2, 4, 0, 0⟩ ∧
        s.scopeState scope0 = some .live ∧
        ∃ ns, s.allNodes ⟨0, s.hart.xlat.1, s.hart.xlat.2, true⟩ (s.hart.reg 2) 2 = some ns ∧
          ∀ n ∈ ns, s.scopeState (recScope n) = some .live ∧ recPlen n = 0 ∧ recPsrc n = 0) ∧
    (let s := linked 1 [(2, 0x40020000), (3, 0x40030000)]
     AreaAt s (s.hart.reg 3) 2 0x20000030000 ∧ s.pkg.mem.word 0x20000030000 = 0) ∧
    (user.scopeState ((user.hart.ctx.map Ctx.scope).getD 0) ≠ some .live) ∧
    -- a node
    (∀ preds sp, (replaying 1 preds sp 0).pkg.replays =
      [⟨7, 0x40020000, 0x20000020000, none, scope0, 0, [record.set 5 scope0], [preds], [1], [sp], [[]], 0, 0⟩]) ∧
    ((replaying 1 0 false 0).pkg.scopeState scope0 = some .live ∧ ((replaying 1 0 false 0).die.queue 0).length < 512 ∧
      (replaying 1 0 false 0).pkg.mem.wf = true ∧ (replaying 1 0 false 0).cur.die = 0) ∧
    (512 ≤ ((replaying 1 0 false 512).die.queue 0).length ∧
      (replaying 1 0 false 512).die.ringSlots ≤ (replaying 1 0 false 512).die.ring.length) ∧
    (replaying 2 0 false 0).pkg.scopeState scope0 = some .cancelling := by
  refine ⟨issues_user (by decide +kernel) _, ?_, ?_, ?_, ⟨areaAt_of (by decide +kernel) (by decide +kernel), by decide +kernel⟩,
    by decide +kernel, fun _ _ => rfl, by decide +kernel, by decide +kernel, by decide +kernel⟩
  · unfold MayPost; decide +kernel
  · unfold MayPost; decide +kernel
  · intro p h
    simp only [List.mem_cons, List.not_mem_nil, or_false] at h
    obtain rfl | rfl := h <;>
      exact ⟨rfl, rfl, by decide +kernel, by decide +kernel, areaAt_of (by decide +kernel) (by decide +kernel), by decide +kernel,
        by decide +kernel, by decide +kernel, all_of (by decide +kernel)⟩

/-- A sealed graph of one node whose parameter is one word, and a list of one patch at 0x40030000. -/
def imaged : State :=
  poke (poke (poke (poke (graphState 1 1 4 0 [(2, 0x40020000), (3, 0x40030000)]) (0x20000020000 + 8 * (8 + 2)) 0x1000040040000)
    0x20000030000 1) 0x20000030008 0x40050000) 0x20000030018 7

def node0 : List Word := ((List.replicate 24 0).set 5 scope0).set 2 0x1000040040000

theorem blockAt_of {s : State} {x : Xl} {va : Word} {ws : List Word}
    (h : ∀ k ∈ List.range ws.length, ((s.blockAddr x (va + BitVec.ofNat 64 (8 * k)) false).map s.pkg.mem.word) = ws[k]?) :
    BlockAt s x va ws := by
  intro k hk
  have e := h k (by simpa using hk)
  cases hb : s.blockAddr x (va + BitVec.ofNat 64 (8 * k)) false with
  | none => rw [hb, List.getElem?_eq_getElem hk] at e; cases e
  | some pa => exact ⟨pa, rfl, by rw [hb] at e; exact e.symm⟩

theorem hyp_GraphsReplay_image :
    let s := imaged
    let me : Xl := ⟨0, s.hart.xlat.1, s.hart.xlat.2, true⟩
    s.useMask.getLsbD 21 = true ∧ AreaAt s (s.hart.reg 2) 4 0x20000020000 ∧ s.pkg.mem.wf = true ∧
    (∃ h, s.graphHdr me (s.hart.reg 2) = some h ∧ h.sealedG = true ∧ s.allNodes me (s.hart.reg 2) h.count = some [node0]) ∧
    s.scopeState scope0 = some .live ∧ recScope node0 = scope0 ∧ recOk (node0.take 16) (some 0) = true ∧
    recUse node0 &&& ~~~task.use = 0 ∧ s.pkg.under scope0 scope0 = true ∧
    BlockAt s me (s.hart.reg 3) [1, 0x40050000, 0, 7] ∧ recPlen node0 = 1 ∧ recPsrc node0 ≠ 0 ∧
    BlockAt s me (BitVec.ofNat 64 (recPsrc node0)) [0] ∧
    ∃ u, s.writeBlock me 0x40050000 [7] = some u ∧ ∃ v, u.writeBlock me (s.hart.reg 2 + 24) [1] = some v :=
  ⟨by decide +kernel, areaAt_of (by decide +kernel) (by decide +kernel), by decide +kernel, ⟨_, rfl, by decide +kernel, by decide +kernel⟩,
    by decide +kernel, rfl, by decide +kernel, by decide +kernel, by decide +kernel, blockAt_of (by decide +kernel), by decide +kernel,
    by decide +kernel, blockAt_of (by decide +kernel), _, rfl, _, rfl⟩

/-! ### Barriers -/

def inBarrier (members arrived : List HartId) : State :=
  { withRegs user [(2, 3)] with
    pkg := { user.pkg with barriers := [⟨.core, [0, 0, 0], 3, members, arrived, [], []⟩] } }

def mate : HartId := ⟨0, 0, 0, 1⟩
def self : HartId := ⟨0, 0, 0, 0⟩

theorem hyp_BarriersReleaseTheirMembers :
    Issues user 0 [2, 3, 1] ∧ 16 ≤ ((withRegs user [(2, 16)]).hart.reg 2).toNat ∧ (user.hart.reg 2).toNat < 16 ∧
    user.cur ∉ (user.pkg.barrier .core [0, 0, 0] 0).members ∧
    -- one of two, the other not there yet or waiting
    (∀ came ∈ [[], [mate]], let s := inBarrier [self, mate] came
      (s.hart.reg 2).toNat = 3 ∧ s.cur ∈ (s.pkg.barrier .core (BarLevel.unit .core s.cur) 3).members ∧
        s.cur ∉ (s.pkg.barrier .core (BarLevel.unit .core s.cur) 3).arrived) ∧
    (let s := inBarrier [self, mate] [mate]
     s.accessesDone = true ∧ (s.pkg.barrier .core (BarLevel.unit .core s.cur) 3).far = [] ∧
       (∀ h ∈ (s.pkg.barrier .core (BarLevel.unit .core s.cur) 3).members.filter fun h => decide (h ≠ s.cur), h ∈ [mate])) ∧
    (let s := alter (inBarrier [self, mate] []) fun h => { h with bops := [scalarOp 0 .store 8] }
     s.accessesDone = false) :=
  ⟨issues_user (by decide +kernel) _, by decide +kernel, by decide +kernel, by decide +kernel, by decide +kernel, by decide +kernel,
    by decide +kernel⟩

/-! ### The Plotter -/

def plotting (l : List QRec) : State := { user with die := { Die.reset with queues := l } }

/-- A record of priority 5 for half the lanes of the one core that has capability 3, whose first hart runs a task of priority 0. -/
def crowded (recl : Bool) (pool : Option Pool) : State :=
  { poke (alter user fun h => { h with hst := { h.hst with recl := recl } }) (capAddr 0 0 0 0) 8 with
    die := { Die.reset with
      pool := pool
      queues := [{ queuedRec 5 5 with words := ((record.set 5 scope0).set 4 (5 + 8)).set 1 8 }] } }

def wanting : QRec := { queuedRec 5 5 with words := ((record.set 5 scope0).set 4 (5 + 8)).set 1 8 }

theorem lowest_alone {s : State} {y : HartId → Prop} (h : y s.cur) (only : ∀ k, y k → k ∈ s.dieHarts s.cur.die)
    (one : s.dieHarts s.cur.die = [s.cur]) : Lowest s y s.cur := by
  refine ⟨h, fun k hk => ?_⟩
  have := only k hk
  rw [one, List.mem_singleton] at this
  subst this
  exact lt_irrefl _

theorem hyp_PlotterHandsOut_preempts :
    (∀ recl pool, (crowded recl pool).die.saved = [] ∧ ((crowded recl pool).die.queue 5).find? (fun r => decide (r.next < r.limit)) = some wanting) ∧
    (∀ recl, (crowded recl none).nextRec 0 = none ∧ (crowded recl none).hart.reclPend = false ∧ (crowded recl none).hart.savePend = false) ∧
    Lowest (crowded true none) (YieldsLanes (crowded true none) wanting) (crowded true none).cur ∧
    Lowest (crowded false (some ⟨0x10000000000, 1, 0⟩)) (YieldsHart (crowded false (some ⟨0x10000000000, 1, 0⟩)) wanting)
      (crowded false (some ⟨0x10000000000, 1, 0⟩)).cur := by
  refine ⟨fun _ _ => ⟨rfl, rfl⟩, by decide +kernel, lowest_alone ?_ (fun k h => h.1.1) (by decide +kernel),
    lowest_alone ?_ (fun k h => h.1.1) (by decide +kernel)⟩
  · unfold YieldsLanes Yields; decide +kernel
  · unfold YieldsHart Yields; decide +kernel

theorem hyp_PlotterHandsOut :
    (plotting []).die.saved = [] ∧ (plotting []).nextRec 0 = none ∧
    (∃ r c, (plotting [queuedRec 3 5]).nextRec 0 = some (r, c)) ∧
    ((plotting []).die.queue 3)[0]? = none ∧
    (let s := { user with die := { Die.reset with queues := [queuedRec 3 5], cycles := 2 ^ 20 } }
     (s.die.queue 3)[0]? = some (queuedRec 3 5) ∧ 3 < 7 ∧ (queuedRec 3 5).entered + 2 ^ 20 ≤ s.die.cycles ∧ (s.die.queue 4).length < 512) ∧
    (((plotting [queuedRec 7 5]).die.queue 7)[0]? = some (queuedRec 7 5) ∧ ¬7 < 7) ∧
    (plotting []).die.ring = [] ∧
    (∀ k ∈ [0, 512], let s := { user with die := { Die.reset with queues := List.replicate k (queuedRec 0 5), ring := [queuedRec 0 9], ringSlots := 4 } }
      s.die.ring = queuedRec 0 9 :: [] ∧ (s.die.queue 0).length = k ∧ 0 < s.die.ringSlots) := by
  refine ⟨rfl, by decide +kernel, pair_of (by decide +kernel), by decide +kernel, by decide +kernel, by decide +kernel, rfl, by decide +kernel⟩

/-! ### Tasks -/

/-- A record with a parameter block at 0x40040000 of two words for Chart address 0x100, port 0 to be bound. -/
def paramRecord : List Word := ((record.set 2 0x0002000040040000).set 3 0x100).set 6 1

/-- A record of one loop: three iterations from 10 in steps of 5. -/
def loopRecord : List Word := ((record.set 4 0x100).set 8 10).set 9 0x500000003

def shadowOf (words : List Word) (copied : Bool) (nextPort : Nat) (fault : Option Cause) : Shadow :=
  ⟨words, 0, 0, 0, none, 0, copied, nextPort, Vector.replicate 8 PortSt.unbound, fault, 0, 0, none⟩

def preparing (s : State) (x : Shadow) : State := { s with core := { s.core with shadow := [x] } }

/-- A core whose Chart holds a handle and a layout word for port 0. -/
def withList (r : RunD) (layout : Word) : State :=
  let s := withRun atBeacon 3 r
  let s := { s with core := { s.core with chart := (s.core.chart.setWord 0x100 (handleOf 3 r)).setWord 0x108 layout } }
  preparing s (shadowOf paramRecord true 0 none)

/-- What a prebind meets. -/
def Prebinds (s : State) (r : RunD) (layout : Word) : Prop :=
  (recPmask paramRecord).testBit 0 = true ∧ s.core.chart.word (recPdst paramRecord + 16 * 0 + 8) = layout ∧ layout.toNat % 8 = 0 ∧
    layoutOk layout = true ∧ s.run (s.core.chart.word (recPdst paramRecord + 16 * 0)) = some r

theorem hyp_TasksArePreparedAndStart :
    (∀ x, (preparing user x).core.shadow[0]? = some x) ∧
    recPsrc record = 0 ∧ recPsrc paramRecord ≠ 0 ∧
    -- a block that meets another's, of a task or of an earlier shadow, and one that meets none
    (let s := alter user fun h => { h with ctx := some { task with block := (0x108, 8) } }
     ∃ c, (s.getHart { s.cur with hid := 0 }).ctx = some c ∧ 0 < c.block.2 ∧ recPdst paramRecord < c.block.1 + c.block.2 ∧
       c.block.1 < recPdst paramRecord + 8 * recPlen paramRecord) ∧
    (let s := { user with core := { user.core with shadow := [{ shadowOf paramRecord false 0 none with order := 1 }, shadowOf paramRecord true 8 none] } }
     ∃ y ∈ s.core.shadow, y.order < 1 ∧ recPdst y.words = recPdst paramRecord ∧ 0 < recPlen y.words) ∧
    (∀ k < 8, ∀ c, (user.getHart { user.cur with hid := k }).ctx = some c → c.block.2 = 0) ∧
    (∀ y ∈ (preparing user (shadowOf paramRecord false 0 none)).core.shadow, ¬y.order < 0) ∧
    user.readBlock ⟨0, 0, 0, true⟩ (BitVec.ofNat 64 (recPsrc paramRecord)) (recPlen paramRecord) = none ∧
    (∃ ws, atBeacon.readBlock ⟨0, 0, 0, true⟩ (BitVec.ofNat 64 (recPsrc paramRecord)) (recPlen paramRecord) = some ws) ∧
    atBeacon.core.chart.wf = true ∧
    -- prebind
    (recPmask record).testBit 0 = false ∧ (withList sealed 1).core.chart.word (recPdst paramRecord + 8) = 1 ∧
    (Prebinds (withList (runIn .sealed 511) 0) (runIn .sealed 511) 0 ∧ Prebinds (withList (runIn .opened 0) 8) (runIn .opened 0) 8 ∧
      Prebinds (withList (runIn .sealed 0) 8) (runIn .sealed 0) 8 ∧ Prebinds (withList sealed 0) sealed 0 ∧
      (withList sealed 0).pkg.mem.wf = true ∧
      (∃ tr, (withList sealed 0).checkStream ⟨0, 0, 0, true⟩ sealed .read 0 = .ok tr) ∧
      (let r := { runIn .alloc 0 with mark := 0 }
       Prebinds (withList r 8) r 8 ∧ r.mark.toNat < r.cap.toNat ∧
         ∃ tr, (withList r 8).checkStream ⟨0, 0, 0, true⟩ r .write (r.mark.toNat * 2 ^ r.wlog) = .ok tr) ∧
      (let r := { runIn .alloc 0 with mark := 0, base := 0xC0000000 }
       Prebinds (withList r 8) r 8 ∧ (withList r 8).checkStream ⟨0, 0, 0, true⟩ r .write 0 = .error .fault) ∧
      (let r := { sealed with base := 0xC0000000 }
       Prebinds (withList r 0) r 0 ∧ (withList r 0).checkStream ⟨0, 0, 0, true⟩ r .read 0 = .error .fault)) ∧
    -- indices
    (recOk loopRecord none = true ∧ 0 < recNl loopRecord) ∧
    -- starts
    (∀ x ∈ (preparing user (shadowOf record false 0 none)).core.shadow, x.copied = false ∨ x.nextPort < 8) ∧
    (∀ k < 8, user.freeFor user.cur k (32 / 2 ^ recSplit record) = false) ∧
    State.reset.freeFor State.reset.cur 0 (32 / 2 ^ recSplit record) = true ∧
    State.reset.die.draining ≠ some State.reset.cur.quad ∧ State.reset.quad.mops = [] ∧
    ({ Die.reset with draining := some 0 }).draining = some 0 ∧ (shadowOf record true 8 (some .runfault)).fault = some .runfault := by
  refine ⟨fun _ => rfl, by decide +kernel, by decide +kernel, ⟨_, rfl, by decide, by decide +kernel, by decide +kernel⟩, by decide +kernel, ?_,
    by decide +kernel, by decide +kernel,
    some_of (by decide +kernel), rfl, by decide +kernel, by decide +kernel,
    ⟨?_, ?_, ?_, ?_, by decide +kernel, ⟨_, rfl⟩, ⟨?_, by decide, _, rfl⟩, ⟨?_, rfl⟩, ?_, rfl⟩,
    by decide +kernel, by decide +kernel, by decide +kernel, by decide +kernel, by decide, rfl, rfl, rfl⟩
  · intro k hk c hc
    have hn : ∀ k < 8, ((user.getHart { user.cur with hid := k }).ctx.all fun c => decide (c.block.2 = 0)) = true := by decide +kernel
    have := hn k hk
    rw [hc] at this
    exact of_decide_eq_true this
  all_goals (unfold Prebinds; decide +kernel)

/-! ### Traps -/

theorem empty_user : Empty user := ⟨⟨rfl, rfl, rfl, rfl⟩, rfl, ⟨(by intro o h; cases h), (by intro o h; cases h)⟩, by decide +kernel⟩

/-- A handler over a queue whose head stopped, with a trap record. -/
def frozenQueue (cause : Word) (c : Ctx) : State :=
  alter sup fun h => { h with trcause := cause, ctx := some c, vq := [entry (.vld .unit 4 0) [0] (some 3) 16 2] }

theorem priv_of {s : State} (h : s.hart.hst.mode = true) (h1 : s.useMask.getLsbD 0 = true) (h2 : s.hart.infl = []) (h3 : s.hart.pendS = [])
    (rs : List SReg) : IssuesPrivileged s rs := ⟨h, h1, free_of h2 h3 rs⟩

def faulty : Ctx := { task with faults := [⟨9, 0x200, 7⟩] }

theorem hyp_TrapsAndReturns :
    Empty user ∧ 5 < 2 ^ 32 ∧ Issues user 0 [] ∧ (Cause.chart ≠ .lanelost ∧ Cause.chart ≠ .mirror) ∧ IssuesPrivileged sup [2] ∧
    (let s := alter sup fun h => { h with ctx := none }; IssuesPrivileged s [2] ∧ s.hart.ctx = none ∧ Quiet s) ∧
    ((frozenQueue 0 { task with lost := true }).hart.ctx = some { task with lost := true }) ∧
    (sup.hart.ctx = some task ∧ task.lost = false ∧ sup.hart.qf = false) ∧
    (∀ c, (frozenQueue 0x4000 c).hart.vq = entry (.vld .unit 4 0) [0] (some 3) 16 2 :: []) ∧
    ((frozenQueue 0x4000 task).hart.qf = true ∧ (frozenQueue 0x4000 task).hart.trcause.getLsbD 15 = false ∧
      (frozenQueue 0xD000 task).hart.qf = true ∧ (frozenQueue 0xD000 task).hart.trcause.getLsbD 15 = true ∧
      (frozenQueue 0xD000 task).hart.trcause.getLsbD 12 = true ∧ (frozenQueue 0xD000 task).hart.trcause.getLsbD 13 = false ∧
      IssuesPrivileged (frozenQueue 0xD000 task) [2]) ∧
    -- engine faults
    (let s := alter user fun h => { h with ctx := some faulty }
     s.hart.hst.mode = false ∧ s.hart.ctx = some faulty ∧ faulty.faults = ⟨9, 0x200, 7⟩ :: [] ∧ Empty s) ∧
    (user.hart.ctx = some task ∧ task.faults = []) ∧ IssuesPrivileged sup [2, 1] ∧ user.hart.hst.mode = false := by
  refine ⟨empty_user, by decide, issues_user (by decide +kernel) _, by decide, priv_sup _,
    ⟨priv_of rfl (by decide +kernel) rfl rfl _, rfl, ⟨rfl, rfl, rfl, rfl⟩⟩, rfl, ⟨rfl, rfl, by decide +kernel⟩, fun _ => rfl,
    ⟨by decide +kernel, by decide +kernel, by decide +kernel, by decide +kernel, by decide +kernel, by decide +kernel, priv_of rfl (by decide +kernel) rfl rfl _⟩,
    ⟨rfl, rfl, rfl, ⟨rfl, rfl, rfl, rfl⟩, rfl, ⟨(by intro o h; cases h), (by intro o h; cases h)⟩, by decide +kernel⟩, ⟨rfl, rfl⟩, priv_sup _, rfl⟩

/-! ### The supervisor's words -/

def supRegs (a b : Word) : State := alter sup fun h => { h with s := (h.s.set 2 a).set 3 b }

/-- A saved context in slot 0 of the pool. -/
def savedOne : Saved := ⟨0, [0x20000100000], some 0, true, task, 0, 32, ⟨0, 0, 0, 0⟩, [], []⟩

/-- Four words of the Chart for `xrng`. -/
def rangeWords : State :=
  let s := supRegs 0x100 3
  { s with core := { s.core with chart := ((s.core.chart.setWord 0x100 0x1000).setWord 0x108 0x2000).setWord 0x118 0x17 } }

theorem hyp_SupervisorAndLaneWords :
    IssuesPrivileged sup [2, 3, 1] ∧ (sup.hart.reg 2).toNat < 4 ∧
    (16 ≤ ((supRegs 20 0).hart.reg 2).toNat ∧ ((supRegs 20 0).hart.reg 2).toNat < 32) ∧ 32 ≤ ((supRegs 40 0).hart.reg 2).toNat ∧
    -- spool
    ((supRegs 1 0).hart.reg 2).toNat % 64 ≠ 0 ∧
    (((supRegs 0x40100000 0x80004).hart.reg 2).toNat % 64 = 0 ∧ ((supRegs 0x40100000 0x80004).hart.reg 3).toNat < 2 ^ 24) ∧
    (let s := { supRegs 0x40100000 0x80004 with die := { Die.reset with saved := [savedOne] } }
     ∃ v ∈ s.die.saved, v.slot ≠ none ∧ (v.lanes = 0 ↔ (s.hart.reg 3).getLsbD 16 = true)) ∧
    -- sring
    (((supRegs 0x40200000 8).hart.reg 2).toNat % 64 = 0 ∧ ∃ e, e ≤ 16 ∧ ((supRegs 0x40200000 8).hart.reg 3).toNat = 2 ^ e) ∧
    sup.die.ring = [] ∧ ({ Die.reset with ring := [queuedRec 0 9] }).ring ≠ [] ∧
    -- xrng
    (rangeWords.hart.loads = [] ∧ rangeWords.hart.stores = [] ∧ rangeWords.core.chart.wf = true) ∧
    (rangeWords.hart.reg 2).toNat % 8 = 0 ∧ anyPoison rangeWords.core.chartPoison 0x100 32 = false ∧ anyPoison [0x21] 0x100 32 = true ∧
    ((rangeWords.hart.reg 3).toNat < 512 ∧ (rangeWords.core.chart.word 0x100).toNat % 4096 = 0 ∧
      (rangeWords.core.chart.word 0x108).toNat % 4096 = 0 ∧ (rangeWords.core.chart.word 0x110).toNat % 4096 = 0 ∧
      (rangeWords.core.chart.word 0x118).toNat / 2 ^ 16 % 2 ^ 40 = 0 ∧ (rangeWords.core.chart.word 0x118).toNat / 32 % 8 = 0) ∧
    512 ≤ ((supRegs 0 600).hart.reg 3).toNat ∧
    -- xctx
    (alter sup fun h => { h with ctx := none }).hart.ctx = none ∧
    (((supRegs 7 0x1000).hart.reg 2).toNat ≤ 254 ∧ ((supRegs 7 0x1000).hart.reg 3).toNat % 4096 = 0 ∧
      ((supRegs 7 0x1000).hart.reg 3).toNat < 0x8000000000) ∧ ¬((supRegs 255 0).hart.reg 2).toNat ≤ 254 ∧
    -- xpois
    (((supRegs 0x1000 1).hart.reg 2).toNat < 0x8000000000 ∧ ((supRegs 0x1000 1).hart.reg 3).toNat ≤ 1) ∧
    ¬((supRegs 0x1000 2).hart.reg 3).toNat ≤ 1 := by
  refine ⟨priv_sup _, by decide +kernel, by decide +kernel, by decide +kernel, by decide +kernel, by decide +kernel, by decide +kernel,
    ⟨by decide +kernel, 3, by decide, by decide +kernel⟩, rfl, by decide, by decide +kernel, by decide +kernel, by decide +kernel, by decide +kernel,
    by decide +kernel, by decide +kernel, rfl, by decide +kernel, by decide +kernel, by decide +kernel, by decide +kernel⟩

/-! ### Lanes -/

/-- A handler on hart 1 of a core whose hart 0 runs at 8 lanes and may be reclaimed; the lanes of the others are as given. -/
def lanesState (lanes : Nat) (h0 : Hart → Hart) : State :=
  let s := alter sup fun h => { h with lanes := 8, hst := { h.hst with recl := true } }
  let s := alter s h0
  { s with harts := (List.range' 1 7).map fun k => (⟨0, 0, 0, k⟩, { Hart.reset ⟨0, 0, 0, k⟩ with lanes := lanes, lane0 := 4 * k }) }

theorem hyp_SupervisorAndLaneWords_lanes :
    IssuesPrivileged sup [2, 1] ∧ sup.hart.hst.recl = false ∧
    (∀ k ∈ [0, 8], let h := (lanesState k id).getHart ⟨0, 0, 0, 0⟩
      h.hst.recl = true ∧ h.hst.helm = false ∧ 8 ≤ h.lanes) ∧
    (∀ k < 8, ((lanesState 8 id).getHart ⟨0, 0, 0, k⟩).lanes ≠ 0) ∧ ((lanesState 0 id).getHart ⟨0, 0, 0, 1⟩).lanes = 0 ∧
    -- lgive
    sup.hart.gave = [] ∧
    (let s := lanesState 8 fun h => { h with gave := [1] }
     s.hart.gave = 1 :: [] ∧ (s.getHart ⟨0, 0, 0, 1⟩).ctx = none ∧ (s.getHart ⟨0, 0, 0, 1⟩).hst.mode = false ∧
       s.ownDone ⟨0, 0, 0, 1⟩ = true ∧
       (s.getHart ⟨0, 0, 0, 1⟩).lanes = s.hart.lanes) ∧
    (lanesState 4 fun h => { h with gave := [1] }).hart.gave = 1 :: [] ∧
    -- lmir
    sup.useMask.getLsbD 23 = true ∧ Free sup [2, 1] ∧ (((supRegs 0x100 0).hart.reg 2).getLsbD 8 = true ∧ 4 < sup.hart.lanes) ∧
    (let s := alter (supRegs 0x100 0) fun h => { h with lanes := 4 }; (s.hart.reg 2).getLsbD 8 = true ∧ s.hart.lanes ≤ 4) ∧
    -- lspare, lstat
    (sup.core.spare = none ∧ sup.core.sparePend = none ∧ sup.hart.lane0 ≤ 0 ∧ 0 < sup.hart.lane0 + sup.hart.lanes) ∧
    ({ sup.core with spare := some 3 } : Core).spare ≠ none ∧
    (∀ k < 8, ¬((lanesState 0 id).getHart ⟨0, 0, 0, k⟩).lane0 ≤ 31 ∨
      ¬31 < ((lanesState 0 id).getHart ⟨0, 0, 0, k⟩).lane0 + ((lanesState 0 id).getHart ⟨0, 0, 0, k⟩).lanes) ∧
    sup.pkg.mem.wf = true := by
  refine ⟨priv_sup _, by decide +kernel, by decide +kernel, by decide +kernel, by decide +kernel, rfl, by decide +kernel, rfl,
    by decide +kernel, free_of rfl rfl _, by decide +kernel, by decide +kernel, by decide +kernel, by decide, by decide +kernel, by decide +kernel⟩

/-! ### Saved contexts -/

/-- A handler with an area at 0x40100000 named by s2. -/
def saving (c : Option Ctx) : State := mapped (alter (supRegs 0x40100000 0) fun h => { h with ctx := c })

/-- An area that holds the context of a hart of 32 lanes. -/
def filled (c : Option Ctx) : State :=
  let s := poke (saving c) 0x20000100000 0x20000000000000
  { s with die := { s.die with ranges := [(1, ⟨0x40000000, 0x40200000, 0x1FFC0000000, 0xFF00000000000017⟩)] } }

/-- The same with the context's scope being cancelled. -/
def cancelledSave (s : State) : State :=
  poke (alter s fun h => { h with ctx := h.ctx.map fun c => { c with scope := scope0 } }) 0x20000380000 (BitVec.ofNat 64 (2 ^ 48 + 2 * 2 ^ 44))

/-- The pages of an area of 52,480 bytes. -/
def area13 : List Nat := (List.range 13).map fun k => 0x20000100000 + 4096 * k

/-- A machine with one context that waits for its restore. -/
def restorableState : State :=
  let s := poke State.reset (capAddr 0 0 0 0) 0xFFFFFF
  { s with die := { s.die with saved := [{ savedOne with pages := area13 }] } }

/-- A task whose save is pending, and a pool of four slots at 0x40100000. -/
def preempted (pool : Option Pool) : State :=
  let s := mapped (alter user fun h => { h with savePend := true })
  { s with die := { s.die with pool := pool } }

theorem empty_preempted (p : Option Pool) : Empty (preempted p) :=
  ⟨⟨rfl, rfl, rfl, rfl⟩, rfl, ⟨(by intro o h; cases h), (by intro o h; cases h)⟩, rfl⟩

theorem hyp_ContextsAreSavedAndRestored :
    (IssuesPrivileged (saving none) [2, 1] ∧ IssuesPrivileged (saving (some task)) [2, 1]) ∧ (saving none).hart.ctx = none ∧
    sup.areaPages ⟨0, 0, 0, false⟩ (sup.hart.reg 2) 0xCD00 true = none ∧
    (let s := saving (some task)
     s.hart.ctx = some task ∧ s.areaPages ⟨0, 0, 0, false⟩ (s.hart.reg 2) (0xCD00 + task.cwLen * 4096) true = some (0, area13) ∧
       PagesApart area13 ∧ Quiet s ∧ s.unitsQuiet = true ∧ s.hart.vq = [] ∧ s.pkg.mem.wf = true ∧ s.hart.lanes ≤ 32 ∧
       s.pkg.scopeState task.scope = none) ∧
    -- the same where the context's scope is cancelled
    (let s := cancelledSave (saving (some task))
     s.hart.ctx = some { task with scope := scope0 } ∧ s.pkg.scopeState scope0 = some .cancelling ∧
       s.areaPages ⟨0, 0, 0, false⟩ (s.hart.reg 2) 0xCD00 true = some (0, area13) ∧ Quiet s ∧ s.unitsQuiet = true ∧ s.pkg.mem.wf = true) ∧
    (let s := alter (saving (some task)) fun h => { h with vq := [addEntry 16] }; s.hart.qf = false ∧ s.hart.vq ≠ []) ∧
    -- `ctxrest`, `ctxdrop`
    sup.areaAt (sup.hart.reg 2) = none ∧
    (∃ v, (filled none).areaAt ((filled none).hart.reg 2) = some v ∧ v.pages = area13 ∧ (filled none).restInval v = false ∧
      (filled none).queueQuiet = true ∧ (filled none).savedAt v = none ∧ (v.word (filled none).pkg.mem 0).toNat % 256 ≠ 1) ∧
    (∃ v, (filled (some task)).areaAt ((filled (some task)).hart.reg 2) = some v ∧ (filled (some task)).restInval v = true) ∧
    ({ Die.reset with saved := [{ savedOne with pages := area13 }] }).saved.find? (fun w => decide (w.areaOff = 0 ∧ w.pages = area13)) =
      some { savedOne with pages := area13 } ∧
    -- the Plotter's save
    user.hart.savePend = false ∧
    ((preempted none).hart.ctx = some task ∧ (preempted none).hart.savePend = true ∧ (preempted none).hart.hst.mode = false ∧
      (preempted none).die.freeSlot false 0 = none ∧ (preempted none).hart.bops = [] ∧
      (preempted none).hart.late = [] ∧ (preempted none).core.divider = [] ∧
      ∀ p, Empty (preempted p)) ∧
    (let s := preempted (some ⟨0x40100000, 4, 0⟩)
     s.die.freeSlot false 0 = some (0, 0x40100000) ∧
       s.areaPages ⟨0, 0, 0, false⟩ (BitVec.ofNat 64 0x40100000) 0xCD00 true = some (0, area13)) ∧
    -- its restore
    user.die.saved[0]? = none ∧ restorableState.die.saved[0]? = some { savedOne with pages := area13 } ∧
    (restorableState.restorable { savedOne with pages := area13 } restorableState.cur = true ∧
      restorableState.nextSaved 0 = some { savedOne with pages := area13 } ∧ restorableState.nextRec 0 = none ∧
      savedOne.lanes = restorableState.hart.lanes) ∧ user.restorable savedOne user.cur = false := by
  refine ⟨⟨priv_of rfl (by decide +kernel) rfl rfl _, priv_of rfl (by decide +kernel) rfl rfl _⟩, rfl, by decide +kernel,
    ⟨rfl, by decide +kernel, ⟨by decide +kernel, by decide +kernel⟩, ⟨rfl, rfl, rfl, rfl⟩, by decide +kernel, rfl, by decide +kernel, by decide +kernel, by decide +kernel⟩,
    ⟨rfl, by decide +kernel, by decide +kernel, ⟨rfl, rfl, rfl, rfl⟩, by decide +kernel, by decide +kernel⟩,
    ⟨by decide +kernel, by decide +kernel⟩, by decide +kernel, ?_, ?_, by decide +kernel, rfl,
    ⟨rfl, rfl, rfl, by decide +kernel, rfl, rfl, rfl, empty_preempted⟩, by decide +kernel, rfl, rfl, by decide +kernel, by decide +kernel⟩
  · have h : ((filled none).areaAt ((filled none).hart.reg 2)).map (fun v => decide (v.pages = area13) && !(filled none).restInval v &&
        decide ((filled none).savedAt v = none) && decide ((v.word (filled none).pkg.mem 0).toNat % 256 ≠ 1)) = some true := by decide +kernel
    obtain ⟨v, h1, h2⟩ := Option.map_eq_some_iff.1 h
    simp only [Bool.and_eq_true, decide_eq_true_eq, Bool.not_eq_true'] at h2
    exact ⟨v, h1, h2.1.1.1, h2.1.1.2, by decide +kernel, h2.1.2, h2.2⟩
  · have h : ((filled (some task)).areaAt ((filled (some task)).hart.reg 2)).map (fun v => (filled (some task)).restInval v) = some true := by
      decide +kernel
    exact Option.map_eq_some_iff.1 h

/-! ### Collectives -/

/-- A group record of generation 1 at 0x40050000, a control block at 0x40051000, the ring formed. -/
def grouped (members : Word) (rings : List Ring) (input : RunD := sealed) : State :=
  let s := withRun (withRun atBeacon 3 input) 4 { runIn .alloc 0 with mark := 0 }
  let s := poke (poke s 0x20000050000 0x1000000000000) 0x20000050008 members
  let s := poke (poke (poke s 0x20000051000 0x40050000) 0x20000051008 (handleOf 3 sealed)) 0x20000051010 (handleOf 4 (runIn .alloc 0))
  let s := poke (poke s 0x20000051018 3) 0x20000051020 100
  { s with pkg := { s.pkg with rings := rings } }

def groupRegs (members : Word) (rings : List Ring) (a : Word) : State := withRegs (grouped members rings) [(2, a), (3, 50)]

def ring2 : Ring := ⟨0x40050000, 1, 3, 0⟩
def ring1 : Ring := ⟨0x40050000, 1, 1, 0⟩

/-- The collective of a hart: the forming of a ring, or a `callr`. -/
def collOf (form : Bool) : Coll := ⟨⟨0, 0, 0, 0⟩, form, 1, 0x40050000, 1, 3, handleOf 3 sealed, handleOf 4 (runIn .alloc 0), 3, 100, 0, 0⟩

def inColl (form : Bool) (slot : Nat) : State :=
  let s := grouped 3 (if form then [] else [{ ring2 with inUse := 1 }])
  let s := withRun s 4 { runIn .opened 0 with mark := 0 }
  let s := alter s fun h => { h with hold := .coll 1 0 100, slot := slot, clock := slot }
  { s with pkg := { s.pkg with colls := [collOf form] } }

/-- A package with all its links lost, or none of them. -/
def withLinks (s : State) (lost : Bool) : State := { s with pkg := { s.pkg with links := List.replicate 12 ⟨true, lost, 0, 0, 0, 0⟩ } }

theorem withLinks_hopLost (s : State) (lost : Bool) (k : Nat) : (withLinks s lost).pkg.hopLost k = lost := by
  have h : (withLinks s lost).pkg.portTo k < 12 := Nat.lt_of_lt_of_le (Nat.mod_lt _ (by decide)) (by decide)
  simp only [Pkg.hopLost, withLinks] at h ⊢
  rw [List.getElem?_replicate, if_pos h]
  rfl

/-- The words of an area, one by one. -/
theorem areaHolds_of {s : State} {va : Word} {ws : List Word} (h : va.toNat % 64 = 0)
    (h' : ∀ k ∈ List.range ws.length, (match s.blockAddr ⟨s.cur.die, s.hart.xlat.1, s.hart.xlat.2, !s.hart.hst.mode⟩
        (va + BitVec.ofNat 64 (8 * k)) false with
      | some pa => !s.pkg.beaconPoison.contains (pa / 8) && decide (ws[k]? = some (s.pkg.mem.word pa))
      | none => false) = true) : AreaHolds s va ws := by
  refine ⟨h, fun k w hk => ?_⟩
  have e := h' k (by simpa using (List.getElem?_eq_some_iff.1 hk).1)
  split at e
  · rename_i pa hp
    simp only [Bool.and_eq_true, Bool.not_eq_true', decide_eq_true_eq] at e
    exact ⟨pa, hp, e.1, Option.some.inj (hk.symm.trans e.2)⟩
  · cases e

/-- The words of a group record, and of the control block of `grouped`. -/
def groupWords (members : Word) : List Word := 0x1000000000000 :: members :: List.replicate 15 0
def callWords : List Word := [0x40050000, handleOf 3 sealed, handleOf 4 (runIn .alloc 0), 3, 100, 0, 0, 0]

theorem hyp_CollectiveWords :
    (∀ m r a, (groupRegs m r a).hart.infl = [] ∧ (groupRegs m r a).hart.pendS = []) ∧
    (groupRegs 3 [] 0x40050000).useMask.getLsbD 22 = true ∧
    AreaTraps user (user.hart.reg 2) 17 .beacon ∧
    (let s := groupRegs 3 [] 0x40050000
     AreaTraps { s with pkg := { s.pkg with beaconPoison := [0x20000050080 / 8] } } 0x40050000 17 .poison) ∧
    (∀ m ∈ [(3 : Word), 1, 2], GroupAt (groupRegs m [] 0x40050000) 0x40050000 1 (m.setWidth 1024)) ∧
    ((ringIds 3).length = 2 ∧ (ringIds 1).length = 1 ∧ (2 : BitVec 1024).getLsbD 0 = false) ∧
    -- cabort
    (∀ r ∈ (groupRegs 3 [] 0x40050000).pkg.rings, r.group ≠ 0x40050000) ∧
    ((groupRegs 3 [ring2] 0x40050000).pkg.rings.find? (fun r => decide (r.group = 0x40050000)) = some ring2 ∧
      ∀ c ∈ (groupRegs 3 [ring2] 0x40050000).pkg.colls, c.gen ≠ ring2.gen) ∧
    -- a ring of one package where the table is full
    ((List.replicate 16 { ring2 with group := 0x40060000, inUse := 1 }).length = 16 ∧
      ∀ r ∈ List.replicate 16 { ring2 with group := 0x40060000, inUse := 1 }, r.group ≠ 0x40050000 ∧ r.inUse ≠ 0) ∧
    -- callr
    AreaTraps user (user.hart.reg 2) 8 .beacon ∧ callWords.length = 8 ∧
    (∀ r ∈ [[], [ring2]], AreaHolds (groupRegs 3 r 0x40051000) 0x40051000 callWords ∧
      GroupAt (groupRegs 3 r 0x40051000) 0x40050000 1 3 ∧
      (groupRegs 3 r 0x40051000).run (handleOf 3 sealed) = some sealed ∧
      (groupRegs 3 r 0x40051000).run (handleOf 4 (runIn .alloc 0)) = some { runIn .alloc 0 with mark := 0 }) ∧
    CallInvalid (groupRegs 3 [] 0).pkg (fun k => callWords.getD k 0) 1 3 sealed { runIn .alloc 0 with mark := 0 } ∧
    (let s := groupRegs 3 [ring2] 0x40051000
     ¬CallInvalid s.pkg (fun k => callWords.getD k 0) 1 3 sealed { runIn .alloc 0 with mark := 0 } ∧ s.pkg.aborted = [] ∧
       s.pkg.colls = [] ∧ sealed.mark ≠ 0 ∧ sealed.rdrs ≠ 511 ∧ s.pkg.mem.wf = true ∧ s.cur = ⟨0, 0, 0, 0⟩ ∧
       (∃ t, s.checkStream ⟨0, 0, 0, true⟩ sealed .read 0 = .ok t) ∧
       ∃ t, s.checkStream ⟨0, 0, 0, true⟩ { runIn .alloc 0 with mark := 0 } .write 0 = .ok t) ∧
    (let s := grouped 1 [ring1] { sealed with mark := 0 }
     ¬CallInvalid s.pkg (fun k => callWords.getD k 0) 1 1 { sealed with mark := 0 } { runIn .alloc 0 with mark := 0 } ∧
       s.run (handleOf 3 sealed) = some { sealed with mark := 0 }) := by
  refine ⟨fun _ _ _ => ⟨rfl, rfl⟩, by decide +kernel, by unfold AreaTraps; decide +kernel,
    .inr ⟨by decide, by decide +kernel, ⟨16, by decide, 0x20000050080, by decide +kernel, by decide +kernel⟩, rfl⟩, ?_, by decide +kernel,
    by decide +kernel, by decide +kernel, by decide +kernel, by unfold AreaTraps; decide +kernel, rfl, ?_,
    by unfold CallInvalid; decide +kernel, ⟨by unfold CallInvalid; decide +kernel, rfl, rfl, by decide, by decide, by decide +kernel, rfl,
      ⟨_, rfl⟩, _, rfl⟩, by unfold CallInvalid; decide +kernel, by decide +kernel⟩
  · intro m hm
    simp only [List.mem_cons, List.not_mem_nil, or_false] at hm
    obtain rfl | rfl | rfl := hm
    · exact ⟨groupWords 3, rfl, areaHolds_of (by decide) (by decide +kernel), rfl, by decide +kernel⟩
    · exact ⟨groupWords 1, rfl, areaHolds_of (by decide) (by decide +kernel), rfl, by decide +kernel⟩
    · exact ⟨groupWords 2, rfl, areaHolds_of (by decide) (by decide +kernel), rfl, by decide +kernel⟩
  · intro r hr
    simp only [List.mem_cons, List.not_mem_nil, or_false] at hr
    obtain rfl | rfl := hr <;>
      exact ⟨areaHolds_of (by decide) (by decide +kernel), ⟨groupWords 3, rfl, areaHolds_of (by decide) (by decide +kernel), rfl, by decide +kernel⟩,
        by decide +kernel, by decide +kernel⟩

/-- Two members' inputs of two elements each: segment 1 holds element 1. -/
theorem hyp_CollectivesEnd_combines :
    (List.replicate 8 (0 : Byte)).length = 2 * 4 ∧
    (let xs : List (List Byte) := [List.replicate 16 1, List.replicate 16 2]
     1 < 2 ∧ 2 ≤ xs.length ∧ (∀ b ∈ xs, (1 + 1) * 8 ≤ b.length) ∧ 1 < xs.length ∧ 1 * 2 / xs.length ≤ 1 ∧ 1 < (1 + 1) * 2 / xs.length ∧
       0 * 2 / xs.length ≤ 0 ∧ 0 < (0 + 1) * 2 / xs.length) := by decide

theorem hyp_CollectivesEnd :
    (∀ f n, (inColl f n).pkg.colls = [collOf f] ∧ (collOf f).hart = (inColl f n).cur ∧ (collOf f).form = f ∧
      (inColl f n).hart.hold = .coll 1 0 100) ∧
    (inColl true 5).hart.pendingReg 1 = false ∧ (inColl false 5).hart.pendingReg 1 = false ∧
    ((inColl true 5).pkg.rings = [] ∧ AreaAt (inColl true 5) 0x40050000 17 0x20000050000 ∧ (inColl true 5).pkg.mem.wf = true ∧
      ¬0 + 100 ≤ (inColl true 5).hart.clock ∧ 0 + 100 ≤ (inColl true 100).hart.clock) ∧
    -- the hop to a neighbour stands or is lost
    (∀ f n lost k, (withLinks (inColl f n) lost).pkg.hopLost k = lost ∧ (withLinks (inColl f n) lost).pkg.colls = [collOf f]) ∧
    ((inColl false 5).run (collOf false).input = some sealed ∧
      (inColl false 5).run (collOf false).output = some { runIn .opened 0 with mark := 0 } ∧ (collOf false).input ≠ (collOf false).output ∧
      (inColl false 5).pkg.mem.wf = true) ∧
    (let others : List (List Byte) := [List.replicate 64 0]
     (∀ x ∈ others, x.length = sealed.mark.toNat * 2 ^ sealed.wlog) ∧ others.length = 2 - 1 ∧ 0 + 1 < 2 * (2 - 1)) ∧
    2 * (2 - 1) ≤ 1 + 1 ∧ (∃ x ∈ [[(0 : Byte)]], x.length ≠ sealed.mark.toNat * 2 ^ sealed.wlog) ∧
    (∃ tr own, (inColl false 5).readStream ⟨0, 0, 0, true⟩ sealed none 0 64 = .ok (tr, own)) ∧
    (∃ tr u, (inColl false 5).writeStream ⟨0, 0, 0, true⟩ { runIn .opened 0 with mark := 0 } none 0 (List.replicate 64 0) = .ok (tr, u)) ∧
    (successor 3 0 = 1 ∧ predecessor 3 0 = 1 ∧ (ringIds 3).length = 2) ∧
    ((inColl true 5).pkg.aborted = [] ∧ [(1, some 1)].any (fun q : Nat × Option Nat => decide (q.1 = 1)) = true) := by
  refine ⟨fun _ _ => ⟨rfl, rfl, rfl, rfl⟩, by decide +kernel, by decide +kernel,
    ⟨rfl, areaAt_of (by decide +kernel) (by decide +kernel), by decide +kernel, by decide +kernel, by decide +kernel⟩,
    fun f n lost k => ⟨withLinks_hopLost _ _ _, rfl⟩, by decide +kernel, by decide +kernel, by decide, by decide +kernel, ⟨_, _, rfl⟩, ⟨_, _, rfl⟩, by decide +kernel, rfl, by decide⟩

/-! ### Integrity -/

def protectedHart (s : State) : State := alter s fun h => { h with hst := { h.hst with prot := true } }
def spared (s : State) : State := { s with core := { s.core with spare := some 5 } }

/-- A user whose queue holds an addition that writes v4, its group 0 of 64 elements to be named by a fault. -/
def adding (prot : Bool) : State := alter user fun h => { h with vq := [addEntry 80], hst := { h.hst with prot := prot } }

/-- A user with a gather under way in the network. -/
def gathering (prot : Bool) : State := let s := inNet (entry (.vgather 4 8 12 0) [] (some 3) 80 2); if prot then protectedHart s else s

/-- The same with a Chart load in the pipe, its first group served, an entry behind it. -/
def loadGoing (passed : Bool) : State :=
  let x := entry (.vld .unit 4 0) [0x100] (some 3) 80 2
  { protectedHart (alter user fun h => { h with slot := 9, vq := [{ addEntry 80 with id := 96 }] }) with
    core := { Core.reset with pipe := [{ served x with left := 2, passed := passed }] } }

theorem hyp_ReplaysFencesAndSoundings_stops :
    -- a head that writes the register named, and one that does not
    (∀ p, let s := adding p
      Quiet s ∧ s.hart.bops = [] ∧ s.hart.vq = addEntry 80 :: [] ∧
        (s.core.net ++ s.core.pipe).filter (fun o => o.hid = s.cur.hid) = [] ∧ s.hart.hst.prot = p) ∧
    (let s := adding false
     let x := addEntry 80
     let us := x.named (max 1 s.hart.leff)
     x.vl ≠ 0 ∧ (∃ w ∈ us, hits x 4 true w = true) ∧ (∃ u, (s.hart.geo x).us.find? (hits x 4 true) = some u) ∧
       ∀ u ∈ us, hits x 20 false u = false ∧ hits x 20 true u = false) ∧
    -- the group that failed is the first, or the second of two
    (let s := adding false
     let x := entry (.vin .add 4 8 (.vec 12) 0) [] none 256 10
     ∃ u, (s.hart.geo x).us.find? (hits x 5 true) = some u ∧ groupsBefore s.hart x 4 u = 0 ∧ groupsBefore s.hart x 5 u ≠ 0 ∧
       (partOf s x s.hart.v s.hart.m (groupsBefore s.hart x 5 u)).isSome = true) ∧
    -- an operation of the network, its entry older than the queue's
    (∀ p, let s := gathering p
      Quiet s ∧ s.hart.hst.prot = p ∧ s.hart.vq = [] ∧ ∃ o, (s.core.net ++ s.core.pipe).filter (fun o => o.hid = s.cur.hid) = [o] ∧
        o.ent.op = .vgather 4 8 12 0 ∧ ∃ u ∈ o.ent.named (max 1 s.hart.leff), hits o.ent 4 true u = true) ∧
    -- a load
    (∀ p, let s := loadGoing p
      Quiet s ∧ s.hart.hst.prot = true ∧ ∃ o, (s.core.net ++ s.core.pipe).filter (fun o => o.hid = s.cur.hid) = [o] ∧ o.passed = p ∧
        (∀ y ∈ s.hart.vq, o.ent.id < y.id) ∧ o.ent.op = .vld .unit 4 0 ∧
        (∃ u ∈ o.ent.named (max 1 s.hart.leff), hits o.ent 4 true u = true) ∧
        ∃ u, (s.hart.geo o.ent).us.find? (hits o.ent 4 true) = some u) := by
  refine ⟨fun p => by cases p <;> exact ⟨⟨rfl, rfl, rfl, rfl⟩, rfl, rfl, rfl, rfl⟩,
    ⟨by decide, by decide +kernel, ⟨_, rfl⟩, by decide +kernel⟩, ⟨_, rfl, by decide +kernel, by decide +kernel, by decide +kernel⟩, ?_, ?_⟩
  · intro p
    cases p <;> exact ⟨⟨rfl, rfl, rfl, rfl⟩, rfl, rfl, _, rfl, rfl, by decide +kernel⟩
  · intro p
    cases p <;> exact ⟨⟨rfl, rfl, rfl, rfl⟩, rfl, _, rfl, rfl, by decide +kernel, rfl, by decide +kernel, _, rfl⟩

theorem hyp_ReplaysFencesAndSoundings :
    user.pkg.mem.wf = true ∧ 31 < 32 ∧ 39 < 40 ∧ (user.hart.lane0 ≤ 31 ∧ 31 < user.hart.lane0 + user.hart.lanes) ∧
    ¬(helm.hart.lane0 ≤ 0 ∧ 0 < helm.hart.lane0 + helm.hart.lanes) ∧ user.core.spare = none ∧ user.core.sparePend = none ∧
    ((spared (protectedHart user)).core.spare ≠ none ∧ (spared (protectedHart user)).hart.hst.prot = true ∧ Empty (spared (protectedHart user))) ∧
    ((spared user).core.spare ≠ none ∧ (spared user).hart.hst.prot = false ∧ Empty (spared user) ∧ (spared user).hart.lanes ≤ 32) ∧
    (¬(user.hart.ctx = none ∧ user.hart.hst.mode = false) ∧ user.hart.stopped = false) ∧
    (∀ c < 5, user.pkg.mem.wf = true ∧ c < 5) := by
  have e : ∀ s : State, s.hart.infl = [] → s.hart.merges = [] → s.hart.vq = [] → s.core.pipe = [] → s.core.net = [] →
      s.hart.queueFrozen = false → s.hart.stores = [] → s.hart.loads = [] → Empty s := fun s h1 h2 h3 h4 h5 h6 h7 h8 =>
    ⟨⟨h1, h2, h7, h8⟩, h3, ⟨(by rw [h4]; intro o h; cases h), (by rw [h5]; intro o h; cases h)⟩, h6⟩
  exact ⟨rfl, by decide, by decide, by decide +kernel, by decide +kernel, rfl, rfl,
    ⟨by decide, rfl, e _ rfl rfl rfl rfl rfl (by decide +kernel) rfl rfl⟩, ⟨by decide, rfl, e _ rfl rfl rfl rfl rfl (by decide +kernel) rfl rfl, by decide +kernel⟩,
    by decide +kernel, fun _ h => ⟨rfl, h⟩⟩

def sounding (interval cycles : Nat) (draining : Option Nat) : State :=
  { State.reset with die := { Die.reset with sndInterval := interval, sndAt := interval, cycles := cycles, draining := draining, sndNext := 0 } }

theorem hyp_ReplaysFencesAndSoundings_sounding :
    user.pkg.mem.wf = true ∧ user.cur.core < 5 ∧ user.cur.hid < 8 ∧ (200 ≤ 200 ∨ 2 ≤ 0) ∧ (199 < 200 ∧ 1 < 2) ∧
    (∀ q, let d := (sounding 100 100 q).die; d.sndInterval ≠ 0 ∧ d.sndAt ≤ d.cycles ∧ d.draining = q) ∧
    (¬(sounding 100 99 none).die.sndAt ≤ (sounding 100 99 none).die.cycles ∧ ¬(sounding 0 99 none).die.sndInterval ≠ 0) ∧
    (let s := { alter sup (fun h => { h with hst := { h.hst with mode := false } }) with die := (sounding 1 1 none).die }
     (s.getHart ⟨s.cur.die, s.die.sndNext, 0, 0⟩).ctx ≠ none ∧ (s.getHart ⟨s.cur.die, s.die.sndNext, 0, 0⟩).hst.prio.val ≤ 6) ∧
    (user.hart.ctx ≠ none ∧ user.hart.hst.prio.val ≤ 6) ∧
    (∀ n, (sounding 1 n (some 0)).die.draining = some 0) ∧
    ((sounding 1 5 (some 0)).die.cycles < (sounding 1 5 (some 0)).die.drainStart + 2 ^ 24) ∧
    ((sounding 1 (2 ^ 24) (some 0)).die.drainStart + 2 ^ 24 ≤ (sounding 1 (2 ^ 24) (some 0)).die.cycles) ∧
    (sounding 1 5 (some 0)).quadDrained 0 0 = true ∧ user.quadDrained 0 0 = false ∧
    ({ user with die := (sounding 1 (2 ^ 24) (some 0)).die }).quadDrained 0 0 = false ∧ (128 ≤ 128 ∧ 127 < 128) := by
  refine ⟨rfl, by decide, by decide, by decide, by decide, fun q => ⟨(by decide : 100 ≠ 0), Nat.le_refl _, rfl⟩, by decide, ⟨by decide +kernel, by decide +kernel⟩,
    by decide, fun _ => rfl, by decide +kernel, by decide +kernel, by decide +kernel, by decide +kernel, by decide +kernel, by decide⟩

/-! ### Links and lends -/

theorem hyp_LinksAndResets : user.pkg.mem.wf = true ∧ user.pkg.colls = [] ∧
    -- a member whose neighbour's link is the one lost, or was lost before
    (∀ lost, let s := withLinks (inColl false 5) lost
      s.pkg.colls = [collOf false] ∧ (collOf false).hart = s.cur ∧ (collOf false).form = false ∧ s.hart.pendingReg 1 = false ∧
        s.hart.hold = .coll 1 0 100 ∧ successor 3 s.pkg.id = 1 ∧ s.pkg.portTo 1 < s.pkg.links.length ∧ s.pkg.hopLost 1 = lost) ∧ user.hart.stores = [] ∧ user.harts = [] ∧ (∀ b ∈ user.pkg.barriers, b.lvl = .pod → 3 ∉ b.far) ∧
    -- a flit that failed sixteen times before may fail once more
    (∃ k, ({ user.pkg with links := List.replicate 12 ⟨true, false, 0, 0, 16, 15⟩ }).links[9]? = some k ∧ 16 ≤ k.flits ∧ ¬k.chunks < 15) ∧
    (∃ c ∈ [(⟨scope0, 0, 0, 0, 0, 0, false⟩ : ScopeCnt)], c.handle.toNat / 2 ^ 46 % 4 = user.cur.die) := by
  refine ⟨rfl, rfl, fun lost => ⟨rfl, rfl, rfl, rfl, rfl, by cases lost <;> decide +kernel, ?_, withLinks_hopLost _ _ _⟩, rfl, rfl, by decide,
    ⟨_, rfl, by decide, by decide⟩, by decide +kernel⟩
  exact Nat.lt_of_lt_of_le (Nat.mod_lt _ (by decide)) (by decide : 8 ≤ 12)

/-- Die 0 with records, die 1 asking it, lends under way. -/
def lending (queues : List QRec) (thief : Option (Nat × BitVec 64)) (lends : List Lent) : State :=
  { user with
    die := { Die.reset with queues := queues }
    dies := [(1, { Die.reset with stealing := thief, queues := [] })]
    pkg := { user.pkg with lends := lends } }

def manyRec (prio : Nat) : QRec := { queuedRec prio 5 with last := 4 }

/-- An idle die beside a busy one. -/
def idleDie : State := { State.reset with dies := [(1, { Die.reset with queues := [manyRec 3] })] }

def lentTo (v t : Nat) (acked : Bool) : Lent := ⟨{ manyRec 3 with next := 2, borrowed := true }, v, t, acked⟩

theorem hyp_DiesLendRecords :
    (idleDie.die.stealing = none ∧ idleDie.die.gated = false ∧ idleDie.nextRec 0 = none ∧
      (∃ c ∈ dieCores 0, idleDie.coreFree c = true) ∧ idleDie.busiest = some 1) ∧
    user.busiest ≠ some 1 ∧
    -- a lend
    (∀ mask, ((lending [] none []).getDie 1).stealing ≠ some (0, mask)) ∧
    (∀ mask, ((lending [] (some (0, mask)) []).getDie 1).stealing = some (0, mask)) ∧ 1 ≠ user.cur.die ∧
    (let s := lending [manyRec 3] (some (0, 0xFF)) []
     (s.pkg.cutOff 0 1 = false ∧ s.pkg.cutOff 1 0 = false) ∧ (∀ r ∈ s.die.queues, r.lent = none ∧ r.prio < 8) ∧
       ∃ r ∈ s.die.queues, recUse r.words &&& ~~~(0xFF : Word) = 0 ∧ recPin r.words = false ∧ 2 ≤ r.left) ∧
    (let s := lending [{ manyRec 3 with lent := some (2, 4, 1) }] (some (0, 0xFF)) []
     ∃ r ∈ s.die.queues, r.lent ≠ none) ∧
    (∀ r ∈ (lending [queuedRec 3 5] (some (0, 0xFF)) []).die.queues, r.prio < 8 → ¬2 ≤ r.left) ∧
    -- a copy under way
    (∀ v t a, (lending [] none [lentTo v t a]).pkg.lends = [lentTo v t a]) ∧
    ((lentTo 1 0 false).thief = user.cur.die ∧ (lentTo 1 0 false).acked = false ∧ (lentTo 0 1 true).victim = user.cur.die ∧
      (lentTo 0 1 true).acked = true) ∧
    ((inScope 1 1 0).pkg.scopeState (recScope (lentTo 1 0 false).copy.words) = some .live ∧
      user.pkg.scopeState (recScope (lentTo 1 0 false).copy.words) ≠ some .live ∧ ((inScope 1 1 0).die.queue 3).length < 512) ∧
    ((List.replicate 512 (queuedRec 3 5)).length = 512) ∧
    ({ user.pkg with boundariesLost := [0, 3] }).cutOff 0 1 = true ∧ user.pkg.cutOff 0 1 = false ∧
    -- gating
    (∃ r ∈ ((lending [{ manyRec 3 with lent := some (2, 4, 1) }] none []).getDie 0).queues, r.lent ≠ none) ∧
    (∀ r ∈ (user.getDie 2).queues, r.lent = none) ∧ user.pkg.lends = [] := by
  refine ⟨⟨rfl, rfl, by decide +kernel, by decide +kernel, by decide +kernel⟩, by decide +kernel, fun _ h => (nomatch (show (none : Option (Nat × BitVec 64)) = some _ from h)),
    fun _ => rfl, by decide, ⟨⟨by decide +kernel, by decide +kernel⟩, by decide, by decide +kernel⟩, by decide +kernel, by decide +kernel, fun _ _ _ => rfl, by decide, ⟨by decide +kernel, by decide +kernel, by decide +kernel⟩,
    by decide +kernel, by decide +kernel, by decide +kernel, by decide +kernel, by decide +kernel, rfl⟩

/-! ### The host -/

/-- A start in a scope that is in the given state. -/
def starts (st : Nat) (live : Word) (t : Start) : State :=
  let s := inScope st live 1
  { s with pkg := { s.pkg with vexud := { s.pkg.vexud with starts := [t] } } }

def started (replay : Bool) (traps : Nat) : Start := ⟨0, scope0, if replay then none else some 0, replay, 0, 0, traps, 0, false⟩

def phased (p : Phase) : State := { State.reset with pkg := { Pkg.reset with vexud := { Vexud.reset with phase := p } } }

/-- The part at its nominal clock with a listing whose code lies from address 0 on, and a run made. -/
def served' : State :=
  let v : Vexud := { Vexud.reset with phase := .nominal, listings := [⟨0, 0, 0x1000, []⟩], runs := [0x1000000000003] }
  { State.reset with pkg := { Pkg.reset with vexud := v } }


theorem subtree_starts (st : Nat) (live : Word) (t : Start) : (starts st live t).pkg.subtree scope0 = [scope0] := rfl

theorem hyp_HostRequests :
    (phased .nominal).pkg.mem.wf = true ∧ (phased .nominal).pkg.vexud.phase = .nominal ∧ (phased .training).pkg.vexud.phase ≠ .nominal ∧
    served'.pkg.vexud.phase = .nominal ∧ served'.pkg.vexud.listings = [] ++ [⟨0, 0, 0x1000, []⟩] ∧
    served'.pkg.vexud.runs[0]? = some 0x1000000000003 ∧ ¬served'.pkg.vexud.runs.length ≤ 0 ∧ (0x5FFF8 : Word).toNat + 8 ≤ 0x60000 ∧
    -- images: a code image, one that does not fit, a Chart image
    ((true = true ∧ (0x5000 : Word).toNat % 4096 = 0x10000001000 % 4096 ∧ (0x5000 : Word).toNat + 2 < 2 ^ 48) ∧
      0x10000000000 ≤ 0x10000001000 ∧ 0x10000001000 + 1 < 0x10400000000 ∧ 0x10000001000 / 2 ^ 32 % 4 = State.reset.cur.die ∧
        0x10000001001 / 2 ^ 32 % 4 = State.reset.cur.die) ∧
    (0x20000000000 ≤ 0x20000001000 ∧ 0x20000001000 + 2 < 0x20001000000 ∧ 0x20000001000 / 2 ^ 22 % 4 = State.reset.cur.die ∧
      0x20000001000 % 2 ^ 22 + 2 ≤ 0x37E000) ∧
    (State.reset.die.range 0).attr.getLsbD 0 = false ∧
    -- entry 1 of context 0 makes way for an image at 0x40000000 that lies elsewhere, entry 0 stays
    (let s := mapped State.reset
     let goes (x : Range) : Prop := x.attr.getLsbD 0 = true ∧ x.attr.toNat / 2 ^ 56 = 0 ∧
       x.off.toNat ≠ (0x10000001000 + (2 ^ 48 - 0x40000000)) % 2 ^ 48 ∧ x.base.toNat < 0x40001000 ∧ 0x40000000 < x.limit.toNat
     goes (s.die.range 1) ∧ (s.die.range 0).attr.getLsbD 0 = true ∧ ¬goes (s.die.range 0)) ∧
    (0x60000 < (0x5FFFF : Word).toNat + 2 ∧ (0x5FFFE : Word).toNat + 2 ≤ 0x60000) ∧
    -- runs
    (let rs : List (List Byte) := [[1, 2], [3, 4]]
     1 ≤ 6 ∧ (0x1000 : Word).toNat % 64 = 0 ∧ rs ≠ [] ∧ (∀ b ∈ rs, b.length = 2 ^ 1) ∧ 0 < 8192 ∧
       ((mapped State.reset).pkg.mem.read (descAddr 0 0 + 5)).toNat / 16 = 0 ∧
       ∃ tr u, (mapped State.reset).writeStream ⟨0, 0, 0, false⟩ ⟨1, .alloc, 1, 0, Writer.none, 0, 0x1000, 2, 0, (0, 0)⟩ none 0 rs.flatten = .ok (tr, u)) ∧
    State.reset.run 0 = none ∧
    ((mapped (withRun State.reset 3 sealed)).run (handleOf 3 sealed) = some sealed ∧
      ∃ tr bs, (mapped (withRun State.reset 3 sealed)).readStream ⟨0, 0, 0, false⟩ sealed none 0 (16 * 2 ^ 2) = .ok (tr, bs)) ∧
    (withRun State.reset 3 (runIn .opened 0)).run (handleOf 3 (runIn .opened 0)) = some (runIn .opened 0) ∧
    -- starts
    (0 < 4096 ∧ (State.reset.pkg.mem.word (0x20000380000 + 0 * 0x400000 + 0 * 64)).toNat / 2 ^ 44 % 16 = 0) ∧
    (∀ i, ¬(i < 4096 ∧ (fullScopesState.pkg.mem.word (0x20000380000 + 0 * 0x400000 + i * 64)).toNat / 2 ^ 44 % 16 = 0)) ∧
    (record.length = 16 ∧ recOk (record.set 5 scope0) none = true ∧ (State.reset.die.queue (recPrio record)).length < 512) ∧
    (let r := record.set 5 scope0
     ∃ l, served'.pkg.vexud.listings[0]? = some l ∧ l.die = served'.cur.die ∧ l.lo ≤ (r.getD 0 0).toNat % 2 ^ 48 ∧
       (r.getD 0 0).toNat % 2 ^ 48 < l.hi) ∧
    (∀ t ∈ served'.pkg.vexud.starts, t.listing ≠ some 0) ∧
    (∃ t ∈ (starts 1 1 (started false 0)).pkg.vexud.starts, t.listing = some 0 ∧ t.reported = false) ∧
    State.reset.pkg.vexud.starts[0]? = none ∧
    (∀ st live t, (starts st live t).pkg.vexud.starts[0]? = some t) ∧
    -- the end of a start whose tasks trapped, of a replay, of a listing
    ((started false 1).traps ≠ 0 ∧ (starts 3 0 (started false 1)).pkg.scopeState scope0 = some .cancelled) ∧
    ((started true 0).replay = true ∧ ∀ r ∈ (starts 1 0 (started true 0)).pkg.replays, r.owner ≠ none ∨ r.scope ≠ scope0) ∧
    ((started false 0).traps = 0 ∧ (started false 0).replay = false ∧
      (let s := alter (starts 1 0 (started false 0)) fun h => { h with ctx := none }
       ∀ h ∈ s.pkg.subtree scope0, s.pkg.scopeState h ≠ some .cancelling ∧ ¬TaskIn s h)) ∧
    (∃ h ∈ (starts 1 1 (started false 0)).pkg.subtree scope0, TaskIn (starts 1 1 (started false 0)) h) := by
  refine ⟨rfl, rfl, by decide, rfl, rfl, rfl, by decide, by decide, by decide, by decide, by decide +kernel, by decide +kernel, by decide, ⟨by decide, by decide, by decide, by decide, by decide, by decide +kernel,
    _, _, rfl⟩, by decide +kernel, ⟨by decide +kernel, _, _, rfl⟩, by decide +kernel, by decide +kernel, ?_, by decide +kernel, ⟨_, rfl, rfl, by decide, by decide⟩, by decide, ⟨_, List.mem_singleton.2 rfl, rfl, rfl⟩, rfl,
    fun _ _ _ => rfl, ⟨by decide, by decide +kernel⟩, ⟨rfl, by decide +kernel⟩, ⟨rfl, rfl, ?_⟩, scope0, List.mem_singleton.2 rfl,
    .inl ⟨_, List.mem_cons_self .., _, rfl, rfl⟩⟩
  · rintro i ⟨hi, h⟩
    exact fullScopes_none i hi h
  · refine List.forall_mem_singleton.2 ⟨by decide +kernel, ?_⟩
    have h : (let s := alter (starts 1 0 (started false 0)) fun h => { h with ctx := none }
        decide (∀ p ∈ s.allHarts, p.2.ctx = none) && decide (∀ d ∈ s.dieIds, (s.getDie d).saved = [] ∧ (s.getDie d).queues ++ (s.getDie d).ring = []) &&
        decide (∀ c ∈ s.coreIds, (s.getCore c).shadow = []) && decide (s.pkg.lends = [])) = true := by decide +kernel
    simp only [Bool.and_eq_true, decide_eq_true_eq] at h
    obtain ⟨⟨⟨h1, h2⟩, h3⟩, h4⟩ := h
    rintro (⟨p, hp, c, hc, -⟩ | ⟨d, hd, ⟨v, hv, -⟩ | ⟨r, hr, -⟩⟩ | ⟨c, hc, x, hx, -⟩ | ⟨l, hl, -⟩)
    · rw [h1 p hp] at hc; cases hc
    · rw [(h2 d hd).1] at hv; cases hv
    · rw [(h2 d hd).2] at hr; cases hr
    · rw [h3 c hc] at hx; cases hx
    · rw [h4] at hl; cases hl

/-- A port read that waits for records. -/
def blockedRead (r : RunD) : State :=
  { withPort (withRun user 3 r) 0 { port (handleOf 3 r) 0 with pos := 64 } with
    core := { Core.reset with pipe := [{ served (entry (.vpt .rd 4 0 0 0) [] (some 3) 4 2) with left := 1, blocked := true }] } }

theorem hyp_StartsAndLimits :
    State.reset.cur.die < 4 ∧ State.reset.pkg.mem.wf = true ∧ (∀ p, (phased p).pkg.vexud.phase = p ∧ (phased p).pkg.mem.wf = true) ∧
    (let v : Vexud := { Vexud.reset with phase := .verifying, verified := true }; v.phase = .verifying ∧ v.verified = true ∧ v.failed = false) ∧
    (let l := user.hart.pc.toNat / 64; l ∉ ([] : List Nat) ∧ (l ∈ [l] ∧ l + 1 ∉ [l]) ∧ l ∈ [l + 1, l] ∧ l + 1 ∈ [l + 1, l]) ∧
    ({ State.reset with pkg := { Pkg.reset with vexud := { Vexud.reset with stopped := true } } }).pkg.vexud.stopped = true ∧
    (∀ r ∈ [runIn .opened 1, runIn .sealed 1], ∃ o, (blockedRead r).core.oldest .pipe 0 = some o ∧ o.ent.op = .vpt .rd 4 0 0 0 ∧
      o.blocked = true ∧ o.ent.dones = [] ∧ (blockedRead r).hart.vholds = []) ∧
    (blockedRead (runIn .opened 1)).run (handleOf 3 (runIn .opened 1)) = some (runIn .opened 1) ∧
    (blockedRead (runIn .sealed 1)).run (handleOf 3 (runIn .sealed 1)) = some (runIn .sealed 1) ∧
    (List.range 4).find? (activeIn (blockedRead (runIn .opened 1)) (entry (.vpt .rd 4 0 0 0) [] (some 3) 4 2)) = some 0 ∧
    ((runIn .opened 1).mark.toNat * 2 ^ (runIn .opened 1).wlog <
      (blockedRead (runIn .opened 1)).hart.ports[(0 : Port)].elemByte (2 ^ (runIn .opened 1).wlog) + sewOf 2 / 8) := by
  refine ⟨by decide, rfl, fun _ => ⟨rfl, rfl⟩, by decide, by simp, rfl, fun r _ => ⟨_, rfl, rfl, rfl, rfl, rfl⟩, by decide +kernel, by decide +kernel, by decide +kernel,
    by decide +kernel⟩

/-! ### Steps -/

/-- The machine about to run a word. -/
noncomputable def aboutToRun (w : Nat) : State := State.reset.withFetchWord 32 w

theorem word_of {x : Except Nat (BitVec 32)} {w : BitVec 32} (h : (match x with | .ok y => decide (y = w) | _ => false) = true) : x = .ok w := by
  cases x with
  | error e => cases h
  | ok y => exact congrArg _ (of_decide_eq_true h)

theorem hyp_StepRunsTheDecodedWord :
    (aboutToRun 0x2C000000).pkg.vexud.stopped = false ∧ (aboutToRun 0x2C000000).agenda = .front ⟨0, 0, 0, 0⟩ :: [] ∧
    AtFront (State.focus { aboutToRun 0x2C000000 with agenda := [] } ⟨0, 0, 0, 0⟩) 0x2C000000 ∧
    AtFront (State.focus { aboutToRun 0 with agenda := [] } ⟨0, 0, 0, 0⟩) 0 ∧
    (let s := { user with agenda := [.event ⟨0, 0, 0, 0⟩ .plotterCycle] }
     s.pkg.vexud.stopped = false ∧ s.agenda = .event ⟨0, 0, 0, 0⟩ .plotterCycle :: [] ∧ Instr.plotterCycle.isEvent = true) ∧
    (let s := aboutToRun 0x2C000000
     s.agenda = [.front ⟨0, 0, 0, 0⟩] ∧ s.hart.pc.toNat % 4 = 0 ∧
       ∃ t pa, accessRun 0 s.die.ranges s.pkg s.hart.xlat.1 s.hart.xlat.2 true .exec none s.hart.pc = .ok (t, pa) ∧
         t.keysFor s.pkg pa = none ∧ t.keysFor s.pkg (pa + 1) = none ∧ t.keysFor s.pkg (pa + 2) = none ∧ t.keysFor s.pkg (pa + 3) = none) := by
  refine ⟨rfl, rfl, ⟨⟨by decide +kernel, rfl⟩, rfl, by decide +kernel, by decide +kernel, rfl, by decide +kernel, by decide +kernel,
    by decide +kernel, Or.inr (Or.inl rfl), word_of (by decide +kernel)⟩, ⟨⟨by decide +kernel, rfl⟩, rfl, by decide +kernel, by decide +kernel, rfl,
    by decide +kernel, by decide +kernel, by decide +kernel, Or.inr (Or.inl rfl), word_of (by decide +kernel)⟩, ⟨rfl, rfl, rfl⟩,
    rfl, by decide +kernel, _, _, rfl, rfl, rfl, rfl, rfl⟩

theorem hyp_EncodedWordsDecode : (Instr.slli .w 3 4 31).wellFormed = true ∧ (Instr.vadd 4 4 (.imm 31) 0).wellFormed = true := by decide

theorem hyp_MemoryStaysCanonical : (aboutToRun 0x2C000000).pkg.mem.wf = true ∧ ∃ t, step (aboutToRun 0x2C000000) = .next t := by
  refine ⟨by decide +kernel, ?_⟩
  have h : (match step (aboutToRun 0x2C000000) with | .next _ => true | _ => false) = true := by decide +kernel
  cases e : step (aboutToRun 0x2C000000) with
  | next t => exact ⟨t, rfl⟩
  | fault f => rw [e] at h; cases h
  | refused r => rw [e] at h; cases h

/-! ### Ill-formed terms are refused -/

theorem test_wf_shift_amount : (Instr.slli .w 3 4 32).wellFormed = false ∧ (Instr.srli .b 3 4 8).wellFormed = false ∧
    (Instr.srai .h 3 4 16).wellFormed = false ∧ (Instr.rori .w 3 4 63).wellFormed = false ∧ (Instr.rori .d 3 4 63).wellFormed = true := by
  decide
theorem test_wf_signed_double : (Instr.ldcs .d 3 4 0).wellFormed = false := by decide
theorem test_wf_control_register : (Instr.crw 3 .vl 4).wellFormed = false ∧ (Instr.crset 3 .vcfg 4).wellFormed = false ∧
    (Instr.crclr 3 .vcap 4).wellFormed = false := by decide
theorem test_wf_immediate_form : (Instr.vmul 4 8 (.imm 3) 0).wellFormed = false ∧ (Instr.vfadd 4 8 (.imm 3) 0).wellFormed = false ∧
    (Instr.vmfeq 2 8 (.imm 3) 0).wellFormed = false ∧ (Instr.vadd 4 8 (.imm 3) 0).wellFormed = true := by decide
theorem test_wf_matrix : (Instr.msetl 3 3 4).wellFormed = false ∧ (Instr.mma 0 3 4 0).wellFormed = false ∧
    (Instr.mmaz 0 2 0 0).wellFormed = false := by decide
theorem test_wf_event : Instr.plotterCycle.wellFormed = false ∧ encode .plotterCycle = none := by decide

/-- Reserved words (R32 to R42): an unused MAJ, a reserved condition, `scall` with a nonzero D, an unused function of SYS. -/
theorem test_decode_reserved : [(0xFC000000 : BitVec 32), 0x13000000, 0xE0200000, 0xE0000005].map decode =
    [none, none, none, none] := by decide +kernel

/-! ### One step -/

/-- The state after an instruction, and after some slots more. -/
def after (i : Instr) (s : State) (n : Nat) : State :=
  match exec i s with
  | .next t => ticks n t
  | _ => s

/-- R70: a 32-bit sum wraps and is sign-extended. -/
theorem test_add_wraps : (after (.add .w 1 2 3) (withRegs user [(2, 0x7FFFFFFF), (3, 1)]) 0).hart.reg 1 = 0xFFFFFFFF80000000 := by
  decide +kernel

/-- R72: only the low bits of the amount count, and the sign of the operand size fills. -/
theorem test_sra_byte : (after (.sra .b 1 2 3) (withRegs user [(2, 0x80), (3, 9)]) 0).hart.reg 1 = 0xFFFFFFFFFFFFFFC0 := by
  decide +kernel

/-- R3: s0 takes no write. -/
theorem test_zero_register : (after (.addi 0 2 5) user 4).hart.reg 0 = 0 := by decide +kernel

/-- R19, R73: the product is readable three slots after its issue, not before. -/
theorem test_mul_latency :
    let s := withRegs user [(1, 7), (2, 0xFFFFFFFFFFFFFFFF), (3, 0xFFFFFFFFFFFFFFFF)]
    (after (.mulhu .d 1 2 3) s 1).hart.reg 1 = 7 ∧ (after (.mulhu .d 1 2 3) s 2).hart.reg 1 = 0xFFFFFFFFFFFFFFFE := by
  decide +kernel

/-- R76, R77: a taken branch lands at its own address plus four times the offset, two slots later. -/
theorem test_branch_taken :
    let s := withRegs (alter user fun h => { h with pc := 0x1000 }) [(2, 0xFFFFFFFFFFFFFFFF), (3, 1)]
    (after (.blt 2 3 0x1FFF) s 0).hart.pc = 0xFFC ∧ (after (.blt 2 3 0x1FFF) s 0).hart.slot = 3 ∧
      (after (.bltu 2 3 0x1FFF) s 0).hart.pc = 0x1004 := by decide +kernel

/-- R82, R83: the least 32-bit number divided by −1, from the divider. -/
theorem test_divw_overflow :
    let s := after (.divw 1 2 3 4) (withRegs user [(2, 0x80000000), (3, 0xFFFFFFFF)]) 0
    (after .dividerCompletion s 0).hart.reg 1 = 0xFFFFFFFF80000000 ∧
      (after .dividerCompletion s 0).hart.token false 4 = ⟨1, 0⟩ ∧ s.hart.token false 4 = ⟨0, 1⟩ := by decide +kernel

/-- R27: a read of a register with a posting result to come traps RACE in checked mode. -/
theorem test_race :
    let s := after (.div 1 2 3 4) user 0
    (after (.add .d 5 1 1) s 0).hart.hst.mode = true ∧ (after (.add .d 5 1 1) s 0).hart.trcause.toNat % 256 = 0x0A := by decide +kernel

/-- R87: 2^31 as a signed 64-bit integer, and NaN to the largest. R55: 1 + 2^−24 is 1, inexact. -/
theorem test_fp_values : (f32ToInt .rne 64 true 0x4F000000).1 = 0x80000000 ∧ fAdd .f32 .rne 0x3F800000 0x33800000 = (0x3F800000, fNX) := by
  decide +kernel

/-- R80, R4: bytes lie lowest first, and a signed load extends the sign. -/
theorem test_chart_bytes :
    let s := after .fixedLatencyWriteback (after (.stc .w 3 2 0) (withRegs user [(2, 0x100), (3, 0x11228344)]) 4) 0
    s.core.chart.read 0x100 = 0x44 ∧ (after (.ldcs .b 5 2 1) s 3).hart.reg 5 = 0xFFFFFFFFFFFFFF83 ∧
      (after (.ldc .h 5 2 2) s 3).hart.reg 5 = 0x1122 := by decide +kernel

/-- R98 to R100: 32 lanes of 256 bits hold 256 elements of 32 bits. -/
theorem test_vlmax :
    let s := withRegs (vec 2 0) [(2, 300)]
    (after (.vsetvl 1 2) s 0).hart.vl = 256 ∧ (after (.vsetvl 1 2) s 0).hart.reg 1 = 256 := by decide +kernel

/-- R42, R289: a vector word of an undeclared class traps, and the queue takes nothing. -/
theorem test_undeclared :
    (after (.vadd 4 8 (.imm 1) 0) bare 0).hart.trcause.toNat % 256 = causeCode .undeclared ∧
      (after (.vadd 4 8 (.imm 1) 0) bare 0).hart.vq = [] := by decide +kernel

/-- R118, R123: the immediate of `vadd` is sign-extended: 5 − 1 in element 1, the elements past VL stay. -/
theorem test_vadd_immediate :
    let s := alter (vec 2 2) fun h => { h with v := (h.v.set 8 (vput h.v 32 32 8 1 5)[8]).set 4 (BitVec.ofNat 8192 (7 * 2 ^ 512)) }
    let t := after .vectorEntryStart (after (.vadd 4 8 (.imm 31) 0) s 0) 0
    element t.hart 32 4 1 = 4 ∧ element t.hart 32 4 2 = 7 ∧ element t.hart 32 4 0 = 0xFFFFFFFF := by decide +kernel

/-- R306, R284, R285: `scall` saves its own address, sets supervisor mode and goes to the vector. -/
theorem test_scall :
    let s := alter user fun h => { h with pc := 0x1000, svec := 0x2000 }
    let t := after .scall s 0
    t.hart.pc = 0x2000 ∧ t.hart.hst.mode = true ∧ t.hart.trpc = 0x1000 ∧ t.hart.trcause.toNat % 256 = 0x14 := by decide +kernel

/-- R293: a return goes to the address in its register, in user mode. -/
theorem test_sret :
    let s := alter sup fun h => { h with s := h.s.set 2 0x3000 }
    (after (.sret 2) s 0).hart.pc = 0x3000 ∧ (after (.sret 2) s 0).hart.hst.mode = false := by decide +kernel

/-- R174: sealing an ALLOC run succeeds, sealing it again is INVAL; a stale handle traps RUNFAULT. -/
theorem test_rseal :
    let s := holding (runIn .alloc 0)
    (after (.rseal 1 2) s 0).hart.reg 1 = 0 ∧ (after (.rseal 1 2) (after (.rseal 1 2) s 0) 0).hart.reg 1 = 2 ∧
      (after (.rseal 1 3) s 0).hart.trcause.toNat % 256 = causeCode .runfault := by decide +kernel

/-- R192: a compare-and-swap whose comparand differs leaves the word and delivers it. -/
theorem test_acas :
    let s := poke (withRegs atBeacon [(1, 6), (3, 9)]) 0x20000000040 5
    let t := after (.atomicCompletion 0) (after (.atomicCompletion 0) (after (.acas 1 2 3 0 4) s 0) 0) 0
    t.hart.reg 1 = 5 ∧ t.pkg.mem.word 0x20000000040 = 5 := by decide +kernel

/-- R92: a write of FCR shows in the second slot after its issue. -/
theorem test_crw :
    let s := withRegs user [(2, 3)]
    (after (.crw 1 .fcr 2) s 0).hart.fcr = .rne ∧ (after (.crw 1 .fcr 2) s 1).hart.fcr = .rup := by decide +kernel

/-- R251: BF16 with BFP4 is no pair of the array. -/
theorem test_mcfg_combo : (after (.mcfg 1 2 3) (helmRegs [(2, 8), (3, 0x14)]) 0).hart.trcause.toNat % 256 = causeCode .combo := by
  decide +kernel

/-- R268: a cancel of a live scope makes it CANCELLING. -/
theorem test_scancel : (after (.scancel 1 2) (naming 1 1 0) 0).pkg.scopeState scope0 = some .cancelling := by decide +kernel

/-- R340: a start from cold goes through its phases. -/
theorem test_cold_start : (after .coldStart State.reset 0).pkg.vexud.phase = .verifying := by decide +kernel

end Sys2Proof.Tests
end

section
/-! Proofs about 03_number_formats.md: `min` and `max` (R60). -/
namespace Sys2Proof.Machine

/-! ### The order of values with −0 just below +0 -/

/-- The place of an encoding in the order of R60: the nonnegative encodings in their own order, below them those with the
sign bit set, in the reverse order. -/
def orderPlace (f : FFmt) (n : Nat) : Int :=
  if n < 2 ^ (8 + f.frac) then n else -(n - 2 ^ (8 + f.frac) : Nat) - 1

section
variable {f : FFmt} {n x y : Nat}

theorem fSign_of_lt (h : n < 2 ^ (8 + f.frac)) : fSign f n = false := by
  simp [fSign, Nat.div_eq_of_lt h]

theorem eq_signBit_add_of_ge (hs : 2 ^ (8 + f.frac) ≤ n) (hn : n < 2 ^ (9 + f.frac)) :
    ∃ m < 2 ^ (8 + f.frac), n = 2 ^ (8 + f.frac) + m := by
  have htwice : 2 ^ (9 + f.frac) = 2 * 2 ^ (8 + f.frac) := by ring
  exact ⟨n - 2 ^ (8 + f.frac), by omega, by omega⟩

theorem fSign_signBit_add (h : n < 2 ^ (8 + f.frac)) : fSign f (2 ^ (8 + f.frac) + n) = true := by
  simp [fSign, Nat.add_div_left, Nat.div_eq_of_lt h]

theorem fKeyZ_of_lt (h : n < 2 ^ (8 + f.frac)) : fKeyZ f n = 2 * n := by
  simp [fKeyZ, fKey, fSign_of_lt h, Nat.mod_eq_of_lt h]

theorem fKeyZ_signBit_add (h : n < 2 ^ (8 + f.frac)) : fKeyZ f (2 ^ (8 + f.frac) + n) = -(2 * n) - 1 := by
  simp [fKeyZ, fKey, fSign_signBit_add h, Nat.mod_eq_of_lt h]

theorem orderPlace_of_lt (h : n < 2 ^ (8 + f.frac)) : orderPlace f n = n := if_pos h

theorem orderPlace_signBit_add (f : FFmt) (n : Nat) : orderPlace f (2 ^ (8 + f.frac) + n) = -n - 1 := by
  simp [orderPlace]

/-- The model's key, which doubles the place and takes one off for the sign, is the place up to a strictly increasing map. -/
theorem fKeyZ_eq_of_orderPlace (hn : n < 2 ^ (9 + f.frac)) :
    fKeyZ f n = if 0 ≤ orderPlace f n then 2 * orderPlace f n else 2 * orderPlace f n + 1 := by
  rcases lt_or_ge n (2 ^ (8 + f.frac)) with hpos | hneg
  · rw [fKeyZ_of_lt hpos, orderPlace_of_lt hpos, if_pos (by omega)]
  · obtain ⟨m, hm, rfl⟩ := eq_signBit_add_of_ge hneg hn
    rw [fKeyZ_signBit_add hm, orderPlace_signBit_add, if_neg (by omega)]
    omega

theorem fKeyZ_le_iff_orderPlace_le (hx : x < 2 ^ (9 + f.frac)) (hy : y < 2 ^ (9 + f.frac)) :
    fKeyZ f x ≤ fKeyZ f y ↔ orderPlace f x ≤ orderPlace f y := by
  rw [fKeyZ_eq_of_orderPlace hx, fKeyZ_eq_of_orderPlace hy]
  split <;> split <;> omega

/-- No two encodings share a place: where both orders hold, the operands are the same encoding. -/
theorem orderPlace_injective (f : FFmt) : Function.Injective (orderPlace f) := by
  intro x y h
  unfold orderPlace at h
  split at h <;> split at h <;> omega

/-! ### What `fMinMax` does, case by case -/

theorem fMinMax_flags (f : FFmt) (wantMax : Bool) (x y : Nat) :
    (fMinMax f wantMax x y).2 = if isSNaN f x ∨ isSNaN f y then fNV else 0 := by
  cases hx : isNaN f x <;> cases hy : isNaN f y <;> simp [fMinMax, hx, hy]

theorem fMinMax_nan_left (wantMax : Bool) (hx : isNaN f x = true) (hy : isNaN f y = false) :
    (fMinMax f wantMax x y).1 = y := by
  simp [fMinMax, hx, hy]

theorem fMinMax_nan_right (wantMax : Bool) (hx : isNaN f x = false) (hy : isNaN f y = true) :
    (fMinMax f wantMax x y).1 = x := by
  simp [fMinMax, hx, hy]

theorem fMinMax_nan_both (wantMax : Bool) (hx : isNaN f x = true) (hy : isNaN f y = true) :
    (fMinMax f wantMax x y).1 = quiet f x := by
  simp [fMinMax, hx, hy]

theorem fMinMax_min_of_not_nan (hx : isNaN f x = false) (hy : isNaN f y = false) :
    (fMinMax f false x y).1 = if fKeyZ f x ≤ fKeyZ f y then x else y := by
  simp [fMinMax, hx, hy]

theorem fMinMax_max_of_not_nan (hx : isNaN f x = false) (hy : isNaN f y = false) :
    (fMinMax f true x y).1 = if fKeyZ f y ≤ fKeyZ f x then x else y := by
  simp [fMinMax, hx, hy]

/-- `min` is the operand that comes first. -/
theorem fMinMax_min_eq_first (hx : x < 2 ^ (9 + f.frac)) (hy : y < 2 ^ (9 + f.frac))
    (hnx : isNaN f x = false) (hny : isNaN f y = false) :
    (fMinMax f false x y).1 = if orderPlace f x ≤ orderPlace f y then x else y := by
  rw [fMinMax_min_of_not_nan hnx hny]
  simp only [fKeyZ_le_iff_orderPlace_le hx hy]

/-- `max` is the operand that comes later; at equal places the model takes the first operand and the statement the second,
which are the same encoding. -/
theorem fMinMax_max_eq_later (hx : x < 2 ^ (9 + f.frac)) (hy : y < 2 ^ (9 + f.frac))
    (hnx : isNaN f x = false) (hny : isNaN f y = false) :
    (fMinMax f true x y).1 = if orderPlace f x ≤ orderPlace f y then y else x := by
  rw [fMinMax_max_of_not_nan hnx hny]
  simp only [fKeyZ_le_iff_orderPlace_le hy hx]
  rcases lt_trichotomy (orderPlace f x) (orderPlace f y) with hlt | heq | hgt
  · rw [if_neg hlt.not_ge, if_pos hlt.le]
  · rw [orderPlace_injective f heq]
  · rw [if_pos hgt.le, if_neg hgt.not_ge]

end

/-- Settles O9: the flag and the NaN cases are read off `fMinMax`; without a NaN the model's key orders as the place does. -/
theorem minMaxZerosAndNaNs : Obligations.MinMaxZerosAndNaNs := by
  unfold Obligations.MinMaxZerosAndNaNs
  intro f x y hx hy place
  exact ⟨fun wantMax => fMinMax_flags f wantMax x y, fMinMax_nan_left, fMinMax_nan_right, fMinMax_nan_both,
    fun hnx hny => ⟨fMinMax_min_eq_first hx hy hnx hny, fMinMax_max_eq_later hx hy hnx hny⟩⟩

end Sys2Proof.Machine
end

section
/-! Proofs about 04_scalar_instructions.md: the immediate instructions, `lhi` and `adpc`, the branches and the jumps
(R74 to R78). -/
namespace Sys2Proof.Machine
open Sys2Proof.Claims

section
variable {s : State} {a b d : SReg}

/-! ### The shapes of these words, where they issue -/

/-- A register among those a word issues with reads as it stands. -/
theorem src_of_issues {k : Nat} {rs : List SReg} (h : Issues s k rs) (ha : a ∈ rs) : s.src a = s.hart.reg a :=
  src_free s a (h.free a ha)

/-- The shape of SIM: one source, one result, readable in the next slot. -/
theorem issueReg_unary (f : Word → Word) (h : Issues s 0 [a, d]) :
    issueReg (Need.bit 0) [a] d 1 (fun t => f (t.src a)) s = (withResult s d (f (s.hart.reg a)) 1).advance := by
  rw [issueReg_runs _ [a] d 1 _ s (wordCheck_bit s 0 h.declared) h.free, src_of_issues h (by simp)]

/-- The shape of SUI: a result that depends on no register. -/
theorem issueReg_nullary (f : State → Word) (h : Issues s 0 [d]) :
    issueReg (Need.bit 0) [] d 1 f s = (withResult s d (f s) 1).advance :=
  issueReg_runs _ [] d 1 f s (wordCheck_bit s 0 h.declared) h.free

/-- The shape of SBR: a comparison of two registers decides between the target and the next word. -/
theorem issueBranch_compare (off : BitVec 13) (p : Word → Word → Bool) (h : Issues s 0 [a, b]) :
    issueBranch [a, b] off (fun t => p (t.src a) (t.src b)) s =
      if p (s.hart.reg a) (s.hart.reg b) then s.jump (s.hart.pc + off.signExtend 64 * 4) else s.advance := by
  rw [issueBranch_runs [a, b] off _ s (wordCheck_bit s 0 h.declared) h.free, src_of_issues h (by simp),
    src_of_issues h (by simp)]

/-! ### SIM and SUI (R74, R75) -/

section
variable (imm : BitVec 14) (h : Issues s 0 [a, d])
include h

theorem exec_addi :
    exec (.addi d a imm) s = .next (withResult s d (s.hart.reg a + imm.signExtend 64) 1).advance :=
  congrArg Host.Outcome.next (issueReg_unary (· + imm.signExtend 64) h)

theorem exec_andi :
    exec (.andi d a imm) s = .next (withResult s d (s.hart.reg a &&& imm.signExtend 64) 1).advance :=
  congrArg Host.Outcome.next (issueReg_unary (· &&& imm.signExtend 64) h)

theorem exec_ori :
    exec (.ori d a imm) s = .next (withResult s d (s.hart.reg a ||| imm.signExtend 64) 1).advance :=
  congrArg Host.Outcome.next (issueReg_unary (· ||| imm.signExtend 64) h)

theorem exec_xori :
    exec (.xori d a imm) s = .next (withResult s d (s.hart.reg a ^^^ imm.signExtend 64) 1).advance :=
  congrArg Host.Outcome.next (issueReg_unary (· ^^^ imm.signExtend 64) h)

end

theorem exec_lhi (imm : BitVec 19) (h : Issues s 0 [d]) :
    exec (.lhi d imm) s = .next (withResult s d (imm.signExtend 64 <<< 14) 1).advance :=
  congrArg Host.Outcome.next (issueReg_nullary (fun _ => imm.signExtend 64 <<< 14) h)

theorem exec_adpc (imm : BitVec 19) (h : Issues s 0 [d]) :
    exec (.adpc d imm) s = .next (withResult s d (s.hart.pc + (imm.signExtend 64 <<< 14)) 1).advance :=
  congrArg Host.Outcome.next (issueReg_nullary (fun t => t.hart.pc + (imm.signExtend 64 <<< 14)) h)

/-! ### The conditional branches (R76) -/

/-- The model's "at least" of `bge` is the negated signed comparison. -/
theorem decide_toInt_le_eq_not_slt (x y : Word) : decide (y.toInt ≤ x.toInt) = !x.slt y :=
  BitVec.sle_eq_not_slt

/-- The model's "at least" of `bgeu` is the negated unsigned comparison. -/
theorem decide_toNat_le_eq_not_ult (x y : Word) : decide (y.toNat ≤ x.toNat) = !x.ult y :=
  BitVec.ule_eq_not_ult y x

section
variable (off : BitVec 13) (h : Issues s 0 [a, b])
include h

theorem exec_beq : exec (.beq a b off) s =
    .next (if decide (s.hart.reg a = s.hart.reg b) then s.jump (s.hart.pc + off.signExtend 64 * 4) else s.advance) :=
  congrArg Host.Outcome.next (issueBranch_compare off (fun x y => decide (x = y)) h)

theorem exec_bne : exec (.bne a b off) s =
    .next (if decide (s.hart.reg a ≠ s.hart.reg b) then s.jump (s.hart.pc + off.signExtend 64 * 4) else s.advance) :=
  congrArg Host.Outcome.next (issueBranch_compare off (fun x y => decide (x ≠ y)) h)

theorem exec_blt : exec (.blt a b off) s =
    .next (if (s.hart.reg a).slt (s.hart.reg b) then s.jump (s.hart.pc + off.signExtend 64 * 4) else s.advance) :=
  congrArg Host.Outcome.next (issueBranch_compare off BitVec.slt h)

theorem exec_bge : exec (.bge a b off) s =
    .next (if !(s.hart.reg a).slt (s.hart.reg b) then s.jump (s.hart.pc + off.signExtend 64 * 4) else s.advance) := by
  rw [← decide_toInt_le_eq_not_slt]
  exact congrArg Host.Outcome.next (issueBranch_compare off (fun x y => decide (y.toInt ≤ x.toInt)) h)

theorem exec_bltu : exec (.bltu a b off) s =
    .next (if (s.hart.reg a).ult (s.hart.reg b) then s.jump (s.hart.pc + off.signExtend 64 * 4) else s.advance) :=
  congrArg Host.Outcome.next (issueBranch_compare off BitVec.ult h)

theorem exec_bgeu : exec (.bgeu a b off) s =
    .next (if !(s.hart.reg a).ult (s.hart.reg b) then s.jump (s.hart.pc + off.signExtend 64 * 4) else s.advance) := by
  rw [← decide_toNat_le_eq_not_ult]
  exact congrArg Host.Outcome.next (issueBranch_compare off (fun x y => decide (y.toNat ≤ x.toNat)) h)

end

/-! ### The jumps (R77, R78) -/

theorem exec_j (off : BitVec 25) (h : Issues s 0 []) :
    exec (.j off) s = .next (s.jump (s.hart.pc + off.signExtend 64 * 4)) :=
  congrArg Host.Outcome.next (issue_runs _ [] [] _ s (wordCheck_bit s 0 h.declared) h.free)

theorem exec_call (off : BitVec 25) (h : Issues s 0 [31]) :
    exec (.call off) s = .next ((withResult s 31 (s.hart.pc + 4) 1).jump (s.hart.pc + off.signExtend 64 * 4)) := by
  rw [← writeReg_free s 31 _ 1 (h.free 31 (by simp))]
  exact congrArg Host.Outcome.next (issue_runs _ [] [31] _ s (wordCheck_bit s 0 h.declared) h.free)

/-- What `jr` does once it issues: the model asks first for a misaligned target, the statement for an aligned one. -/
theorem exec_jr (h : Issues s 0 [a, d]) :
    exec (.jr d a) s =
      .next (if (s.hart.reg a).toNat % 4 = 0 then (withResult s d (s.hart.pc + 4) 1).jump (s.hart.reg a)
        else s.trapHere .fetch 3) := by
  rw [← writeReg_free s d _ 1 (h.free d (by simp)), ← src_of_issues h (a := a) (by simp), ← ite_not]
  exact congrArg Host.Outcome.next (issue_runs _ [a] [d] _ s (wordCheck_bit s 0 h.declared) h.free)

end

/-! ### The reserved conditions (R76) -/

/-- A field of a word, as the decoder takes it out. -/
theorem fld_toNat (w : BitVec 32) (lo n : Nat) : fld w.toNat lo n = (w.extractLsb' lo n).toNat := by
  rw [BitVec.extractLsb'_toNat, Nat.shiftRight_eq_div_pow, fld]

theorem decode_sbr {w : BitVec 32} (h : w.extractLsb' 26 6 = 4) : decode w = decodeSbr w.toNat := by
  have hmaj : fld w.toNat 26 6 = 4 := by rw [fld_toNat, h]; rfl
  simp only [decode, decodeNat, hmaj]

/-- COND 0b110 and 0b111 are no branch. -/
theorem decodeSbr_reserved {w : Nat} (h : 6 ≤ fld w 23 3) : decodeSbr w = none := by
  have hlt : fld w 23 3 < 8 := Nat.mod_lt _ (by decide)
  obtain h6 | h7 : fld w 23 3 = 6 ∨ fld w 23 3 = 7 := by omega
  · simp only [decodeSbr, h6]
  · simp only [decodeSbr, h7]

/-- Settles O2: each of the four is SIM's shape with its own operation. -/
theorem immediateResults : Obligations.ImmediateResults := by
  unfold Obligations.ImmediateResults
  intro d a imm s h
  exact ⟨exec_addi imm h, exec_andi imm h, exec_ori imm h, exec_xori imm h⟩

/-- Settles O3: each word's own law, and the decoder's refusal of the two reserved conditions. -/
theorem branchesAndJumps : Obligations.BranchesAndJumps := by
  unfold Obligations.BranchesAndJumps
  refine ⟨⟨?branches, advance_pc, jump_pc, ?reserved⟩, fun off _ h => exec_j off h, fun off _ h => exec_call off h,
    fun _ _ _ h => exec_jr h, fun _ imm _ h => ⟨exec_lhi imm h, exec_adpc imm h⟩⟩
  case branches =>
    intro a b off s h
    exact ⟨exec_beq off h, exec_bne off h, exec_blt off h, exec_bge off h, exec_bltu off h, exec_bgeu off h⟩
  case reserved =>
    intro w hmaj hcond
    rw [decode_sbr hmaj, decodeSbr_reserved (by rwa [fld_toNat])]

end Sys2Proof.Machine
end

section
/-! Proofs about 05_harts_and_lanes.md: `vloop` (R115), with what it needs of the elements of a register group (R97), the mirror
lanes (R314), the slots that pass (R17) and the start of an entry that races with nothing (R107). -/
namespace Sys2Proof.Machine
open Sys2Proof.Claims

/-! ### Bit fields of a register -/

theorem getBits_testBit (x : VBits) (lo len j : Nat) :
    (getBits x lo len).testBit j = (decide (j < len) && x.toNat.testBit (lo + j)) := by
  simp [getBits, Nat.testBit_mod_two_pow, Nat.testBit_div_two_pow, Nat.add_comm]

theorem getBits_lt (x : VBits) (lo len : Nat) : getBits x lo len < 2 ^ len := Nat.mod_lt _ (by positivity)

/-- A value splits into what lies above a field, the field, and what lies below it. -/
theorem toNat_eq_fields (x : VBits) (lo len : Nat) :
    x.toNat = 2 ^ lo * (2 ^ len * (x.toNat / 2 ^ lo / 2 ^ len) + getBits x lo len) + x.toNat % 2 ^ lo := by
  rw [getBits, Nat.div_add_mod, Nat.div_add_mod]

theorem testBit_fields {lo len mid low : Nat} (hi j : Nat) (hmid : mid < 2 ^ len) (hlow : low < 2 ^ lo) :
    (2 ^ lo * (2 ^ len * hi + mid) + low).testBit j =
      if j < lo then low.testBit j else if j - lo < len then mid.testBit (j - lo) else hi.testBit (j - lo - len) := by
  rw [Nat.testBit_two_pow_mul_add _ hlow, Nat.testBit_two_pow_mul_add _ hmid]

theorem putBits_testBit {lo len : Nat} (x : VBits) (v j : Nat) (h : lo + len ≤ 8192) :
    (putBits x lo len v).toNat.testBit j =
      if lo ≤ j ∧ j < lo + len then (v % 2 ^ len).testBit (j - lo) else x.toNat.testBit j := by
  have hlow : x.toNat % 2 ^ lo < 2 ^ lo := Nat.mod_lt _ (by positivity)
  have hmid : v % 2 ^ len < 2 ^ len := Nat.mod_lt _ (by positivity)
  have hx := toNat_eq_fields x lo len
  have hput : x.toNat - getBits x lo len * 2 ^ lo + v % 2 ^ len * 2 ^ lo =
      2 ^ lo * (2 ^ len * (x.toNat / 2 ^ lo / 2 ^ len) + v % 2 ^ len) + x.toNat % 2 ^ lo := by
    rw [Nat.mul_add] at hx ⊢
    rw [Nat.mul_comm _ (2 ^ lo), Nat.mul_comm _ (2 ^ lo)]
    omega
  rw [putBits, BitVec.testBit_toNat, BitVec.getLsbD_ofNat, hput, testBit_fields _ _ hmid hlow]
  by_cases hj : j < 8192
  · rw [hx, testBit_fields _ _ (getBits_lt x lo len) hlow, ← hx]
    grind
  · have hout : x.toNat.testBit j = false :=
      (BitVec.testBit_toNat x).trans (BitVec.getLsbD_of_ge x j (by omega))
    rw [hout]
    grind

/-- A field written is read back, cut to its length. -/
theorem getBits_putBits_same {lo len : Nat} (x : VBits) (v : Nat) (h : lo + len ≤ 8192) :
    getBits (putBits x lo len v) lo len = v % 2 ^ len := by
  refine Nat.eq_of_testBit_eq fun j => ?_
  rw [getBits_testBit, putBits_testBit x v _ h, Nat.testBit_mod_two_pow]
  grind

/-- A write of a field leaves a field beside it. -/
theorem getBits_putBits_disjoint {lo len lo' len' : Nat} (x : VBits) (v : Nat) (h : lo + len ≤ 8192)
    (hd : lo' + len' ≤ lo ∨ lo + len ≤ lo') : getBits (putBits x lo len v) lo' len' = getBits x lo' len' := by
  refine Nat.eq_of_testBit_eq fun j => ?_
  rw [getBits_testBit, getBits_testBit, putBits_testBit x v _ h]
  grind

/-- A field below a bound depends on the bits below the bound only. -/
theorem getBits_congr_mod {x y : VBits} {n lo len : Nat} (h : x.toNat % 2 ^ n = y.toNat % 2 ^ n) (hn : lo + len ≤ n) :
    getBits x lo len = getBits y lo len := by
  refine Nat.eq_of_testBit_eq fun j => ?_
  have hbit := congrArg (·.testBit (lo + j)) h
  simp only [Nat.testBit_mod_two_pow] at hbit
  rw [getBits_testBit, getBits_testBit]
  grind

/-! ### Elements of a group -/

/-- An element lies in the lanes of its hart. -/
theorem elemPlace_snd_le {leff w : Nat} (base i : Nat) (hw : w ∈ [8, 16, 32, 64]) (hleff : 0 < leff) :
    (elemPlace leff w base i).2 + w ≤ 256 * leff := by
  have hlane : i % leff < leff := Nat.mod_lt _ hleff
  fin_cases hw <;> simp only [elemPlace] <;> omega

/-- The registers an element of a group of n registers lies in, without the wrap of the register numbers. -/
theorem elemPlace_fst_val {leff w base n i : Nat} (hn : base + n ≤ 32)
    (hi : i < leff * (256 / w) * n) : (elemPlace leff w base i).1.val = base + i / leff / (256 / w) := by
  have hreg : i / leff / (256 / w) < n := by
    rw [Nat.div_div_eq_div_mul]
    exact Nat.div_lt_of_lt_mul hi
  exact Nat.mod_eq_of_lt (by omega)

/-- Distinct elements of a group lie in distinct fields (R97). -/
theorem elemPlace_disjoint {leff w base n i j : Nat} (hw : w ∈ [8, 16, 32, 64]) (hn : base + n ≤ 32)
    (hi : i < leff * (256 / w) * n) (hj : j < leff * (256 / w) * n) (hij : i ≠ j)
    (hreg : (elemPlace leff w base i).1 = (elemPlace leff w base j).1) :
    (elemPlace leff w base j).2 + w ≤ (elemPlace leff w base i).2 ∨
      (elemPlace leff w base i).2 + w ≤ (elemPlace leff w base j).2 := by
  have hrow : i / leff / (256 / w) = j / leff / (256 / w) := by
    have := congrArg Fin.val hreg
    rw [elemPlace_fst_val hn hi, elemPlace_fst_val hn hj] at this
    omega
  have hsplit : i % leff ≠ j % leff ∨ i / leff % (256 / w) ≠ j / leff % (256 / w) := by
    by_contra! hsame
    have hslot : i / leff = j / leff := by
      rw [← Nat.div_add_mod (i / leff) (256 / w), ← Nat.div_add_mod (j / leff) (256 / w), hrow, hsame.2]
    exact hij (by rw [← Nat.div_add_mod i leff, ← Nat.div_add_mod j leff, hslot, hsame.1])
  fin_cases hw <;> simp only [elemPlace] <;> omega

/-- An element written is read back, cut to its width; every other element of the group stays (R97). -/
theorem vget_vput {leff w base n i j : Nat} (v : VFile) (x : Nat) (hw : w ∈ [8, 16, 32, 64]) (hleff : 0 < leff)
    (hle : leff ≤ 32) (hn : base + n ≤ 32) (hi : i < leff * (256 / w) * n) (hj : j < leff * (256 / w) * n) :
    vget (vput v leff w base i x) leff w base j = if j = i then x % 2 ^ w else vget v leff w base j := by
  have hfit : (elemPlace leff w base i).2 + w ≤ 8192 := (elemPlace_snd_le base i hw hleff).trans (by omega)
  by_cases hij : j = i
  · subst hij
    simp [vget, vput, getBits_putBits_same _ _ hfit]
  · rw [if_neg hij]
    by_cases hreg : (elemPlace leff w base i).1 = (elemPlace leff w base j).1
    · have hd := elemPlace_disjoint hw hn hi hj (Ne.symm hij) hreg
      simp [vget, vput, ← hreg, getBits_putBits_disjoint _ _ hfit hd]
    · have hval : (elemPlace leff w base i).1.val ≠ (elemPlace leff w base j).1.val := fun h => hreg (Fin.ext h)
      simp [vget, vput, hval]

theorem vget_lt (v : VFile) (leff w base i : Nat) : vget v leff w base i < 2 ^ w := getBits_lt _ _ _

/-- A pass over the first m elements of a group that writes those which satisfy p. -/
theorem vget_foldl_vput {leff w base n m j : Nat} (v : VFile) (p : Nat → Bool) (f : Nat → Nat) (hw : w ∈ [8, 16, 32, 64])
    (hleff : 0 < leff) (hle : leff ≤ 32) (hn : base + n ≤ 32) (hm : m ≤ leff * (256 / w) * n)
    (hj : j < leff * (256 / w) * n) :
    vget ((List.range m).foldl (fun v i => if p i then vput v leff w base i (f i) else v) v) leff w base j =
      if j < m ∧ p j then f j % 2 ^ w else vget v leff w base j := by
  induction m with
  | zero => simp
  | succ m ih =>
    rw [List.range_succ, List.foldl_append, List.foldl_cons, List.foldl_nil]
    by_cases hp : p m
    · rw [if_pos hp, vget_vput _ _ hw hleff hle hn hm hj, ih (by omega)]
      grind
    · rw [if_neg hp, ih (by omega)]
      grind

/-! ### Bits of a mask -/

theorem getLsbD_mset_false (m : MBits) (i j : Nat) : (mset m i false).getLsbD j = (m.getLsbD j && !decide (j = i)) := by
  by_cases hj : j < 8192
  · simp only [mset, Bool.false_eq_true, if_false, BitVec.getLsbD_and, BitVec.getLsbD_not, BitVec.getLsbD_ofNat,
      Nat.testBit_two_pow, hj, decide_true, Bool.true_and, eq_comm]
  · have hge : 8192 ≤ j := by omega
    rw [BitVec.getLsbD_of_ge _ j hge, BitVec.getLsbD_of_ge m j hge, Bool.false_and]

/-- A pass over the first n bits of a mask that clears those which satisfy p. -/
theorem getLsbD_foldl_clear (p : Nat → Bool) (m : MBits) (n j : Nat) :
    ((List.range n).foldl (fun m i => if p i then mset m i false else m) m).getLsbD j =
      (m.getLsbD j && !(decide (j < n) && p j)) := by
  induction n with
  | zero => simp
  | succ n ih =>
    rw [List.range_succ, List.foldl_append, List.foldl_cons, List.foldl_nil]
    by_cases hp : p n
    · rw [if_pos hp, getLsbD_mset_false, ih]
      grind
    · rw [if_neg hp, ih]
      grind

/-! ### Elements of a hart -/

theorem leff_le_32 {h : Hart} (hl : h.lanes ≤ 32) : h.leff ≤ 32 := by
  unfold Hart.leff
  split <;> omega

theorem element_congr {h h' : Hart} (hv : h'.v = h.v) (hl : h'.leff = h.leff) (w : Nat) (r : VReg) (i : Nat) :
    element h' w r i = element h w r i := by
  rw [element, element, hv, hl]

/-! ### Mirror lanes -/

theorem mirrorBits_mod {leff : Nat} (x : VBits) (h : leff ≤ 32) :
    (mirrorBits leff x).toNat % 2 ^ (256 * leff) = x.toNat % 2 ^ (256 * leff) := by
  rw [mirrorBits, BitVec.toNat_ofNat]
  calc _ = (x.toNat % 2 ^ (256 * leff) + x.toNat % 2 ^ (256 * leff) * 2 ^ (256 * leff)) % 2 ^ (256 * leff) :=
        Nat.mod_mod_of_dvd _ (Nat.pow_dvd_pow 2 (by omega))
    _ = x.toNat % 2 ^ (256 * leff) := by rw [Nat.add_mul_mod_self_right, Nat.mod_mod]

/-- A hart after another in which at most the lanes above the effective ones have changed. -/
structure OnlyMirrors (h h' : Hart) : Prop where
  frame : h' = { h with v := h'.v }
  main : ∀ r : VReg, h'.v[r].toNat % 2 ^ (256 * h.leff) = h.v[r].toNat % 2 ^ (256 * h.leff)

theorem OnlyMirrors.refl (h : Hart) : OnlyMirrors h h := ⟨rfl, fun _ => rfl⟩

theorem OnlyMirrors.leff {h h' : Hart} (k : OnlyMirrors h h') : h'.leff = h.leff := by
  rw [k.frame]; rfl

theorem OnlyMirrors.set {h h' : Hart} (k : OnlyMirrors h h') (hle : h.leff ≤ 32) (r : VReg) :
    OnlyMirrors h { h' with v := h'.v.set r (mirrorBits h'.leff h'.v[r]) } where
  frame := by rw [k.frame]
  main q := by
    by_cases hq : r.val = q.val
    · obtain rfl : r = q := Fin.ext hq
      simpa [k.leff, mirrorBits_mod _ hle] using k.main r
    · simpa [hq] using k.main q

/-- Protected mode's copies go to the mirror lanes (R314). -/
theorem mirrorWrites_onlyMirrors {h : Hart} (hle : h.leff ≤ 32) (us : List VUse) (g8 sew : Nat) :
    OnlyMirrors h (h.mirrorWrites us g8 sew) := by
  unfold Hart.mirrorWrites
  split
  · exact List.foldlRecOn _ _ (OnlyMirrors.refl h) fun _ k _ _ =>
      List.foldlRecOn _ _ k fun _ k _ _ => k.set hle _
  · exact OnlyMirrors.refl h

theorem OnlyMirrors.element {h h' : Hart} (k : OnlyMirrors h h') {w : Nat} (hw : w ∈ [8, 16, 32, 64]) (hleff : 0 < h.leff)
    (r : VReg) (i : Nat) : element h' w r i = element h w r i := by
  rw [Claims.element, Claims.element, k.leff]
  exact getBits_congr_mod (k.main _) (elemPlace_snd_le _ _ hw hleff)

/-! ### What a slot leaves of the vector side -/

/-- The fragments and lanes stay, and outside a handler the queue does: only a handler's write of TRCAUSE discards the head of
the frozen queue (R293). -/
structure FragsKept (h h' : Hart) : Prop where
  fm : h'.fm = h.fm
  frags : h'.frags = h.frags
  leff : h'.leff = h.leff
  mode : h'.hst.mode = h.hst.mode
  vq : h.hst.mode = false → h'.vq = h.vq

theorem FragsKept.refl (h : Hart) : FragsKept h h := ⟨rfl, rfl, rfl, rfl, fun _ => rfl⟩

theorem FragsKept.trans {h h' h'' : Hart} (k : FragsKept h h') (k' : FragsKept h' h'') : FragsKept h h'' :=
  ⟨k'.fm.trans k.fm, k'.frags.trans k.frags, k'.leff.trans k.leff, k'.mode.trans k.mode,
    fun hm => (k'.vq (k.mode.trans hm)).trans (k.vq hm)⟩

theorem setRegIn_fragsKept (h : Hart) (sup : Bool) (r : SReg) (v : Word) : FragsKept h (h.setRegIn sup r v) := by
  unfold Hart.setRegIn
  split
  · exact FragsKept.refl h
  · split <;> exact ⟨rfl, rfl, rfl, rfl, fun _ => rfl⟩

theorem setCreg_vq {h : Hart} (c : CReg) (v : Word) (hm : h.hst.mode = false) : (h.setCreg c v).vq = h.vq := by
  cases c with
  | trcause => simp [Hart.setCreg, Hart.setTrcause, Hart.queueFrozen, hm]
  | _ => rfl

theorem setCreg_fragsKept (h : Hart) (c : CReg) (v : Word) : FragsKept h (h.setCreg c v) := by
  have hvq := setCreg_vq (h := h) c v
  rw [setCreg_keeps] at hvq ⊢
  exact ⟨rfl, rfl, rfl, rfl, hvq⟩

theorem landOne_fragsKept (s : State) (x : Infl) : FragsKept s.hart (landOne s x).hart := by
  have flags (t : State) (k : FragsKept s.hart t.hart) :
      FragsKept s.hart (if x.flags = 0 then t else t.mapHart fun h => { h with xst := h.xst ||| x.flags }).hart := by
    split
    · exact k
    · exact k.trans ⟨rfl, rfl, rfl, rfl, fun _ => rfl⟩
  unfold landOne
  refine flags _ ?_
  cases x.dest with
  | sreg sup r => exact setRegIn_fragsKept _ _ _ _
  | creg c => exact setCreg_fragsKept _ _ _
  | mxc | mdim | none => exact FragsKept.refl _

theorem foldl_landOne_fragsKept : ∀ (xs : List Infl) (s : State), FragsKept s.hart (xs.foldl landOne s).hart
  | [], s => FragsKept.refl s.hart
  | x :: xs, s => (landOne_fragsKept s x).trans (foldl_landOne_fragsKept xs (landOne s x))

theorem landDue_fragsKept (s : State) : FragsKept s.hart (landDue s).hart := by
  rw [landDue_eq]
  have hdrop : FragsKept s.hart
      (s.mapHart fun h => { h with infl := h.infl.filter fun x => !decide (x.ready ≤ h.slot) }).hart :=
    ⟨rfl, rfl, rfl, rfl, fun _ => rfl⟩
  exact hdrop.trans (foldl_landOne_fragsKept _ _)

theorem landDue_none {s : State} (h : s.hart.infl = []) : (landDue s).hart.vq = s.hart.vq := by
  simp [landDue, h]

theorem foldl_performLoad_hart : ∀ (xs : List ChartLoad) (s : State),
    (xs.foldl performLoad s).hart = { s.hart with
      stores := (xs.foldl performLoad s).hart.stores, loads := (xs.foldl performLoad s).hart.loads
      infl := (xs.foldl performLoad s).hart.infl }
  | [], _ => rfl
  | x :: xs, s => by
    rw [List.foldl_cons, foldl_performLoad_hart xs (performLoad s x), performLoad_eq]

/-- The loads of a slot that perform change nothing of the vector side. -/
theorem slotOpened_hart (s : State) : (slotOpened s).hart = { s.hart with
    slot := s.hart.slot + 1, clock := s.hart.clock + 1, stores := (slotOpened s).hart.stores
    loads := (slotOpened s).hart.loads, infl := (slotOpened s).hart.infl } :=
  foldl_performLoad_hart _ _

/-- What a slot merges and stores after its results have landed changes nothing of the vector side. -/
theorem tick_hart (s : State) : (tick s).hart = { (landDue (slotOpened s)).hart with
    xst := (tick s).hart.xst, xi := (tick s).hart.xi, merges := (tick s).hart.merges, stores := (tick s).hart.stores } := by
  have h : tick s = storesDue (mergeDue (landDue (slotOpened s))) := rfl
  rw [h, storesDue_eq, mergeDue_keeps]

theorem tick_fragsKept (s : State) : FragsKept s.hart (tick s).hart := by
  have hopen : FragsKept s.hart (slotOpened s).hart := by
    rw [slotOpened_hart]
    exact ⟨rfl, rfl, rfl, rfl, fun _ => rfl⟩
  rw [tick_hart]
  exact (hopen.trans (landDue_fragsKept _)).trans ⟨rfl, rfl, rfl, rfl, fun _ => rfl⟩

/-- With nothing in flight nothing can discard the head of the queue, in a handler either. -/
theorem tick_vq_of_infl_nil {s : State} (h : s.hart.infl = []) :
    (tick s).hart.vq = s.hart.vq ∧ (tick s).hart.infl = [] := by
  obtain ⟨-, -, -, hmap⟩ := slotOpened_keeps s
  have hopen : (slotOpened s).hart.infl = [] := by simpa [h] using hmap
  have hvq : (slotOpened s).hart.vq = s.hart.vq := by rw [slotOpened_hart]
  obtain ⟨-, -, hland⟩ := landDue_time (slotOpened s)
  rw [tick_hart]
  exact ⟨(landDue_none hopen).trans hvq, hland.trans (by rw [hopen]; rfl)⟩

theorem ticks_fragsKept : ∀ (n : Nat) (s : State), FragsKept s.hart (ticks n s).hart
  | 0, s => FragsKept.refl s.hart
  | n + 1, s => (tick_fragsKept s).trans (ticks_fragsKept n (tick s))

theorem ticks_vq_of_infl_nil : ∀ (n : Nat) {s : State}, s.hart.infl = [] → (ticks n s).hart.vq = s.hart.vq
  | 0, _, _ => rfl
  | n + 1, _, h => by
    obtain ⟨hvq, hinfl⟩ := tick_vq_of_infl_nil h
    exact (ticks_vq_of_infl_nil n hinfl).trans hvq

/-- Slots that pass keep the queue of a hart where no handler has a result in flight. -/
theorem ticks_vq (n : Nat) {s : State} (h : s.hart.hst.mode = true → s.hart.infl = []) :
    (ticks n s).hart.vq = s.hart.vq := by
  cases hm : s.hart.hst.mode with
  | false => exact (ticks_fragsKept n s).vq hm
  | true => exact ticks_vq_of_infl_nil n (h hm)

/-! ### The start of an entry that races with nothing -/

theorem sewOf_mem (vcfg : BitVec 9) : sewOf vcfg ∈ [8, 16, 32, 64] := by
  have h : vcfg.toNat % 4 < 4 := Nat.mod_lt _ (by decide)
  unfold sewOf
  interval_cases vcfg.toNat % 4 <;> decide

theorem g8Of_mem (vcfg : BitVec 9) : g8Of vcfg ∈ [0, 1, 2, 4, 8, 16, 32, 64] := by
  unfold g8Of
  split <;> decide

/-- Registers of a group at SEW: the G of the configuration, at least one (R101). -/
theorem groupSize_sewOf (x : VEntry) : groupSize x (sewOf x.vcfg) = max 1 (g8Of x.vcfg / 8) := by
  have h : 0 < sewOf x.vcfg := by simp [sewOf]
  rw [groupSize, Nat.mul_div_cancel _ h]

theorem groupSize_sewOf_mem (x : VEntry) : groupSize x (sewOf x.vcfg) ∈ [1, 2, 4, 8] := by
  rw [groupSize_sewOf]
  have hg := g8Of_mem x.vcfg
  generalize g8Of x.vcfg = g at hg
  fin_cases hg <;> decide

/-- A length within VLMAX stays within the group (R100, R101). -/
theorem le_positions_of_le_vlmax {x : VEntry} {leff n : Nat} (h : n ≤ vlmaxOf leff x.vcfg 0) :
    n ≤ leff * (256 / sewOf x.vcfg) * groupSize x (sewOf x.vcfg) := by
  have hg : g8Of x.vcfg ≤ 8 * groupSize x (sewOf x.vcfg) := by
    have hmem := g8Of_mem x.vcfg
    rw [groupSize_sewOf]
    generalize g8Of x.vcfg = g at hmem ⊢
    fin_cases hmem <;> decide
  calc n ≤ 256 / sewOf x.vcfg * leff * g8Of x.vcfg / 8 := by simpa [vlmaxOf] using h
    _ ≤ 256 / sewOf x.vcfg * leff * (8 * groupSize x (sewOf x.vcfg)) / 8 :=
        Nat.div_le_div_right (Nat.mul_le_mul_left _ hg)
    _ = leff * (256 / sewOf x.vcfg) * groupSize x (sewOf x.vcfg) := by
        rw [Nat.mul_left_comm, Nat.mul_div_cancel_left _ (by decide), Nat.mul_comm leff]

/-- A group whose base is a multiple of its size ends within the register file (R101). -/
theorem base_add_groupSize_le {x : VEntry} {r : VReg} (h : r.val % groupSize x (sewOf x.vcfg) = 0) :
    r.val + groupSize x (sewOf x.vcfg) ≤ 32 := by
  have hmem := groupSize_sewOf_mem x
  generalize groupSize x (sewOf x.vcfg) = n at h hmem ⊢
  fin_cases hmem <;> omega

/-- An operand at SEW that passes the checks lies within the register file. -/
theorem groupBase_of_ok {x : VEntry} {r : VReg} (h : (rwV r (sewOf x.vcfg)).ok (g8Of x.vcfg) (sewOf x.vcfg) = true) :
    r.val + groupSize x (sewOf x.vcfg) ≤ 32 := by
  obtain ⟨-, -, -, -, hbase⟩ := of_decide_eq_true h
  exact base_add_groupSize_le hbase

/-- A due entry that races with nothing has its effect, with the registers as they stand (R107). -/
theorem startEntry_of_starts {s : State} {x : VEntry} {rest : List VEntry} (h : Starts s x rest)
    (hpost : x.op.postsAtOnce = false) :
    let x' := { x with fm := s.hart.fm }
    s.startEntry false =
      s.startWith x' (s.hart.geo x') (max s.hart.beat x.slot) false (s.hart.v, s.hart.m) s.hart.v := by
  have hdue : s.hart.beatDue { x with fm := s.hart.fm } = true := by
    simp [Hart.beatDue, hpost, h.due, h.live]
  simp only [State.startEntry, h.head, h.thawed, h.passed, hdue, VEntry.fillsTail, h.unraced, Bool.not_true, Bool.and_false,
    Bool.or_false, Bool.false_eq_true, if_false]

/-! ### After a vector control transfer -/

/-- Two redirect slots pass where the front goes elsewhere than to the next word (R110). -/
theorem vctTo_eq (s : State) (x : VEntry) (target : Word) : s.vctTo x target =
    ticks (if target = x.addr + 4 then 0 else 2)
      (s.mapHart fun h => { h with pc := target, lastTransfer := if target = x.addr + 4 then none else some x.addr }) := by
  unfold State.vctTo
  split <;> rfl

theorem vctTo_fragsKept (s : State) (x : VEntry) (target : Word) : FragsKept s.hart (s.vctTo x target).hart := by
  have hpc : FragsKept s.hart (s.mapHart fun h =>
      { h with pc := target, lastTransfer := if target = x.addr + 4 then none else some x.addr }).hart :=
    ⟨rfl, rfl, rfl, rfl, fun _ => rfl⟩
  rw [vctTo_eq]
  exact hpc.trans (ticks_fragsKept _ _)

theorem vctTo_vq {s : State} (x : VEntry) (target : Word) (h : s.hart.hst.mode = true → s.hart.infl = []) :
    (s.vctTo x target).hart.vq = s.hart.vq := by
  rw [vctTo_eq]
  exact ticks_vq _ h

@[simp] theorem vctTo_pc (s : State) (x : VEntry) (target : Word) : (s.vctTo x target).hart.pc = target := by
  rw [vctTo_eq, (ticks_keeps _ _).pc, mapHart_hart]

@[simp] theorem vctTo_v (s : State) (x : VEntry) (target : Word) : (s.vctTo x target).hart.v = s.hart.v := by
  rw [vctTo_eq, (ticks_keeps _ _).v, mapHart_hart]

@[simp] theorem vctTo_m (s : State) (x : VEntry) (target : Word) : (s.vctTo x target).hart.m = s.hart.m := by
  rw [vctTo_eq, (ticks_keeps _ _).m, mapHart_hart]

@[simp] theorem rewritten_hart (s : State) (x : VEntry) : (s.rewritten x).hart = s.hart := by
  unfold State.rewritten
  split <;> rfl

theorem exec_vectorEntryStart_of_moved {s t : State} (h : s.startEntry false = .moved t) :
    exec .vectorEntryStart s = .next t := by
  have hexec : exec .vectorEntryStart s = .next s.entryStarts := rfl
  rw [hexec, State.entryStarts, h]

/-! ### A pass of `vloop` over the elements -/

/-- An element `vloop` counts: its bit is set and it runs in the fragment (R115). -/
def VEnv.loops (e : VEnv) (k : MReg) (i : Nat) : Bool := e.fm.getLsbD i && e.m[k].getLsbD i

/-- The trip counts after a pass. -/
def VEnv.countedDown (e : VEnv) (a : VReg) (k : MReg) : VFile :=
  (List.range e.vl).foldl (fun v i =>
    if e.loops k i then vput v e.leff e.sew a.val i (e.get e.sew a i - 1) else v) e.v0

/-- The mask after a pass: the bits of those that end are cleared. -/
def VEnv.loopsLeft (e : VEnv) (a : VReg) (k : MReg) : MBits :=
  (List.range e.vl).foldl (fun m i =>
    if e.loops k i && decide (e.get e.sew a i ≤ 1) then mset m i false else m) e.m0[k]

/-- Whether a pass leaves an element that loops. -/
def VEnv.loopsAgain (e : VEnv) (a : VReg) (k : MReg) : Bool :=
  (List.range e.vl).any fun i => e.fm.getLsbD i && (e.loopsLeft a k).getLsbD i

/-- A pass takes one from the count of each element that loops, and none below zero. -/
theorem vget_countedDown {e : VEnv} {a : VReg} {n i : Nat} (k : MReg) (hv : e.v = e.v0) (hw : e.sew ∈ [8, 16, 32, 64])
    (hleff : 0 < e.leff) (hle : e.leff ≤ 32) (hn : a.val + n ≤ 32) (hvl : e.vl ≤ e.leff * (256 / e.sew) * n)
    (hi : i < e.leff * (256 / e.sew) * n) :
    vget (e.countedDown a k) e.leff e.sew a.val i =
      if i < e.vl ∧ e.loops k i = true then e.get e.sew a i - 1 else e.get e.sew a i := by
  have hlt : e.get e.sew a i < 2 ^ e.sew := vget_lt _ _ _ _ _
  rw [VEnv.countedDown, vget_foldl_vput _ _ _ hw hleff hle hn hvl hi, Nat.mod_eq_of_lt (by omega), ← hv]
  rfl

theorem loopsLeft_getLsbD (e : VEnv) (a : VReg) (k : MReg) (i : Nat) :
    (e.loopsLeft a k).getLsbD i =
      (e.m0[k].getLsbD i && !(decide (i < e.vl) && (e.loops k i && decide (e.get e.sew a i ≤ 1)))) :=
  getLsbD_foldl_clear _ _ _ _

theorem loopsAgain_iff {e : VEnv} (hm : e.m = e.m0) (a : VReg) (k : MReg) :
    e.loopsAgain a k = true ↔ ∃ i < e.vl, e.loops k i = true ∧ 1 < e.get e.sew a i := by
  simp only [VEnv.loopsAgain, List.any_eq_true, List.mem_range, loopsLeft_getLsbD]
  refine exists_congr fun i => and_congr_right fun hi => ?_
  simp only [VEnv.loops, hm, hi]
  grind

/-! ### The state after `vloop` -/

/-- What an entry sees where nothing races: the registers as they stand. -/
def Hart.sees (h : Hart) (x : VEntry) : VEnv := h.env x h.v h.m

theorem sees_leff {h : Hart} (x : VEntry) (hleff : 0 < h.leff) : (h.sees x).leff = h.leff := Nat.max_eq_right hleff

theorem sees_get {h : Hart} (x : VEntry) (hleff : 0 < h.leff) (w : Nat) (r : VReg) (i : Nat) :
    (h.sees x).get w r i = element h w r i := by
  rw [VEnv.get, sees_leff x hleff]
  rfl

/-- The hart with the counts and the mask of a pass, before the mirror lanes follow. -/
def Hart.passed (h : Hart) (x : VEntry) (a : VReg) (k : MReg) : Hart :=
  { h with v := (h.sees x).countedDown a k, m := h.m.set k ((h.sees x).loopsLeft a k) }

/-- The hart after a pass (R314). -/
def Hart.looped (h : Hart) (x : VEntry) (a : VReg) (k : MReg) : Hart :=
  (h.passed x a k).mirrorWrites (h.geo x).us (h.geo x).g8 (h.geo x).sew

theorem looped_onlyMirrors {h : Hart} (hle : h.leff ≤ 32) (x : VEntry) (a : VReg) (k : MReg) :
    OnlyMirrors (h.passed x a k) (h.looped x a k) :=
  mirrorWrites_onlyMirrors (h := h.passed x a k) hle _ _ _

/-- The state after a pass, before the front goes on. -/
def loopedState (s : State) (x : VEntry) (a : VReg) (k : MReg) : State :=
  (({ s with hart := s.hart.looped x a k }.rewritten x).popEntry (max s.hart.beat x.slot) 1).bump 0

/-- Where the front goes on (R115). -/
def Hart.loopTarget (h : Hart) (x : VEntry) (a : VReg) (k : MReg) (off : BitVec 13) : Word :=
  if (h.sees x).loopsAgain a k then x.addr + off.signExtend 64 * 4 else x.addr + 4

/-- What `vloop` does where nothing races. -/
theorem startWith_vloop {s : State} {x : VEntry} {a : VReg} {k : MReg} {off : BitVec 13} (hop : x.op = .vloop a k off) :
    s.startWith x (s.hart.geo x) (max s.hart.beat x.slot) false (s.hart.v, s.hart.m) s.hart.v =
      .moved ((loopedState s x a k).vctTo x (s.hart.loopTarget x a k off)) := by
  simp only [State.startWith, hop]
  rfl

theorem exec_vloop {s : State} {x : VEntry} {rest : List VEntry} {a : VReg} {k : MReg} {off : BitVec 13}
    (h : Starts s x rest) (hop : x.op = .vloop a k off) :
    let x' := { x with fm := s.hart.fm }
    exec .vectorEntryStart s = .next ((loopedState s x' a k).vctTo x' (s.hart.loopTarget x' a k off)) := by
  have hpost : x.op.postsAtOnce = false := by rw [hop]; rfl
  intro x'
  refine exec_vectorEntryStart_of_moved ?_
  rw [startEntry_of_starts h hpost]
  exact startWith_vloop hop

section
variable {s : State} (hleff : 0 < s.hart.leff) (hle : s.hart.leff ≤ 32) (x : VEntry) (a : VReg) (k : MReg)

include hle in
theorem loopedState_hart : (loopedState s x a k).hart = { s.hart with
    v := (s.hart.looped x a k).v, m := s.hart.m.set k ((s.hart.sees x).loopsLeft a k)
    vq := s.hart.vq.drop 1, beat := max s.hart.beat x.slot + 1 } := by
  simp only [loopedState, bump_hart, State.popEntry, mapHart_hart, rewritten_hart]
  rw [(looped_onlyMirrors hle x a k).frame]
  rfl

include hle in
theorem loopedState_fragsKept : FragsKept { s.hart with vq := s.hart.vq.drop 1 } (loopedState s x a k).hart := by
  rw [loopedState_hart hle]
  exact ⟨rfl, rfl, rfl, rfl, fun _ => rfl⟩

include hleff hle in
/-- The counts that stand in the registers after a pass, protected mode's copies included (R115, R314). -/
theorem element_loopedState {n i : Nat} (hn : a.val + n ≤ 32) (hvl : x.vl ≤ s.hart.leff * (256 / sewOf x.vcfg) * n)
    (hi : i < s.hart.leff * (256 / sewOf x.vcfg) * n) :
    element (loopedState s x a k).hart (sewOf x.vcfg) a i =
      if i < x.vl ∧ (s.hart.sees x).loops k i = true then element s.hart (sewOf x.vcfg) a i - 1
      else element s.hart (sewOf x.vcfg) a i := by
  have hmirror := looped_onlyMirrors hle x a k
  have hleffs := (loopedState_fragsKept hle x a k).leff.trans hmirror.leff.symm
  have hseen := sees_leff x hleff
  have hpass := vget_countedDown (e := s.hart.sees x) (a := a) (n := n) (i := i) k rfl (sewOf_mem _)
    (by rwa [hseen]) (by rwa [hseen]) hn (by rwa [hseen]) (by rwa [hseen])
  rw [sees_get x hleff, hseen] at hpass
  calc element (loopedState s x a k).hart (sewOf x.vcfg) a i
      = element (s.hart.looped x a k) (sewOf x.vcfg) a i :=
        element_congr (by rw [loopedState_hart hle]) hleffs _ _ _
    _ = element (s.hart.passed x a k) (sewOf x.vcfg) a i := hmirror.element (sewOf_mem _) hleff a i
    _ = _ := hpass

end

/-- The group of `vloop`'s counts lies within the register file (R101). -/
theorem vloop_group_le {s : State} {x : VEntry} {rest : List VEntry} {a : VReg} {k : MReg} {off : BitVec 13}
    (h : Starts s x rest) (hop : x.op = .vloop a k off) : a.val + groupSize x (sewOf x.vcfg) ≤ 32 := by
  have hok := h.operands
  simp only [VOp.operandsOk, hop, VOp.uses, List.all_cons, Bool.and_eq_true] at hok
  obtain ⟨⟨⟨-, hcounts, -⟩, -⟩, -⟩ := hok
  exact groupBase_of_ok hcounts

/-- Settles O21: a pass changes counts and mask as `element_loopedState` and `loopsLeft_getLsbD` say, and the redirect slots
after it leave registers, fragments and queue as they are. -/
theorem vloopCounts : Obligations.VloopCounts := by
  unfold Obligations.VloopCounts
  intro s x rest a k off h hop hsafe sew on count
  obtain ⟨hleff, hlanes⟩ := h.lanes
  have hle := leff_le_32 hlanes
  let x' := { x with fm := s.hart.fm }
  have hon (i : Nat) : on i = (decide (i < x.vl) && (s.hart.sees x').loops k i) := Bool.and_assoc ..
  have hcount (i : Nat) : (s.hart.sees x').get sew a i = count i := sees_get x' hleff sew a i
  have hT := loopedState_hart hle x' a k
  have hpass := loopedState_fragsKept hle x' a k
  have hslots := vctTo_fragsKept (loopedState s x' a k) x' (s.hart.loopTarget x' a k off)
  have hkept := hpass.trans hslots
  refine ⟨_, exec_vloop h hop, ?vq, hkept.fm, hkept.frags, ?counts, ?bits, ?masks, ?pc⟩
  case vq =>
    rw [vctTo_vq _ _ (by rw [hT]; exact hsafe), hT, h.head]
    rfl
  case counts =>
    intro i hi
    have hpred : (if count i ≤ 1 then 0 else count i - 1) = count i - 1 := by split <;> omega
    rw [element_congr (vctTo_v ..) hslots.leff, hon, hpred]
    simpa using element_loopedState hleff hle x' a k (vloop_group_le h hop) (le_positions_of_le_vlmax h.length) hi
  case bits =>
    intro i _
    have hbit : ((s.hart.sees x').loopsLeft a k).getLsbD i = (s.hart.m[k].getLsbD i &&
        !(decide (i < x.vl) && ((s.hart.sees x').loops k i && decide ((s.hart.sees x').get sew a i ≤ 1)))) :=
      loopsLeft_getLsbD _ a k i
    rw [vctTo_m, hT, hon, Bool.and_assoc, ← hcount, ← hbit]
    simp
  case masks =>
    intro j hj
    rw [vctTo_m, hT]
    exact Vector.getElem_set_ne k.isLt j.isLt fun hkj => hj (Fin.ext hkj.symm)
  case pc =>
    have hagain : (s.hart.sees x').loopsAgain a k = true ↔ ∃ i < x.vl, on i = true ∧ 1 < count i := by
      rw [loopsAgain_iff rfl]
      refine exists_congr fun i => and_congr_right fun hi => ?_
      have hlt : i < x.vl := hi
      rw [hon, ← hcount, decide_eq_true hlt, Bool.true_and]
      rfl
    rw [vctTo_pc, Hart.loopTarget, if_congr hagain rfl rfl]

end Sys2Proof.Machine
end
